-- ==== Sys2Proof/Word.lean ====
section
/-! DEFINITION. Word.lean: the machine's words and the small records that instructions and events are
made of. Bits are numbered as R7 of spec/00_scope.md numbers them: bit 0 is the least significant. -/

namespace Sys2Proof

/-- A 64-bit scalar, address or counter. -/
abbrev Word := BitVec 64
/-- One byte of memory or scratchpad. -/
abbrev Byte := BitVec 8
/-- The number of a scalar register, s0 to s63. -/
abbrev Reg := BitVec 6
/-- The number of a predicate, p0 to p127. -/
abbrev Pred := BitVec 7
/-- A context identifier, which is also the ASID (R37). -/
abbrev Ctx := BitVec 12
/-- A core slot: 2 × global core + slot (R12; the order of the save records of R355). -/
abbrev SlotId := Fin 192
/-- An engine code of R12: control 0, matrix 1, vector 2, copy 3, traversal 4. -/
abbrev EngId := Fin 5
/-- A die, 0 to 3 (R12). -/
abbrev Die := Fin 4

/-- The guard of a control word (R136, R137). -/
structure Guard where
  neg  : Bool
  pred : Pred
deriving DecidableEq, Repr

/-- A source field of a control word with its last-use bit (R138). -/
structure Src where
  reg  : Reg
  last : Bool
deriving DecidableEq, Repr

/-- The units that serve requests on each die (R20, R22). -/
inductive UnitKind where
  | sampling | speculation | text
deriving DecidableEq, Repr

/-- The PCIe AtomicOps that cross the port (R108, R367); cas128 is the 128-bit CAS that it does not support. -/
inductive PcieOp where
  | fetchAdd | swap | cas | cas128
deriving DecidableEq, Repr

/-- What a soft error struck (R29). The Bool is true for an uncorrectable error, or a parity error. -/
inductive SoftTarget where
  /-- LPDDR-6 data or a data cache: the physical address and byte count. -/
  | memory (pa n : Nat)
  /-- Tile-cache data: the die, the index of the line, the offset in the tile and byte count. -/
  | tileData (die : Die) (line off n : Nat)
  /-- The SRAM pool of a slot: scratchpad offset and byte count. -/
  | pool (slot : SlotId) (off n : Nat)
  /-- Checkpoint storage of a slot: byte offset and byte count. -/
  | checkpoint (slot : SlotId) (off n : Nat)
  /-- A tile-cache tag: the die and the index of the line. -/
  | tileTag (die : Die) (line : Nat)
  /-- A readiness-table entry: the die and the index of the entry. -/
  | readiness (die : Die) (entry : Nat)
  /-- A TLB or a stream TLB of a core: the engine code. -/
  | tlb (core : Fin 96) (eng : EngId)
  /-- The walk cache of a core. -/
  | walkCache (core : Fin 96)
  /-- Tile registers of a slot: byte offset and byte count. -/
  | tileRegs (slot : SlotId) (off n : Nat)
  /-- Accumulator tiles of a slot: element index and count. -/
  | accTiles (slot : SlotId) (off n : Nat)
  /-- The byte that a launch of the copy stream, or a channel, holds. -/
  | holdBuffer (slot : SlotId) (index : Nat) (chan : Option (Fin 2))
  /-- An instruction cache: the access refetches. -/
  | icache (core : Fin 96)
deriving DecidableEq, Repr

/-- What the start steps find out (R381): the inputs of a cold or warm start. -/
structure StartReport where
  /-- A step of 1 to 8 that fails the start, if one does. -/
  failStep : Option Nat
  /-- Dies 2 and 3 and the cross-package link pass steps 4 to 6. -/
  secondPackage : Bool
  /-- The EtherType that the firmware image sets (R379). -/
  etype : BitVec 16
  /-- The debug challenge drawn (R388). -/
  challenge : BitVec 384
deriving DecidableEq, Repr

/-- One entry of a command queue as a T1 frame carries it: OP, STATUS, then A0 to A5 (R371). -/
abbrev CmdEntry := List Word

/-- A byte string in memory order. -/
abbrev Bytes := List Byte

/-- Which bytes land next in a slot: those of a launch of the copy stream, or those of a channel. -/
inductive LandSource where
  | launch (index : Nat)
  | channel (ch : Fin 2)
deriving DecidableEq, Repr

end Sys2Proof
end

