-- ==== Sys2Proof/Syntax.lean ====
section
/-! DEFINITION. Syntax.lean: the steps of the module, one constructor for each row of spec/opcode_table.json:
the 146 control words (R142), the 89 engine words (R146), and the 75 host commands (R374) and events
(spec/95_what_each_step_holds.md). Commands and events have no instruction word: their arguments are the
command's operands or the event's inputs. A control word carries its guard (R137) first. -/

namespace Sys2Proof

/-- A step of the module, one for each row of spec/opcode_table.json: first the steps with operands that other steps name, then
those without operands, then the events from outside. -/
inductive Instr where
  /-- NOP (R162). -/
  | nop (g : Guard)
  /-- ADD (R163). -/
  | add (g : Guard) (sd : Reg) (a : Src) (b : Src)
  /-- SUB (R163). -/
  | sub (g : Guard) (sd : Reg) (a : Src) (b : Src)
  /-- MUL (R163). -/
  | mul (g : Guard) (sd : Reg) (a : Src) (b : Src)
  /-- MULH (R163). -/
  | mulh (g : Guard) (sd : Reg) (a : Src) (b : Src)
  /-- MULHU (R163). -/
  | mulhu (g : Guard) (sd : Reg) (a : Src) (b : Src)
  /-- DIV (R164). -/
  | div (g : Guard) (sd : Reg) (a : Src) (b : Src)
  /-- DIVU (R164). -/
  | divu (g : Guard) (sd : Reg) (a : Src) (b : Src)
  /-- REM (R164). -/
  | rem (g : Guard) (sd : Reg) (a : Src) (b : Src)
  /-- REMU (R164). -/
  | remu (g : Guard) (sd : Reg) (a : Src) (b : Src)
  /-- AND (R163). -/
  | and (g : Guard) (sd : Reg) (a : Src) (b : Src)
  /-- OR (R163). -/
  | or (g : Guard) (sd : Reg) (a : Src) (b : Src)
  /-- XOR (R163). -/
  | xor (g : Guard) (sd : Reg) (a : Src) (b : Src)
  /-- ANDN (R163). -/
  | andn (g : Guard) (sd : Reg) (a : Src) (b : Src)
  /-- SHL (R163). -/
  | shl (g : Guard) (sd : Reg) (a : Src) (b : Src)
  /-- SHR (R163). -/
  | shr (g : Guard) (sd : Reg) (a : Src) (b : Src)
  /-- SRA (R163). -/
  | sra (g : Guard) (sd : Reg) (a : Src) (b : Src)
  /-- ROR (R163). -/
  | ror (g : Guard) (sd : Reg) (a : Src) (b : Src)
  /-- MIN (R163). -/
  | min (g : Guard) (sd : Reg) (a : Src) (b : Src)
  /-- MAX (R163). -/
  | max (g : Guard) (sd : Reg) (a : Src) (b : Src)
  /-- MINU (R163). -/
  | minu (g : Guard) (sd : Reg) (a : Src) (b : Src)
  /-- MAXU (R163). -/
  | maxu (g : Guard) (sd : Reg) (a : Src) (b : Src)
  /-- CLZ (R163). -/
  | clz (g : Guard) (sd : Reg) (a : Src)
  /-- CTZ (R163). -/
  | ctz (g : Guard) (sd : Reg) (a : Src)
  /-- POPC (R163). -/
  | popc (g : Guard) (sd : Reg) (a : Src)
  /-- BEXT (R165). -/
  | bext (g : Guard) (sd : Reg) (a : Src) (b : Src) (c : Src)
  /-- BINS (R165). -/
  | bins (g : Guard) (sd : Reg) (a : Src) (b : Src) (c : Src)
  /-- SEL (R166). -/
  | sel (g : Guard) (sd : Reg) (p : Pred) (a : Src) (b : Src)
  /-- MADD (R165). -/
  | madd (g : Guard) (sd : Reg) (a : Src) (b : Src) (c : Src)
  /-- ADDI (R167). -/
  | addi (g : Guard) (sd : Reg) (a : Src) (imm : BitVec 32)
  /-- ANDI (R167). -/
  | andi (g : Guard) (sd : Reg) (a : Src) (imm : BitVec 32)
  /-- ORI (R167). -/
  | ori (g : Guard) (sd : Reg) (a : Src) (imm : BitVec 32)
  /-- XORI (R167). -/
  | xori (g : Guard) (sd : Reg) (a : Src) (imm : BitVec 32)
  /-- SHLI (R167). -/
  | shli (g : Guard) (sd : Reg) (a : Src) (imm : BitVec 32)
  /-- SHRI (R167). -/
  | shri (g : Guard) (sd : Reg) (a : Src) (imm : BitVec 32)
  /-- SRAI (R167). -/
  | srai (g : Guard) (sd : Reg) (a : Src) (imm : BitVec 32)
  /-- MULI (R167). -/
  | muli (g : Guard) (sd : Reg) (a : Src) (imm : BitVec 32)
  /-- MOVI (R168). -/
  | movi (g : Guard) (sd : Reg) (imm : BitVec 32)
  /-- MOVHI (R168). -/
  | movhi (g : Guard) (sd : Reg) (a : Src) (imm : BitVec 32)
  /-- LEAPC (R168). -/
  | leapc (g : Guard) (sd : Reg) (imm : BitVec 32)
  /-- CMP (R169). -/
  | cmp (g : Guard) (pd : Pred) (pe : Pred) (cc : BitVec 4) (a : Src) (b : Src)
  /-- CMPI (R169). -/
  | cmpi (g : Guard) (pd : Pred) (pe : Pred) (cc : BitVec 4) (a : Src) (imm : BitVec 21)
  /-- FCMP (R170). -/
  | fcmp (g : Guard) (pd : Pred) (pe : Pred) (cc : BitVec 4) (d : Bool) (a : Src) (b : Src)
  /-- PAND (R171). -/
  | pand (g : Guard) (pd : Pred) (pa : Pred) (pb : Pred) (na : Bool) (nb : Bool)
  /-- POR (R171). -/
  | por (g : Guard) (pd : Pred) (pa : Pred) (pb : Pred) (na : Bool) (nb : Bool)
  /-- PXOR (R171). -/
  | pxor (g : Guard) (pd : Pred) (pa : Pred) (pb : Pred) (na : Bool) (nb : Bool)
  /-- PGET (R172). -/
  | pget (g : Guard) (sd : Reg) (grp : Bool)
  /-- PPUT (R172). -/
  | pput (g : Guard) (grp : Bool) (a : Src)
  /-- BR (R173). -/
  | br (g : Guard) (off : BitVec 46)
  /-- CALL (R173). -/
  | call (g : Guard) (off : BitVec 46)
  /-- JMP (R174). -/
  | jmp (g : Guard) (a : Src)
  /-- CALLR (R174). -/
  | callr (g : Guard) (sd : Reg) (a : Src)
  /-- DBNZ (R175). -/
  | dbnz (g : Guard) (sd : Reg) (a : Src) (imm : BitVec 32)
  /-- FADD (R177). -/
  | fadd (g : Guard) (sd : Reg) (rm : BitVec 3) (d : Bool) (a : Src) (b : Src)
  /-- FSUB (R177). -/
  | fsub (g : Guard) (sd : Reg) (rm : BitVec 3) (d : Bool) (a : Src) (b : Src)
  /-- FMUL (R177). -/
  | fmul (g : Guard) (sd : Reg) (rm : BitVec 3) (d : Bool) (a : Src) (b : Src)
  /-- FFMA (R177). -/
  | ffma (g : Guard) (sd : Reg) (rm : BitVec 3) (d : Bool) (a : Src) (b : Src) (c : Src)
  /-- FDIV (R177). -/
  | fdiv (g : Guard) (sd : Reg) (rm : BitVec 3) (d : Bool) (a : Src) (b : Src)
  /-- FSQRT (R177). -/
  | fsqrt (g : Guard) (sd : Reg) (rm : BitVec 3) (d : Bool) (a : Src)
  /-- FMIN (R178). -/
  | fmin (g : Guard) (sd : Reg) (d : Bool) (a : Src) (b : Src)
  /-- FMAX (R178). -/
  | fmax (g : Guard) (sd : Reg) (d : Bool) (a : Src) (b : Src)
  /-- FCVT (R179). -/
  | fcvt (g : Guard) (sd : Reg) (rm : BitVec 3) (code : BitVec 4) (a : Src)
  /-- FCLASS (R180). -/
  | fclass (g : Guard) (sd : Reg) (d : Bool) (a : Src)
  /-- FEXP2 (R177). -/
  | fexp2 (g : Guard) (sd : Reg) (rm : BitVec 3) (d : Bool) (a : Src)
  /-- FLOG2 (R177). -/
  | flog2 (g : Guard) (sd : Reg) (rm : BitVec 3) (d : Bool) (a : Src)
  /-- LD (R183). -/
  | ld (g : Guard) (sd : Reg) (a : Src) (size : BitVec 3) (order : BitVec 2) (scope : BitVec 4) (spec : Bool) (off : BitVec 22)
  /-- ST (R183). -/
  | st (g : Guard) (data : Src) (a : Src) (size : BitVec 3) (order : BitVec 2) (scope : BitVec 4) (off : BitVec 22)
  /-- LDSP (R184). -/
  | ldsp (g : Guard) (sd : Reg) (a : Src) (size : BitVec 3) (order : BitVec 2) (scope : BitVec 4) (off : BitVec 22)
  /-- STSP (R184). -/
  | stsp (g : Guard) (data : Src) (a : Src) (size : BitVec 3) (order : BitVec 2) (scope : BitVec 4) (off : BitVec 22)
  /-- PREF (R186). -/
  | pref (g : Guard) (a : Src) (off : BitVec 22)
  /-- CHK (R185). -/
  | chk (g : Guard) (a : Src)
  /-- CLEAN (R187). -/
  | clean (g : Guard) (a : Src) (scope : BitVec 4) (off : BitVec 22)
  /-- INVAL (R187). -/
  | inval (g : Guard) (a : Src) (scope : BitVec 4) (off : BitVec 22)
  /-- AADD (R189). -/
  | aadd (g : Guard) (sd : Reg) (a : Src) (b : Src) (order : BitVec 2) (scope : BitVec 4) (place : BitVec 2) (size : BitVec 2)
  /-- AAND (R189). -/
  | aand (g : Guard) (sd : Reg) (a : Src) (b : Src) (order : BitVec 2) (scope : BitVec 4) (place : BitVec 2) (size : BitVec 2)
  /-- AOR (R189). -/
  | aor (g : Guard) (sd : Reg) (a : Src) (b : Src) (order : BitVec 2) (scope : BitVec 4) (place : BitVec 2) (size : BitVec 2)
  /-- AXOR (R189). -/
  | axor (g : Guard) (sd : Reg) (a : Src) (b : Src) (order : BitVec 2) (scope : BitVec 4) (place : BitVec 2) (size : BitVec 2)
  /-- AMIN (R189). -/
  | amin (g : Guard) (sd : Reg) (a : Src) (b : Src) (order : BitVec 2) (scope : BitVec 4) (place : BitVec 2) (size : BitVec 2)
  /-- AMAX (R189). -/
  | amax (g : Guard) (sd : Reg) (a : Src) (b : Src) (order : BitVec 2) (scope : BitVec 4) (place : BitVec 2) (size : BitVec 2)
  /-- AMINU (R189). -/
  | aminu (g : Guard) (sd : Reg) (a : Src) (b : Src) (order : BitVec 2) (scope : BitVec 4) (place : BitVec 2) (size : BitVec 2)
  /-- AMAXU (R189). -/
  | amaxu (g : Guard) (sd : Reg) (a : Src) (b : Src) (order : BitVec 2) (scope : BitVec 4) (place : BitVec 2) (size : BitVec 2)
  /-- ASWP (R189). -/
  | aswp (g : Guard) (sd : Reg) (a : Src) (b : Src) (order : BitVec 2) (scope : BitVec 4) (place : BitVec 2) (size : BitVec 2)
  /-- ACAS (R189). -/
  | acas (g : Guard) (sd : Reg) (a : Src) (b : Src) (c : Src) (order : BitVec 2) (scope : BitVec 4) (place : BitVec 2) (size : BitVec 2)
  /-- AFADD (R189). -/
  | afadd (g : Guard) (sd : Reg) (a : Src) (b : Src) (order : BitVec 2) (scope : BitVec 4) (place : BitVec 2) (size : BitVec 2)
  /-- FENCE (R191). -/
  | fence (g : Guard) (kind : BitVec 2) (scope : BitVec 4)
  /-- BARINIT (R194). -/
  | barinit (g : Guard) (sd : Reg) (a : Src) (b : Src) (scope : BitVec 4)
  /-- BARARRIVE (R195). -/
  | bararrive (g : Guard) (sd : Reg) (a : Src)
  /-- BAREXPECT (R195). -/
  | barexpect (g : Guard) (a : Src) (b : Src)
  /-- BARWAIT (R195). -/
  | barwait (g : Guard) (a : Src) (b : Src)
  /-- BARTEST (R195). -/
  | bartest (g : Guard) (pd : Pred) (a : Src) (b : Src)
  /-- TAGWAITANY (R197). -/
  | tagwaitany (g : Guard) (sd : Reg) (a : Src)
  /-- TAGWAITALL (R197). -/
  | tagwaitall (g : Guard) (a : Src)
  /-- TAGFIRST (R197). -/
  | tagfirst (g : Guard) (sd : Reg) (a : Src)
  /-- TAGCLR (R197). -/
  | tagclr (g : Guard) (a : Src)
  /-- ESTART (R198). -/
  | estart (g : Guard) (sd : Reg) (e : BitVec 3) (a : Src)
  /-- EPUT (R199). -/
  | eput (g : Guard) (e : BitVec 3) (n : BitVec 4) (a : Src)
  /-- EGET (R199). -/
  | eget (g : Guard) (sd : Reg) (e : BitVec 3) (n : BitVec 4)
  /-- FMTQ (R200). -/
  | fmtq (g : Guard) (a : Src)
  /-- JOIN (R201). -/
  | join (g : Guard) (mask : BitVec 4)
  /-- SPAWN (R202). -/
  | spawn (g : Guard) (sd : Reg) (a : Src) (q : BitVec 4) (nb : Bool)
  /-- JEND (R203). -/
  | jend (g : Guard)
  /-- CPCHAIN_BIND (R205). -/
  | cpchainBind (g : Guard) (sd : Reg) (a : Src) (b : Src) (ch : Bool)
  /-- CPCHAIN_KICK (R205). -/
  | cpchainKick (g : Guard) (sd : Reg) (ch : Bool)
  /-- CPCHAIN_STOP (R205). -/
  | cpchainStop (g : Guard) (sd : Reg) (ch : Bool)
  /-- CPSTAT (R207). -/
  | cpstat (g : Guard) (sd : Reg) (ch : Bool)
  /-- RDYSET (R209). -/
  | rdyset (g : Guard) (sd : Reg) (a : Src) (b : Src)
  /-- RDYTEST (R210). -/
  | rdytest (g : Guard) (pd : Pred) (a : Src) (b : Src)
  /-- TCPREF (R211). -/
  | tcpref (g : Guard) (a : Src) (b : Src) (dim : BitVec 2) (n : BitVec 4)
  /-- TCINV (R212). -/
  | tcinv (g : Guard) (a : Src) (b : Src) (whole : Bool)
  /-- TCCLEAN (R212). -/
  | tcclean (g : Guard) (a : Src) (b : Src) (whole : Bool)
  /-- TCPIN (R213). -/
  | tcpin (g : Guard) (sd : Reg) (a : Src) (b : Src)
  /-- TCUNPIN (R213). -/
  | tcunpin (g : Guard) (a : Src) (b : Src)
  /-- TCLOOK (R213). -/
  | tclook (g : Guard) (sd : Reg) (a : Src) (b : Src)
  /-- TCHALO (R211). -/
  | tchalo (g : Guard) (a : Src) (b : Src) (c : Src)
  /-- KVAPPEND (R312). -/
  | kvappend (g : Guard) (sd : Reg) (a : Src) (b : Src) (c : Src)
  /-- KVCOMMIT (R313). -/
  | kvcommit (g : Guard) (sd : Reg) (a : Src) (b : Src) (c : Src)
  /-- KVSQUASH (R314). -/
  | kvsquash (g : Guard) (sd : Reg) (a : Src) (b : Src)
  /-- KVTRUNC (R315). -/
  | kvtrunc (g : Guard) (sd : Reg) (a : Src) (b : Src) (c : Src)
  /-- KVFORK (R316). -/
  | kvfork (g : Guard) (sd : Reg) (a : Src) (b : Src) (c : Src)
  /-- KVFREE (R317). -/
  | kvfree (g : Guard) (sd : Reg) (a : Src) (b : Src)
  /-- CKSNAP (R319). -/
  | cksnap (g : Guard) (sd : Reg) (a : Src) (b : Src)
  /-- CKSEL (R320). -/
  | cksel (g : Guard) (sd : Reg) (a : Src)
  /-- CKDROP (R321). -/
  | ckdrop (g : Guard) (a : Src)
  /-- SMPSTART (R327). -/
  | smpstart (g : Guard) (sd : Reg) (a : Src)
  /-- ACCTEST (R330). -/
  | acctest (g : Guard) (sd : Reg) (a : Src)
  /-- RNDC (R323). -/
  | rndc (g : Guard) (sd : Reg)
  /-- RNGSET (R324). -/
  | rngset (g : Guard) (e : BitVec 3) (a : Src) (b : Src)
  /-- RNGGET (R325). -/
  | rngget (g : Guard) (sd : Reg) (e : BitVec 3) (w : Bool)
  /-- TXENC (R341). -/
  | txenc (g : Guard) (sd : Reg) (a : Src) (b : Src)
  /-- TXDEC (R343). -/
  | txdec (g : Guard) (sd : Reg) (a : Src) (b : Src)
  /-- TXCONS (R344). -/
  | txcons (g : Guard) (sd : Reg) (a : Src) (b : Src)
  /-- TXVOCAB_OPEN (R337). -/
  | txvocabOpen (g : Guard) (sd : Reg) (a : Src) (b : Src)
  /-- TXVOCAB_REBIND (R337). -/
  | txvocabRebind (g : Guard) (sd : Reg) (a : Src) (b : Src)
  /-- TXVOCAB_CLOSE (R337). -/
  | txvocabClose (g : Guard) (sd : Reg) (a : Src) (b : Src)
  /-- TXMASK (R346). -/
  | txmask (g : Guard) (sd : Reg) (a : Src) (b : Src)
  /-- CSRR (R215). -/
  | csrr (g : Guard) (sd : Reg) (csr : BitVec 13)
  /-- CSRW (R215). -/
  | csrw (g : Guard) (sd : Reg) (csr : BitVec 13) (a : Src)
  /-- CSRSET (R215). -/
  | csrset (g : Guard) (sd : Reg) (csr : BitVec 13) (a : Src)
  /-- CSRCLR (R215). -/
  | csrclr (g : Guard) (sd : Reg) (csr : BitVec 13) (a : Src)
  /-- TRAP (R217). -/
  | trap (g : Guard) (a : Src) (num : BitVec 20)
  /-- ERET (R352). -/
  | eret (g : Guard)
  /-- HALT (R218). -/
  | halt (g : Guard)
  /-- TLBINV_ALL (R219). -/
  | tlbinvAll (g : Guard) (a : Src)
  /-- TLBINV_ASID (R219). -/
  | tlbinvAsid (g : Guard) (a : Src)
  /-- TLBINV_PAGE (R219). -/
  | tlbinvPage (g : Guard) (a : Src)
  /-- CYC (R220). -/
  | cyc (g : Guard) (sd : Reg)
  /-- SIGMIX (R221). -/
  | sigmix (g : Guard) (a : Src)
  /-- WAITCYC (R220). -/
  | waitcyc (g : Guard) (a : Src)
  /-- LIT (R226). -/
  | lit (imm : BitVec 12)
  /-- LITX (R226). -/
  | litx (imm : BitVec 12)
  /-- LDK (R226). -/
  | ldk (n : BitVec 4)
  /-- STK (R226). -/
  | stk (n : BitVec 4)
  /-- BRW (R227). -/
  | brw (off : BitVec 6)
  /-- LOOPW (R228). -/
  | loopw (len : BitVec 6)
  /-- TAGWW (R229). -/
  | tagww (t : BitVec 6)
  /-- TAGSW (R229). -/
  | tagsw (t : BitVec 6)
  /-- FENCEW (R231). -/
  | fencew (scope : BitVec 4)
  /-- CPY1D (R236). -/
  | cpy1d (dsp : Bool) (ssp : Bool)
  /-- CPY2D (R236). -/
  | cpy2d (dsp : Bool) (ssp : Bool)
  /-- CPY3D (R236). -/
  | cpy3d (dsp : Bool) (ssp : Bool)
  /-- CPYT (R237). -/
  | cpyt (toTile : Bool)
  /-- CPYTB (R238). -/
  | cpytb (dim : BitVec 2) (side : Bool)
  /-- CPYG (R239). -/
  | cpyg (dsp : Bool) (ssp : Bool)
  /-- CPYS (R239). -/
  | cpys (dsp : Bool) (ssp : Bool)
  /-- CPYFILL (R240). -/
  | cpyfill (dsp : Bool)
  /-- MMA (R270). -/
  | mma (ta : Bool) (tb : Bool)
  /-- MMAS (R272). -/
  | mmas (ta : Bool) (tb : Bool)
  /-- FLU (R276). -/
  | flu (fx : Bool)
  /-- FCHOL (R277). -/
  | fchol (fx : Bool)
  /-- FQR (R278). -/
  | fqr (fx : Bool)
  /-- FTRSL (R279). -/
  | ftrsl (fx : Bool)
  /-- FTRSU (R279). -/
  | ftrsu (fx : Bool)
  /-- FAPPLYQ (R280). -/
  | fapplyq (fx : Bool)
  /-- VADD (R243). -/
  | vadd (fmt : BitVec 4)
  /-- VSUB (R243). -/
  | vsub (fmt : BitVec 4)
  /-- VMUL (R243). -/
  | vmul (fmt : BitVec 4)
  /-- VFMA (R243). -/
  | vfma (fmt : BitVec 4)
  /-- VMAX (R243). -/
  | vmax (fmt : BitVec 4)
  /-- VMIN (R243). -/
  | vmin (fmt : BitVec 4)
  /-- VABS (R243). -/
  | vabs (fmt : BitVec 4)
  /-- VCMP (R244). -/
  | vcmp (fmt : BitVec 4)
  /-- VSEL (R243). -/
  | vsel (fmt : BitVec 4)
  /-- VCVT (R245). -/
  | vcvt (fmt : BitVec 4)
  /-- VRCP (R243). -/
  | vrcp (fmt : BitVec 4)
  /-- VRSQ (R243). -/
  | vrsq (fmt : BitVec 4)
  /-- VEXP2 (R243). -/
  | vexp2 (fmt : BitVec 4)
  /-- VLOG2 (R243). -/
  | vlog2 (fmt : BitVec 4)
  /-- VRED (R246). -/
  | vred (fmt : BitVec 4)
  /-- VIOTA (R243). -/
  | viota (fmt : BitVec 4)
  /-- VAND (R243). -/
  | vand (fmt : BitVec 4)
  /-- VOR (R243). -/
  | vor (fmt : BitVec 4)
  /-- VXOR (R243). -/
  | vxor (fmt : BitVec 4)
  /-- VSHL (R243). -/
  | vshl (fmt : BitVec 4)
  /-- VSHR (R243). -/
  | vshr (fmt : BitVec 4)
  /-- VMOV (R243). -/
  | vmov (fmt : BitVec 4)
  /-- VSMAX (R249). -/
  | vsmax (masked : Bool) (fmt : BitVec 4)
  /-- VSCAN (R251). -/
  | vscan (fmt : BitVec 4)
  /-- VQUANT (R252). -/
  | vquant (fmt : BitVec 4)
  /-- VDEQ (R252). -/
  | vdeq (fmt : BitVec 4)
  /-- CREATE_CONTEXT (R374). -/
  | createContext (ctx : Ctx) (node : BitVec 10) (priv : Bool) (paired : Bool) (partner : Ctx) (l1 : Word) (save : Word) (status : Word) (header : Word)
  /-- DESTROY_CONTEXT (R111). -/
  | destroyContext (ctx : Ctx)
  /-- SET_REGION (R33). -/
  | setRegion (node : BitVec 10) (block : Word)
  /-- SET_REGION_DELETE (R33). -/
  | setRegionDelete (node : BitVec 10)
  /-- SET_LAYOUT (R97). -/
  | setLayout (ctx : Ctx) (handle : BitVec 16) (record : Word)
  /-- DECLARE_PIPELINE (R51). -/
  | declarePipeline (ctx : Ctx) (record : Word)
  /-- SET_PLANK (R293). -/
  | setPlank (record : Word)
  /-- SUBMIT (R43). -/
  | submit (ctx : Ctx) (queue : BitVec 4) (card : Word)
  /-- TLB_INVALIDATE_ALL (R109). -/
  | tlbInvalidateAll (operand : Word)
  /-- TLB_INVALIDATE_ASID (R109). -/
  | tlbInvalidateAsid (operand : Word)
  /-- TLB_INVALIDATE_PAGE (R109). -/
  | tlbInvalidatePage (operand : Word)
  /-- RESUME (R357). -/
  | resume (ctx : Ctx) (core : BitVec 7) (slot : Bool)
  /-- RESUME_ALL (R362). -/
  | resumeAll (ctx : Ctx)
  /-- ABORT (R357). -/
  | abort (ctx : Ctx) (core : BitVec 7) (slot : Bool)
  /-- ABORT_ALL (R374). -/
  | abortAll (ctx : Ctx)
  /-- RESET_PARTITION (R374). -/
  | resetPartition (core : BitVec 7) (slot : Bool)
  /-- HOST_HALT (R362). -/
  | hostHalt (ctx : Ctx)
  /-- STEP (R363). -/
  | stepStream (ctx : Ctx) (core : BitVec 7) (slot : Bool) (eng : BitVec 3)
  /-- REMOTE_WRITE_APPLY (R125). -/
  | remoteWriteApply (die : Die) (index : Nat)
  /-- JOB_START (R44). -/
  | jobStart (slot : SlotId)
  /-- JOB_RETIRE (R45). -/
  | jobRetire (slot : SlotId)
  /-- PLANK_WINDOW_END (R294). -/
  | plankWindowEnd (cluster : Fin 16)
  /-- SEGMENT_OVERRUN (R295). -/
  | segmentOverrun (slot : SlotId)
  /-- WAIT_CONDITION_MET (R182). -/
  | waitConditionMet (slot : SlotId) (eng : EngId)
  /-- LAUNCH_START (R233). -/
  | launchStart (slot : SlotId) (eng : EngId)
  /-- LAUNCH_COMPLETE (R224). -/
  | launchComplete (slot : SlotId) (eng : EngId) (index : Nat)
  /-- COPY_BYTE_LAND (R196). -/
  | copyByteLand (slot : SlotId) (src : LandSource)
  /-- MMAS_STAMP (R272). -/
  | mmasStamp (slot : SlotId)
  /-- CHAIN_RECORD_READ (R206). -/
  | chainRecordRead (slot : SlotId) (ch : Fin 2)
  /-- CHAIN_RECORD_COMPLETE (R206). -/
  | chainRecordComplete (slot : SlotId) (ch : Fin 2)
  /-- TILE_LINE_FILL (R99). -/
  | tileLineFill (index : Nat)
  /-- DIE_UNIT_REQUEST (R22). -/
  | dieUnitRequest (die : Die) (unit : UnitKind)
  /-- DIE_UNIT_REPLY (R299). -/
  | dieUnitReply (slot : SlotId)
  /-- RDYSET_APPLY (R209). -/
  | rdysetApply (die : Die)
  /-- HANDLER_ENTRY (R350). -/
  | handlerEntry (slot : SlotId)
  /-- JOB_STOP_COMPLETE (R355). -/
  | jobStopComplete (slot : SlotId) (steps : Nat)
  /-- FAULT_DOMAIN_DRAIN (R360). -/
  | faultDomainDrain (slot : SlotId)
  /-- LAUNCH_FAULT (R225). -/
  | launchFault (slot : SlotId) (eng : EngId) (index : Nat)
  /-- CHAIN_FAULT (R206). -/
  | chainFault (slot : SlotId) (ch : Fin 2)
  /-- TILE_LINE_WRITE_BACK (R100). -/
  | tileLineWriteBack (index : Nat)
  /-- DUP (R226). -/
  | dup
  /-- DROP (R226). -/
  | drop
  /-- SWAP (R226). -/
  | swap
  /-- OVER (R226). -/
  | over
  /-- ROT (R226). -/
  | rot
  /-- ADDW (R226). -/
  | addw
  /-- SUBW (R226). -/
  | subw
  /-- MULW (R226). -/
  | mulw
  /-- SHLW (R226). -/
  | shlw
  /-- SHRW (R226). -/
  | shrw
  /-- ANDW (R226). -/
  | andw
  /-- ORW (R226). -/
  | orw
  /-- BZW (R227). -/
  | bzw
  /-- BRS (R227). -/
  | brs
  /-- ENDW (R232). -/
  | endw
  /-- BARAW (R230). -/
  | baraw
  /-- BARWW (R230). -/
  | barww
  /-- WAITQ (R231). -/
  | waitq
  /-- HALTW (R232). -/
  | haltw
  /-- MLD (R264). -/
  | mld
  /-- MST (R264). -/
  | mst
  /-- ACCINIT (R265). -/
  | accinit
  /-- ACCZERO (R265). -/
  | acczero
  /-- ACCCVT (R266). -/
  | acccvt
  /-- ACCNORM (R83). -/
  | accnorm
  /-- ACCSNAP (R267). -/
  | accsnap
  /-- ACCLOAD (R267). -/
  | accload
  /-- PERMRD (R281). -/
  | permrd
  /-- GROWRD (R281). -/
  | growrd
  /-- VRND (R247). -/
  | vrnd
  /-- VTMASK (R248). -/
  | vtmask
  /-- VTOPK (R250). -/
  | vtopk
  /-- VARGMAX (R250). -/
  | vargmax
  /-- XRAY (R257). -/
  | xray
  /-- XRAD (R257). -/
  | xrad
  /-- XKNN (R257). -/
  | xknn
  /-- XBOX (R257). -/
  | xbox
  /-- NOPW (R146). -/
  | nopw
  /-- CTRL_GO (R378). -/
  | ctrlGo
  /-- CTRL_RST (R382). -/
  | ctrlRst
  /-- ATTGO (R387). -/
  | attgo
  /-- FWGO (R383). -/
  | fwgo
  /-- START_TIMEOUT (R381). -/
  | startTimeout
  /-- SUPPLY_PAUSE (R365). -/
  | supplyPause
  /-- SUPPLY_RECOVER (R365). -/
  | supplyRecover
  /-- ADMISSION_DECISION (R282). -/
  | admissionDecision
  /-- PLACEMENT (R287). -/
  | placement
  /-- PIPELINE_ALLOCATOR (R52). -/
  | pipelineAllocator
  /-- FAULT_QUEUE_POST (R376). -/
  | faultQueuePost
  /-- QUEUE_TAIL_WRITE (R372). -/
  | queueTailWrite (queue : BitVec 13) (tail : Word)
  /-- DBGRESP (R388). -/
  | dbgResp (response : BitVec 768) (challenge : BitVec 384)
  /-- W0_REGISTER_WRITE (R370). -/
  | w0Write (off : BitVec 16) (value : Word)
  /-- HOST_W2_ACCESS (R368). -/
  | hostW2 (write : Bool) (addr : BitVec 38) (n : Nat) (data : Bytes)
  /-- HOST_ATOMICOP (R367). -/
  | hostAtomicOp (op : PcieOp) (wide : Bool) (addr : BitVec 38) (operand : Word) (compare : Word)
  /-- HOST_READ_COMPLETION (R391). -/
  | hostReadCompletion (pa : Nat) (success : Bool) (data : Bytes)
  /-- COMPLETION_TIMEOUT (R391). -/
  | completionTimeout (pa : Nat) (n : Nat)
  /-- T1_FRAME (R379): the EtherType of the frame, or none where MACsec does not let it pass. -/
  | t1Frame (port : Bool) (etype : Option (BitVec 16)) (queue : BitVec 16) (seq : BitVec 32) (entries : List CmdEntry)
  /-- T1_REPLY (R379). -/
  | t1Reply (port : Bool)
  /-- PTP_SYNC (R380). -/
  | ptpSync (port : Bool) (ns : Word)
  /-- COLD_START (R381). -/
  | coldStart (report : StartReport)
  /-- PERST (R382). -/
  | perst (report : StartReport)
  /-- START_RETRY (R383). -/
  | startRetry (report : StartReport)
  /-- CLOCK_STRETCH (R364). -/
  | clockStretch (edges : Nat)
  /-- PAUSE_TIMEOUT (R365). -/
  | pauseTimeout (report : StartReport)
  /-- LINK_CRC_RETRY (R29). -/
  | linkCrcRetry (link : Fin 3)
  /-- LINK_TRAINING_LOST (R377). -/
  | linkTrainingLost (link : Fin 3)
  /-- LINK_RETRAINED (R377). -/
  | linkRetrained (link : Fin 3)
  /-- LINK_RETRAIN_TIMEOUT (R377). -/
  | linkRetrainTimeout (link : Fin 3) (report : StartReport)
  /-- ALARM (R390). -/
  | alarm (source : BitVec 8) (report : StartReport)
  /-- SOFT_ERROR (R29). -/
  | softError (target : SoftTarget) (uncorrectable : Bool)
  /-- HOST_ATOMICOP_COMPLETION (R108). -/
  | hostAtomicOpCompletion (success : Bool) (old : Word)
deriving DecidableEq, Repr

end Sys2Proof
end

