-- ==== Sys2Proof/WellFormed.lean ====
section
/-! DEFINITION. WellFormed.lean: the instructions that the encoding admits: the static checks of R141 (items 1 to 4)
and R148 (items 1 and 2) that are not a matter of zero bits. A command or an event is well formed always:
its operands are checked by the step itself, with a status. -/

namespace Sys2Proof

/-- The CSR numbers of R144. -/
def csrExists (n : BitVec 13) : Bool :=
  [0x001, 0x002, 0x003, 0x004, 0x005, 0x010, 0x011, 0x012, 0x013, 0x014, 0x020, 0x021, 0x022, 0x023, 0x024, 0x025,
   0x030, 0x031, 0x032, 0x040, 0x041, 0x042, 0x050, 0x051, 0x052, 0x053].contains n.toNat

/-- A format code that the entry of the word admits (R57, R243). -/
def fmtIn (l : List Nat) (fmt : BitVec 4) : Bool := l.contains fmt.toNat

/-- The field that stands for a source register a word does not use: s0 with its last-use bit clear (R142). -/
def noSrc : Src := ⟨0#6, false⟩

/-- The words that R141 and R148 let pass at decode, as far as the word alone decides. -/
def Instr.wf : Instr → Bool
  | .nop _ => true
  | .add _ _ _ _ => true
  | .sub _ _ _ _ => true
  | .mul _ _ _ _ => true
  | .mulh _ _ _ _ => true
  | .mulhu _ _ _ _ => true
  | .div _ _ _ _ => true
  | .divu _ _ _ _ => true
  | .rem _ _ _ _ => true
  | .remu _ _ _ _ => true
  | .and _ _ _ _ => true
  | .or _ _ _ _ => true
  | .xor _ _ _ _ => true
  | .andn _ _ _ _ => true
  | .shl _ _ _ _ => true
  | .shr _ _ _ _ => true
  | .sra _ _ _ _ => true
  | .ror _ _ _ _ => true
  | .min _ _ _ _ => true
  | .max _ _ _ _ => true
  | .minu _ _ _ _ => true
  | .maxu _ _ _ _ => true
  | .clz _ _ _ => true
  | .ctz _ _ _ => true
  | .popc _ _ _ => true
  | .bext _ _ _ _ _ => true
  | .bins _ _ _ _ _ => true
  | .sel _ _ _ _ _ => true
  | .madd _ _ _ _ _ => true
  | .addi _ _ _ _ => true
  | .andi _ _ _ _ => true
  | .ori _ _ _ _ => true
  | .xori _ _ _ _ => true
  | .shli _ _ _ imm => decide (imm.toNat < 64)
  | .shri _ _ _ imm => decide (imm.toNat < 64)
  | .srai _ _ _ imm => decide (imm.toNat < 64)
  | .muli _ _ _ _ => true
  | .movi _ _ _ => true
  | .movhi _ _ _ _ => true
  | .leapc _ _ _ => true
  | .cmp _ pd pe cc _ _ => decide (cc.toNat ≤ 5) && (pd != pe || pd == 0#7)
  | .cmpi _ pd pe cc _ _ => decide (cc.toNat ≤ 5) && (pd != pe || pd == 0#7)
  | .fcmp _ pd pe cc _ _ _ => decide (8 ≤ cc.toNat ∧ cc.toNat ≤ 12) && (pd != pe || pd == 0#7)
  | .pand _ _ _ _ _ _ => true
  | .por _ _ _ _ _ _ => true
  | .pxor _ _ _ _ _ _ => true
  | .pget _ _ _ => true
  | .pput _ _ _ => true
  | .br _ _ => true
  | .call _ _ => true
  | .jmp _ _ => true
  | .callr _ _ _ => true
  | .dbnz _ _ _ _ => true
  | .fadd _ _ rm _ _ _ => (rm != 7#3)
  | .fsub _ _ rm _ _ _ => (rm != 7#3)
  | .fmul _ _ rm _ _ _ => (rm != 7#3)
  | .ffma _ _ rm _ _ _ _ => (rm != 7#3)
  | .fdiv _ _ rm _ _ _ => (rm != 7#3)
  | .fsqrt _ _ rm _ _ => (rm != 7#3)
  | .fmin _ _ _ _ _ => true
  | .fmax _ _ _ _ _ => true
  | .fcvt _ _ rm code _ => (rm != 7#3) && decide (code.toNat ≤ 9)
  | .fclass _ _ _ _ => true
  | .fexp2 _ _ rm _ _ => (rm != 7#3)
  | .flog2 _ _ rm _ _ => (rm != 7#3)
  | .ld _ _ _ size order scope _ _ => decide (size.toNat ≤ 6) && (order == 0#2 && scope == 0#4 || order == 1#2 && decide (scope.toNat ≤ 11))
  | .st _ _ _ size order scope _ => decide (size.toNat ≤ 3) && (order == 0#2 && scope == 0#4 || order == 2#2 && decide (scope.toNat ≤ 11))
  | .ldsp _ _ _ size order scope _ => decide (size.toNat ≤ 6) && (order == 0#2 && scope == 0#4 || order == 1#2 && decide (scope.toNat ≤ 11))
  | .stsp _ _ _ size order scope _ => decide (size.toNat ≤ 3) && (order == 0#2 && scope == 0#4 || order == 2#2 && decide (scope.toNat ≤ 11))
  | .pref _ _ _ => true
  | .chk _ _ => true
  | .clean _ _ scope _ => decide (scope.toNat ≤ 11)
  | .inval _ _ scope _ => decide (scope.toNat ≤ 11)
  | .aadd _ _ _ _ order scope _ size => decide (2 ≤ size.toNat) && (order == 0#2 && scope == 0#4 || order != 0#2 && decide (scope.toNat ≤ 11))
  | .aand _ _ _ _ order scope _ size => decide (2 ≤ size.toNat) && (order == 0#2 && scope == 0#4 || order != 0#2 && decide (scope.toNat ≤ 11))
  | .aor _ _ _ _ order scope _ size => decide (2 ≤ size.toNat) && (order == 0#2 && scope == 0#4 || order != 0#2 && decide (scope.toNat ≤ 11))
  | .axor _ _ _ _ order scope _ size => decide (2 ≤ size.toNat) && (order == 0#2 && scope == 0#4 || order != 0#2 && decide (scope.toNat ≤ 11))
  | .amin _ _ _ _ order scope _ size => decide (2 ≤ size.toNat) && (order == 0#2 && scope == 0#4 || order != 0#2 && decide (scope.toNat ≤ 11))
  | .amax _ _ _ _ order scope _ size => decide (2 ≤ size.toNat) && (order == 0#2 && scope == 0#4 || order != 0#2 && decide (scope.toNat ≤ 11))
  | .aminu _ _ _ _ order scope _ size => decide (2 ≤ size.toNat) && (order == 0#2 && scope == 0#4 || order != 0#2 && decide (scope.toNat ≤ 11))
  | .amaxu _ _ _ _ order scope _ size => decide (2 ≤ size.toNat) && (order == 0#2 && scope == 0#4 || order != 0#2 && decide (scope.toNat ≤ 11))
  | .aswp _ _ _ _ order scope _ size => decide (2 ≤ size.toNat) && (order == 0#2 && scope == 0#4 || order != 0#2 && decide (scope.toNat ≤ 11))
  | .acas _ _ _ _ _ order scope _ size => decide (2 ≤ size.toNat) && (order == 0#2 && scope == 0#4 || order != 0#2 && decide (scope.toNat ≤ 11))
  | .afadd _ _ _ _ order scope _ size => decide (2 ≤ size.toNat) && (order == 0#2 && scope == 0#4 || order != 0#2 && decide (scope.toNat ≤ 11))
  | .fence _ _ scope => decide (scope.toNat ≤ 11)
  | .barinit _ _ _ _ scope => decide (2 ≤ scope.toNat ∧ scope.toNat ≤ 8)
  | .bararrive _ _ _ => true
  | .barexpect _ _ _ => true
  | .barwait _ _ _ => true
  | .bartest _ _ _ _ => true
  | .tagwaitany _ _ _ => true
  | .tagwaitall _ _ => true
  | .tagfirst _ _ _ => true
  | .tagclr _ _ => true
  | .estart _ _ e _ => decide (1 ≤ e.toNat ∧ e.toNat ≤ 4)
  | .eput _ e _ _ => decide (1 ≤ e.toNat ∧ e.toNat ≤ 4)
  | .eget _ _ e _ => decide (1 ≤ e.toNat ∧ e.toNat ≤ 4)
  | .fmtq _ _ => true
  | .join _ mask => (mask != 0#4)
  | .spawn _ _ _ _ _ => true
  | .jend _ => true
  | .cpchainBind _ _ _ _ _ => true
  | .cpchainKick _ _ _ => true
  | .cpchainStop _ _ _ => true
  | .cpstat _ _ _ => true
  | .rdyset _ _ _ _ => true
  | .rdytest _ _ _ _ => true
  | .tcpref _ _ _ _ _ => true
  | .tcinv _ _ b whole => (!whole || b == noSrc)
  | .tcclean _ _ b whole => (!whole || b == noSrc)
  | .tcpin _ _ _ _ => true
  | .tcunpin _ _ _ => true
  | .tclook _ _ _ _ => true
  | .tchalo _ _ _ _ => true
  | .kvappend _ _ _ _ _ => true
  | .kvcommit _ _ _ _ _ => true
  | .kvsquash _ _ _ _ => true
  | .kvtrunc _ _ _ _ _ => true
  | .kvfork _ _ _ _ _ => true
  | .kvfree _ _ _ _ => true
  | .cksnap _ _ _ _ => true
  | .cksel _ _ _ => true
  | .ckdrop _ _ => true
  | .smpstart _ _ _ => true
  | .acctest _ _ _ => true
  | .rndc _ _ => true
  | .rngset _ e _ _ => decide (e.toNat ≤ 4)
  | .rngget _ _ e _ => decide (e.toNat ≤ 4)
  | .txenc _ _ _ _ => true
  | .txdec _ _ _ _ => true
  | .txcons _ _ _ _ => true
  | .txvocabOpen _ _ _ _ => true
  | .txvocabRebind _ _ _ _ => true
  | .txvocabClose _ _ _ _ => true
  | .txmask _ _ _ _ => true
  | .csrr _ _ csr => csrExists csr
  | .csrw _ _ csr _ => csrExists csr
  | .csrset _ _ csr _ => csrExists csr
  | .csrclr _ _ csr _ => csrExists csr
  | .trap _ _ _ => true
  | .eret _ => true
  | .halt _ => true
  | .tlbinvAll _ _ => true
  | .tlbinvAsid _ _ => true
  | .tlbinvPage _ _ => true
  | .cyc _ _ => true
  | .sigmix _ _ => true
  | .waitcyc _ _ => true
  | .lit _ => true
  | .litx _ => true
  | .dup => true
  | .drop => true
  | .swap => true
  | .over => true
  | .rot => true
  | .addw => true
  | .subw => true
  | .mulw => true
  | .shlw => true
  | .shrw => true
  | .andw => true
  | .orw => true
  | .ldk _ => true
  | .stk _ => true
  | .brw _ => true
  | .bzw => true
  | .brs => true
  | .loopw len => (len != 0#6)
  | .endw => true
  | .tagww _ => true
  | .tagsw _ => true
  | .baraw => true
  | .barww => true
  | .fencew scope => decide (scope.toNat ≤ 11)
  | .waitq => true
  | .haltw => true
  | .cpy1d _ _ => true
  | .cpy2d _ _ => true
  | .cpy3d _ _ => true
  | .cpyt _ => true
  | .cpytb _ _ => true
  | .cpyg _ _ => true
  | .cpys _ _ => true
  | .cpyfill _ => true
  | .mld => true
  | .mst => true
  | .accinit => true
  | .acczero => true
  | .acccvt => true
  | .accnorm => true
  | .accsnap => true
  | .accload => true
  | .mma _ _ => true
  | .mmas _ _ => true
  | .permrd => true
  | .growrd => true
  | .flu _ => true
  | .fchol _ => true
  | .fqr _ => true
  | .ftrsl _ => true
  | .ftrsu _ => true
  | .fapplyq _ => true
  | .vadd fmt => fmtIn [2, 4, 5, 6] fmt
  | .vsub fmt => fmtIn [2, 4, 5, 6] fmt
  | .vmul fmt => fmtIn [2, 4, 5, 6] fmt
  | .vfma fmt => fmtIn [4, 5] fmt
  | .vmax fmt => fmtIn [2, 4, 5, 6] fmt
  | .vmin fmt => fmtIn [2, 4, 5, 6] fmt
  | .vabs fmt => fmtIn [2, 4, 5, 6] fmt
  | .vcmp fmt => fmtIn [2, 4, 5, 6] fmt
  | .vsel fmt => fmtIn [0, 1, 2, 3, 4, 5, 6] fmt
  | .vcvt fmt => fmtIn [0, 1, 2, 3, 4, 5, 6] fmt
  | .vrcp fmt => fmtIn [4, 5] fmt
  | .vrsq fmt => fmtIn [4, 5] fmt
  | .vexp2 fmt => fmtIn [4, 5] fmt
  | .vlog2 fmt => fmtIn [4, 5] fmt
  | .vred fmt => fmtIn [4, 5, 6] fmt
  | .viota fmt => fmtIn [6] fmt
  | .vand fmt => fmtIn [0, 1, 2, 3, 4, 5, 6] fmt
  | .vor fmt => fmtIn [0, 1, 2, 3, 4, 5, 6] fmt
  | .vxor fmt => fmtIn [0, 1, 2, 3, 4, 5, 6] fmt
  | .vshl fmt => fmtIn [2, 6] fmt
  | .vshr fmt => fmtIn [2, 6] fmt
  | .vmov fmt => fmtIn [0, 1, 2, 3, 4, 5, 6] fmt
  | .vrnd => true
  | .vtmask => true
  | .vsmax _ fmt => fmtIn [4, 5] fmt
  | .vtopk => true
  | .vargmax => true
  | .vscan fmt => fmtIn [5, 6] fmt
  | .vquant fmt => fmtIn [0, 1, 2, 3] fmt
  | .vdeq fmt => fmtIn [4, 5] fmt
  | .xray => true
  | .xrad => true
  | .xknn => true
  | .xbox => true
  | .nopw => true
  | .createContext _ _ _ _ _ _ _ _ _ => true
  | .destroyContext _ => true
  | .setRegion _ _ => true
  | .setRegionDelete _ => true
  | .setLayout _ _ _ => true
  | .declarePipeline _ _ => true
  | .setPlank _ => true
  | .submit _ _ _ => true
  | .tlbInvalidateAll _ => true
  | .tlbInvalidateAsid _ => true
  | .tlbInvalidatePage _ => true
  | .resume _ _ _ => true
  | .resumeAll _ => true
  | .abort _ _ _ => true
  | .abortAll _ => true
  | .resetPartition _ _ => true
  | .hostHalt _ => true
  | .stepStream _ _ _ _ => true
  | .queueTailWrite _ _ => true
  | .ctrlGo => true
  | .ctrlRst => true
  | .attgo => true
  | .dbgResp _ _ => true
  | .fwgo => true
  | .w0Write _ _ => true
  | .hostW2 _ _ _ _ => true
  | .hostAtomicOp _ _ _ _ _ => true
  | .hostReadCompletion _ _ _ => true
  | .completionTimeout _ _ => true
  | .t1Frame _ _ _ _ _ => true
  | .t1Reply _ => true
  | .ptpSync _ _ => true
  | .coldStart _ => true
  | .perst _ => true
  | .startTimeout => true
  | .startRetry _ => true
  | .clockStretch _ => true
  | .supplyPause => true
  | .supplyRecover => true
  | .pauseTimeout _ => true
  | .linkCrcRetry _ => true
  | .linkTrainingLost _ => true
  | .linkRetrained _ => true
  | .linkRetrainTimeout _ _ => true
  | .remoteWriteApply _ _ => true
  | .alarm _ _ => true
  | .admissionDecision => true
  | .placement => true
  | .jobStart _ => true
  | .jobRetire _ => true
  | .pipelineAllocator => true
  | .plankWindowEnd _ => true
  | .segmentOverrun _ => true
  | .waitConditionMet _ _ => true
  | .launchStart _ _ => true
  | .launchComplete _ _ _ => true
  | .copyByteLand _ _ => true
  | .mmasStamp _ => true
  | .chainRecordRead _ _ => true
  | .chainRecordComplete _ _ => true
  | .tileLineFill _ => true
  | .dieUnitRequest _ _ => true
  | .dieUnitReply _ => true
  | .rdysetApply _ => true
  | .handlerEntry _ => true
  | .jobStopComplete _ _ => true
  | .faultQueuePost => true
  | .faultDomainDrain _ => true
  | .softError _ _ => true
  | .launchFault _ _ _ => true
  | .chainFault _ _ => true
  | .hostAtomicOpCompletion _ _ => true
  | .tileLineWriteBack _ => true

/-- A well-formed instruction. -/
abbrev Instr.WellFormed (i : Instr) : Prop := i.wf = true

end Sys2Proof
end

