-- ==== Sys2Proof/Decode.lean ====
section
/-! DEFINITION. Decode.lean: the encodings of R136 to R150. A packer for each format of R139 places the fields of a
control word; encodeControl and encodeEngine write the words; decodeControl and decodeEngine read them. A reader
first finds the row by opcode, or by major and minor, and takes its fields, and then accepts the word only when the row
writes back exactly that word: so every field marked zero is checked to be zero (R141 items 2 and 3, R147). -/

namespace Sys2Proof

/-- A one-bit field. -/
def bit (b : Bool) : BitVec 1 := BitVec.ofBool b

/-- R and E formats, the A format and FENCE (R139): the register fields, and [18:0] whole. -/
def packE (g : Guard) (op : BitVec 10) (sd : Reg) (a b c : Src) (low : BitVec 19) : BitVec 64 :=
  bit g.neg ++ (g.pred ++ (op ++ (sd ++ (a.reg ++ (bit a.last ++ (b.reg ++ (bit b.last ++ (c.reg ++ (bit c.last ++ low)))))))))

/-- I format (R139); [32] is zero. -/
def packI (g : Guard) (op : BitVec 10) (sd : Reg) (a : Src) (imm : BitVec 32) : BitVec 64 :=
  bit g.neg ++ (g.pred ++ (op ++ (sd ++ (a.reg ++ (bit a.last ++ (0#1 ++ imm))))))

/-- M format (R139). -/
def packM (g : Guard) (op : BitVec 10) (d : Reg) (a : Src) (dlast : Bool) (size : BitVec 3) (order : BitVec 2)
    (scope : BitVec 4) (spec : Bool) (off : BitVec 22) : BitVec 64 :=
  bit g.neg ++ (g.pred ++ (op ++ (d ++ (a.reg ++ (bit a.last ++ (bit dlast ++ (size ++ (order ++ (scope ++ (bit spec ++ off))))))))))

/-- B format (R139). -/
def packB (g : Guard) (op : BitVec 10) (off : BitVec 46) : BitVec 64 := bit g.neg ++ (g.pred ++ (op ++ off))

/-- P format (R139); [13] is D in FCMP. -/
def packP (g : Guard) (op : BitVec 10) (pd pe : Pred) (a b : Src) (cc : BitVec 4) (d : Bool) : BitVec 64 :=
  bit g.neg ++ (g.pred ++ (op ++ (pd ++ (pe ++ (a.reg ++ (bit a.last ++ (b.reg ++ (bit b.last ++ (cc ++ (bit d ++ 0#13))))))))))

/-- PI format (R139). -/
def packPI (g : Guard) (op : BitVec 10) (pd pe : Pred) (a : Src) (cc : BitVec 4) (imm : BitVec 21) : BitVec 64 :=
  bit g.neg ++ (g.pred ++ (op ++ (pd ++ (pe ++ (a.reg ++ (bit a.last ++ (cc ++ imm)))))))

/-- Q format (R139). -/
def packQ (g : Guard) (op : BitVec 10) (pd pa pb : Pred) (na nb : Bool) : BitVec 64 :=
  bit g.neg ++ (g.pred ++ (op ++ (pd ++ (pa ++ (pb ++ (bit na ++ (bit nb ++ 0#23)))))))

/-- S format (R139). -/
def packS (g : Guard) (op : BitVec 10) (sd : Reg) (a : Src) (csr : BitVec 13) (imm : BitVec 20) : BitVec 64 :=
  bit g.neg ++ (g.pred ++ (op ++ (sd ++ (a.reg ++ (bit a.last ++ (csr ++ imm))))))

/-- An engine word: major, minor and imm6 (R145). -/
def packW (major : BitVec 4) (minor imm : BitVec 6) : BitVec 16 := major ++ (minor ++ imm)

/-- A field of n bits from bit s upward (R7). -/
def ext {w : Nat} (x : BitVec w) (s n : Nat) : BitVec n := x.extractLsb' s n

/-! The fields of a control word, by the bits of R136 and R139. -/

def fNeg (w : BitVec 64) : Bool := w.getLsbD 63
def fPred (w : BitVec 64) : Pred := ext w 56 7
def fOp (w : BitVec 64) : BitVec 10 := ext w 46 10
def fSd (w : BitVec 64) : Reg := ext w 40 6
def fA (w : BitVec 64) : Src := ⟨ext w 34 6, w.getLsbD 33⟩
def fB (w : BitVec 64) : Src := ⟨ext w 27 6, w.getLsbD 26⟩
def fC (w : BitVec 64) : Src := ⟨ext w 20 6, w.getLsbD 19⟩
def fPd (w : BitVec 64) : Pred := ext w 12 7
def fRm (w : BitVec 64) : BitVec 3 := ext w 16 3
def fD (w : BitVec 64) : Bool := w.getLsbD 15
def fCode (w : BitVec 64) : BitVec 4 := ext w 12 4
def fB18 (w : BitVec 64) : Bool := w.getLsbD 18
def fB16 (w : BitVec 64) : Bool := w.getLsbD 16
def fB12 (w : BitVec 64) : Bool := w.getLsbD 12
def fImm32 (w : BitVec 64) : BitVec 32 := ext w 0 32
def fOff46 (w : BitVec 64) : BitVec 46 := ext w 0 46
def fPPd (w : BitVec 64) : Pred := ext w 39 7
def fPPe (w : BitVec 64) : Pred := ext w 32 7
def fPA (w : BitVec 64) : Src := ⟨ext w 26 6, w.getLsbD 25⟩
def fPB (w : BitVec 64) : Src := ⟨ext w 19 6, w.getLsbD 18⟩
def fPCc (w : BitVec 64) : BitVec 4 := ext w 14 4
def fPD (w : BitVec 64) : Bool := w.getLsbD 13
def fPiCc (w : BitVec 64) : BitVec 4 := ext w 21 4
def fImm21 (w : BitVec 64) : BitVec 21 := ext w 0 21
def fQPb (w : BitVec 64) : Pred := ext w 25 7
def fQNa (w : BitVec 64) : Bool := w.getLsbD 24
def fQNb (w : BitVec 64) : Bool := w.getLsbD 23
def fCsr (w : BitVec 64) : BitVec 13 := ext w 20 13
def fImm20 (w : BitVec 64) : BitVec 20 := ext w 0 20
def fSGrp (w : BitVec 64) : Bool := w.getLsbD 0
def fMData (w : BitVec 64) : Src := ⟨ext w 40 6, w.getLsbD 32⟩
def fMSize (w : BitVec 64) : BitVec 3 := ext w 29 3
def fMOrder (w : BitVec 64) : BitVec 2 := ext w 27 2
def fMScope (w : BitVec 64) : BitVec 4 := ext w 23 4
def fMSpec (w : BitVec 64) : Bool := w.getLsbD 22
def fOff22 (w : BitVec 64) : BitVec 22 := ext w 0 22
def fAOrder (w : BitVec 64) : BitVec 2 := ext w 17 2
def fAScope (w : BitVec 64) : BitVec 4 := ext w 13 4
def fAPlace (w : BitVec 64) : BitVec 2 := ext w 11 2
def fASize (w : BitVec 64) : BitVec 2 := ext w 9 2
/-- The guard (R136). -/
def fGuard (w : BitVec 64) : Guard := ⟨fNeg w, fPred w⟩

/-- The word of a control instruction (R136 to R144, R192, R310, R334); none for any other row. -/
def encodeControl : Instr → Option (BitVec 64)
  | .nop g => some (packE g 0x000#10 0#6 noSrc noSrc noSrc 0#19)
  | .add g sd a b => some (packE g 0x001#10 sd a b noSrc 0#19)
  | .sub g sd a b => some (packE g 0x002#10 sd a b noSrc 0#19)
  | .mul g sd a b => some (packE g 0x003#10 sd a b noSrc 0#19)
  | .mulh g sd a b => some (packE g 0x004#10 sd a b noSrc 0#19)
  | .mulhu g sd a b => some (packE g 0x005#10 sd a b noSrc 0#19)
  | .div g sd a b => some (packE g 0x006#10 sd a b noSrc 0#19)
  | .divu g sd a b => some (packE g 0x007#10 sd a b noSrc 0#19)
  | .rem g sd a b => some (packE g 0x008#10 sd a b noSrc 0#19)
  | .remu g sd a b => some (packE g 0x009#10 sd a b noSrc 0#19)
  | .and g sd a b => some (packE g 0x00A#10 sd a b noSrc 0#19)
  | .or g sd a b => some (packE g 0x00B#10 sd a b noSrc 0#19)
  | .xor g sd a b => some (packE g 0x00C#10 sd a b noSrc 0#19)
  | .andn g sd a b => some (packE g 0x00D#10 sd a b noSrc 0#19)
  | .shl g sd a b => some (packE g 0x00E#10 sd a b noSrc 0#19)
  | .shr g sd a b => some (packE g 0x00F#10 sd a b noSrc 0#19)
  | .sra g sd a b => some (packE g 0x010#10 sd a b noSrc 0#19)
  | .ror g sd a b => some (packE g 0x011#10 sd a b noSrc 0#19)
  | .min g sd a b => some (packE g 0x012#10 sd a b noSrc 0#19)
  | .max g sd a b => some (packE g 0x013#10 sd a b noSrc 0#19)
  | .minu g sd a b => some (packE g 0x014#10 sd a b noSrc 0#19)
  | .maxu g sd a b => some (packE g 0x015#10 sd a b noSrc 0#19)
  | .clz g sd a => some (packE g 0x016#10 sd a noSrc noSrc 0#19)
  | .ctz g sd a => some (packE g 0x017#10 sd a noSrc noSrc 0#19)
  | .popc g sd a => some (packE g 0x018#10 sd a noSrc noSrc 0#19)
  | .bext g sd a b c => some (packE g 0x019#10 sd a b c 0#19)
  | .bins g sd a b c => some (packE g 0x01A#10 sd a b c 0#19)
  | .sel g sd p a b => some (packE g 0x01B#10 sd a b noSrc (p ++ 0#12))
  | .madd g sd a b c => some (packE g 0x01C#10 sd a b c 0#19)
  | .addi g sd a imm => some (packI g 0x020#10 sd a imm)
  | .andi g sd a imm => some (packI g 0x021#10 sd a imm)
  | .ori g sd a imm => some (packI g 0x022#10 sd a imm)
  | .xori g sd a imm => some (packI g 0x023#10 sd a imm)
  | .shli g sd a imm => some (packI g 0x024#10 sd a imm)
  | .shri g sd a imm => some (packI g 0x025#10 sd a imm)
  | .srai g sd a imm => some (packI g 0x026#10 sd a imm)
  | .muli g sd a imm => some (packI g 0x029#10 sd a imm)
  | .movi g sd imm => some (packI g 0x027#10 sd noSrc imm)
  | .movhi g sd a imm => some (packI g 0x028#10 sd a imm)
  | .leapc g sd imm => some (packI g 0x02A#10 sd noSrc imm)
  | .cmp g pd pe cc a b => some (packP g 0x040#10 pd pe a b cc false)
  | .cmpi g pd pe cc a imm => some (packPI g 0x041#10 pd pe a cc imm)
  | .fcmp g pd pe cc d a b => some (packP g 0x042#10 pd pe a b cc d)
  | .pand g pd pa pb na nb => some (packQ g 0x043#10 pd pa pb na nb)
  | .por g pd pa pb na nb => some (packQ g 0x044#10 pd pa pb na nb)
  | .pxor g pd pa pb na nb => some (packQ g 0x045#10 pd pa pb na nb)
  | .pget g sd grp => some (packS g 0x046#10 sd noSrc 0#13 (0#19 ++ bit grp))
  | .pput g grp a => some (packS g 0x047#10 0#6 a 0#13 (0#19 ++ bit grp))
  | .br g off => some (packB g 0x060#10 off)
  | .call g off => some (packB g 0x061#10 off)
  | .jmp g a => some (packE g 0x062#10 0#6 a noSrc noSrc 0#19)
  | .callr g sd a => some (packE g 0x063#10 sd a noSrc noSrc 0#19)
  | .dbnz g sd a imm => some (packI g 0x064#10 sd a imm)
  | .fadd g sd rm d a b => some (packE g 0x080#10 sd a b noSrc (rm ++ bit d ++ 0#15))
  | .fsub g sd rm d a b => some (packE g 0x081#10 sd a b noSrc (rm ++ bit d ++ 0#15))
  | .fmul g sd rm d a b => some (packE g 0x082#10 sd a b noSrc (rm ++ bit d ++ 0#15))
  | .ffma g sd rm d a b c => some (packE g 0x083#10 sd a b c (rm ++ bit d ++ 0#15))
  | .fdiv g sd rm d a b => some (packE g 0x084#10 sd a b noSrc (rm ++ bit d ++ 0#15))
  | .fsqrt g sd rm d a => some (packE g 0x085#10 sd a noSrc noSrc (rm ++ bit d ++ 0#15))
  | .fmin g sd d a b => some (packE g 0x086#10 sd a b noSrc (0#3 ++ bit d ++ 0#15))
  | .fmax g sd d a b => some (packE g 0x087#10 sd a b noSrc (0#3 ++ bit d ++ 0#15))
  | .fcvt g sd rm code a => some (packE g 0x088#10 sd a noSrc noSrc (rm ++ code ++ 0#12))
  | .fclass g sd d a => some (packE g 0x089#10 sd a noSrc noSrc (0#3 ++ bit d ++ 0#15))
  | .fexp2 g sd rm d a => some (packE g 0x08A#10 sd a noSrc noSrc (rm ++ bit d ++ 0#15))
  | .flog2 g sd rm d a => some (packE g 0x08B#10 sd a noSrc noSrc (rm ++ bit d ++ 0#15))
  | .ld g sd a size order scope spec off => some (packM g 0x0A0#10 sd a false size order scope spec off)
  | .st g data a size order scope off => some (packM g 0x0A1#10 data.reg a data.last size order scope false off)
  | .ldsp g sd a size order scope off => some (packM g 0x0A2#10 sd a false size order scope false off)
  | .stsp g data a size order scope off => some (packM g 0x0A3#10 data.reg a data.last size order scope false off)
  | .pref g a off => some (packM g 0x0A4#10 0#6 a false 0#3 0#2 0#4 false off)
  | .chk g a => some (packE g 0x0A5#10 0#6 a noSrc noSrc 0#19)
  | .clean g a scope off => some (packM g 0x0A6#10 0#6 a false 0#3 0#2 scope false off)
  | .inval g a scope off => some (packM g 0x0A7#10 0#6 a false 0#3 0#2 scope false off)
  | .aadd g sd a b order scope place size => some (packE g 0x0C0#10 sd a b noSrc (order ++ scope ++ place ++ size ++ 0#9))
  | .aand g sd a b order scope place size => some (packE g 0x0C1#10 sd a b noSrc (order ++ scope ++ place ++ size ++ 0#9))
  | .aor g sd a b order scope place size => some (packE g 0x0C2#10 sd a b noSrc (order ++ scope ++ place ++ size ++ 0#9))
  | .axor g sd a b order scope place size => some (packE g 0x0C3#10 sd a b noSrc (order ++ scope ++ place ++ size ++ 0#9))
  | .amin g sd a b order scope place size => some (packE g 0x0C4#10 sd a b noSrc (order ++ scope ++ place ++ size ++ 0#9))
  | .amax g sd a b order scope place size => some (packE g 0x0C5#10 sd a b noSrc (order ++ scope ++ place ++ size ++ 0#9))
  | .aminu g sd a b order scope place size => some (packE g 0x0C6#10 sd a b noSrc (order ++ scope ++ place ++ size ++ 0#9))
  | .amaxu g sd a b order scope place size => some (packE g 0x0C7#10 sd a b noSrc (order ++ scope ++ place ++ size ++ 0#9))
  | .aswp g sd a b order scope place size => some (packE g 0x0C8#10 sd a b noSrc (order ++ scope ++ place ++ size ++ 0#9))
  | .acas g sd a b c order scope place size => some (packE g 0x0C9#10 sd a b c (order ++ scope ++ place ++ size ++ 0#9))
  | .afadd g sd a b order scope place size => some (packE g 0x0CA#10 sd a b noSrc (order ++ scope ++ place ++ size ++ 0#9))
  | .fence g kind scope => some (packE g 0x0E0#10 0#6 noSrc noSrc noSrc (kind ++ scope ++ 0#13))
  | .barinit g sd a b scope => some (packE g 0x100#10 sd a b noSrc (0#2 ++ scope ++ 0#13))
  | .bararrive g sd a => some (packE g 0x101#10 sd a noSrc noSrc 0#19)
  | .barexpect g a b => some (packE g 0x102#10 0#6 a b noSrc 0#19)
  | .barwait g a b => some (packE g 0x103#10 0#6 a b noSrc 0#19)
  | .bartest g pd a b => some (packE g 0x104#10 0#6 a b noSrc (pd ++ 0#12))
  | .tagwaitany g sd a => some (packE g 0x105#10 sd a noSrc noSrc 0#19)
  | .tagwaitall g a => some (packE g 0x106#10 0#6 a noSrc noSrc 0#19)
  | .tagfirst g sd a => some (packE g 0x107#10 sd a noSrc noSrc 0#19)
  | .tagclr g a => some (packE g 0x108#10 0#6 a noSrc noSrc 0#19)
  | .estart g sd e a => some (packE g 0x120#10 sd a noSrc noSrc (e ++ 0#16))
  | .eput g e n a => some (packE g 0x121#10 0#6 a noSrc noSrc (e ++ n ++ 0#12))
  | .eget g sd e n => some (packE g 0x122#10 sd noSrc noSrc noSrc (e ++ n ++ 0#12))
  | .fmtq g a => some (packE g 0x123#10 0#6 a noSrc noSrc 0#19)
  | .join g mask => some (packE g 0x124#10 0#6 noSrc noSrc noSrc (0#3 ++ mask ++ 0#12))
  | .spawn g sd a q nb => some (packE g 0x125#10 sd a noSrc noSrc (0#2 ++ bit nb ++ q ++ 0#12))
  | .jend g => some (packE g 0x126#10 0#6 noSrc noSrc noSrc 0#19)
  | .cpchainBind g sd a b ch => some (packE g 0x127#10 sd a b noSrc (0#6 ++ bit ch ++ 0#12))
  | .cpchainKick g sd ch => some (packE g 0x127#10 sd noSrc noSrc noSrc (1#3 ++ 0#3 ++ bit ch ++ 0#12))
  | .cpchainStop g sd ch => some (packE g 0x127#10 sd noSrc noSrc noSrc (2#3 ++ 0#3 ++ bit ch ++ 0#12))
  | .cpstat g sd ch => some (packE g 0x128#10 sd noSrc noSrc noSrc (0#6 ++ bit ch ++ 0#12))
  | .rdyset g sd a b => some (packE g 0x140#10 sd a b noSrc 0#19)
  | .rdytest g pd a b => some (packE g 0x141#10 0#6 a b noSrc (pd ++ 0#12))
  | .tcpref g a b dim n => some (packE g 0x142#10 0#6 a b noSrc (dim ++ n ++ 0#13))
  | .tcinv g a b whole => some (packE g 0x143#10 0#6 a b noSrc (bit whole ++ 0#18))
  | .tcclean g a b whole => some (packE g 0x144#10 0#6 a b noSrc (bit whole ++ 0#18))
  | .tcpin g sd a b => some (packE g 0x145#10 sd a b noSrc 0#19)
  | .tcunpin g a b => some (packE g 0x146#10 0#6 a b noSrc 0#19)
  | .tclook g sd a b => some (packE g 0x147#10 sd a b noSrc 0#19)
  | .tchalo g a b c => some (packE g 0x148#10 0#6 a b c 0#19)
  | .kvappend g sd a b c => some (packE g 0x180#10 sd a b c 0#19)
  | .kvcommit g sd a b c => some (packE g 0x181#10 sd a b c 0#19)
  | .kvsquash g sd a b => some (packE g 0x182#10 sd a b noSrc 0#19)
  | .kvtrunc g sd a b c => some (packE g 0x183#10 sd a b c 0#19)
  | .kvfork g sd a b c => some (packE g 0x184#10 sd a b c 0#19)
  | .kvfree g sd a b => some (packE g 0x185#10 sd a b noSrc 0#19)
  | .cksnap g sd a b => some (packE g 0x186#10 sd a b noSrc 0#19)
  | .cksel g sd a => some (packE g 0x187#10 sd a noSrc noSrc 0#19)
  | .ckdrop g a => some (packE g 0x188#10 0#6 a noSrc noSrc 0#19)
  | .smpstart g sd a => some (packE g 0x189#10 sd a noSrc noSrc 0#19)
  | .acctest g sd a => some (packE g 0x18A#10 sd a noSrc noSrc 0#19)
  | .rndc g sd => some (packE g 0x18B#10 sd noSrc noSrc noSrc 0#19)
  | .rngset g e a b => some (packE g 0x18C#10 0#6 a b noSrc (e ++ 0#16))
  | .rngget g sd e w => some (packE g 0x18D#10 sd noSrc noSrc noSrc (e ++ 0#3 ++ bit w ++ 0#12))
  | .txenc g sd a b => some (packE g 0x1A0#10 sd a b noSrc 0#19)
  | .txdec g sd a b => some (packE g 0x1A1#10 sd a b noSrc 0#19)
  | .txcons g sd a b => some (packE g 0x1A2#10 sd a b noSrc 0#19)
  | .txvocabOpen g sd a b => some (packE g 0x1A3#10 sd a b noSrc (0#3 ++ 0#16))
  | .txvocabRebind g sd a b => some (packE g 0x1A3#10 sd a b noSrc (1#3 ++ 0#16))
  | .txvocabClose g sd a b => some (packE g 0x1A3#10 sd a b noSrc (2#3 ++ 0#16))
  | .txmask g sd a b => some (packE g 0x1A4#10 sd a b noSrc 0#19)
  | .csrr g sd csr => some (packS g 0x1C0#10 sd noSrc csr 0#20)
  | .csrw g sd csr a => some (packS g 0x1C1#10 sd a csr 0#20)
  | .csrset g sd csr a => some (packS g 0x1C2#10 sd a csr 0#20)
  | .csrclr g sd csr a => some (packS g 0x1C3#10 sd a csr 0#20)
  | .trap g a num => some (packS g 0x1C4#10 0#6 a 0#13 num)
  | .eret g => some (packS g 0x1C5#10 0#6 noSrc 0#13 0#20)
  | .halt g => some (packS g 0x1C6#10 0#6 noSrc 0#13 0#20)
  | .tlbinvAll g a => some (packS g 0x1C7#10 0#6 a 0#13 0#20)
  | .tlbinvAsid g a => some (packS g 0x1C7#10 0#6 a 0#13 1#20)
  | .tlbinvPage g a => some (packS g 0x1C7#10 0#6 a 0#13 2#20)
  | .cyc g sd => some (packS g 0x1C8#10 sd noSrc 0#13 0#20)
  | .sigmix g a => some (packS g 0x1C9#10 0#6 a 0#13 0#20)
  | .waitcyc g a => some (packS g 0x1CA#10 0#6 a 0#13 0#20)
  | _ => none

/-- The word of an engine instruction (R145 to R147); none for any other row. -/
def encodeEngine : Instr → Option (BitVec 16)
  | .lit imm => some ((0#4 ++ imm : BitVec 16))
  | .litx imm => some ((1#4 ++ imm : BitVec 16))
  | .dup => some (packW 2#4 0#6 (0#6))
  | .drop => some (packW 2#4 1#6 (0#6))
  | .swap => some (packW 2#4 2#6 (0#6))
  | .over => some (packW 2#4 3#6 (0#6))
  | .rot => some (packW 2#4 4#6 (0#6))
  | .addw => some (packW 2#4 5#6 (0#6))
  | .subw => some (packW 2#4 6#6 (0#6))
  | .mulw => some (packW 2#4 7#6 (0#6))
  | .shlw => some (packW 2#4 8#6 (0#6))
  | .shrw => some (packW 2#4 9#6 (0#6))
  | .andw => some (packW 2#4 10#6 (0#6))
  | .orw => some (packW 2#4 11#6 (0#6))
  | .ldk n => some (packW 2#4 12#6 (0#2 ++ n))
  | .stk n => some (packW 2#4 13#6 (0#2 ++ n))
  | .brw off => some (packW 3#4 0#6 (off))
  | .bzw => some (packW 3#4 1#6 (0#6))
  | .brs => some (packW 3#4 2#6 (0#6))
  | .loopw len => some (packW 3#4 3#6 (len))
  | .endw => some (packW 3#4 4#6 (0#6))
  | .tagww t => some (packW 3#4 5#6 (t))
  | .tagsw t => some (packW 3#4 6#6 (t))
  | .baraw => some (packW 3#4 7#6 (0#6))
  | .barww => some (packW 3#4 8#6 (0#6))
  | .fencew scope => some (packW 3#4 9#6 (0#2 ++ scope))
  | .waitq => some (packW 3#4 10#6 (0#6))
  | .haltw => some (packW 3#4 11#6 (0#6))
  | .cpy1d dsp ssp => some (packW 4#4 0#6 (0#4 ++ bit dsp ++ bit ssp))
  | .cpy2d dsp ssp => some (packW 4#4 1#6 (0#4 ++ bit dsp ++ bit ssp))
  | .cpy3d dsp ssp => some (packW 4#4 2#6 (0#4 ++ bit dsp ++ bit ssp))
  | .cpyt toTile => some (packW 4#4 3#6 (0#5 ++ bit toTile))
  | .cpytb dim side => some (packW 4#4 4#6 (0#3 ++ dim ++ bit side))
  | .cpyg dsp ssp => some (packW 4#4 5#6 (0#4 ++ bit dsp ++ bit ssp))
  | .cpys dsp ssp => some (packW 4#4 6#6 (0#4 ++ bit dsp ++ bit ssp))
  | .cpyfill dsp => some (packW 4#4 7#6 (0#4 ++ bit dsp ++ 0#1))
  | .mld => some (packW 5#4 0#6 (0#6))
  | .mst => some (packW 5#4 1#6 (0#6))
  | .accinit => some (packW 5#4 2#6 (0#6))
  | .acczero => some (packW 5#4 3#6 (0#6))
  | .acccvt => some (packW 5#4 4#6 (0#6))
  | .accnorm => some (packW 5#4 5#6 (0#6))
  | .accsnap => some (packW 5#4 6#6 (0#6))
  | .accload => some (packW 5#4 7#6 (0#6))
  | .mma ta tb => some (packW 5#4 8#6 (bit ta ++ bit tb ++ 0#4))
  | .mmas ta tb => some (packW 5#4 9#6 (bit ta ++ bit tb ++ 0#4))
  | .permrd => some (packW 5#4 10#6 (0#6))
  | .growrd => some (packW 5#4 11#6 (0#6))
  | .flu fx => some (packW 7#4 0#6 (0#5 ++ bit fx))
  | .fchol fx => some (packW 7#4 1#6 (0#5 ++ bit fx))
  | .fqr fx => some (packW 7#4 2#6 (0#5 ++ bit fx))
  | .ftrsl fx => some (packW 7#4 3#6 (0#5 ++ bit fx))
  | .ftrsu fx => some (packW 7#4 4#6 (0#5 ++ bit fx))
  | .fapplyq fx => some (packW 7#4 5#6 (0#5 ++ bit fx))
  | .vadd fmt => some (packW 8#4 0#6 (0#2 ++ fmt))
  | .vsub fmt => some (packW 8#4 1#6 (0#2 ++ fmt))
  | .vmul fmt => some (packW 8#4 2#6 (0#2 ++ fmt))
  | .vfma fmt => some (packW 8#4 3#6 (0#2 ++ fmt))
  | .vmax fmt => some (packW 8#4 4#6 (0#2 ++ fmt))
  | .vmin fmt => some (packW 8#4 5#6 (0#2 ++ fmt))
  | .vabs fmt => some (packW 8#4 6#6 (0#2 ++ fmt))
  | .vcmp fmt => some (packW 8#4 7#6 (0#2 ++ fmt))
  | .vsel fmt => some (packW 8#4 8#6 (0#2 ++ fmt))
  | .vcvt fmt => some (packW 8#4 9#6 (0#2 ++ fmt))
  | .vrcp fmt => some (packW 8#4 10#6 (0#2 ++ fmt))
  | .vrsq fmt => some (packW 8#4 11#6 (0#2 ++ fmt))
  | .vexp2 fmt => some (packW 8#4 12#6 (0#2 ++ fmt))
  | .vlog2 fmt => some (packW 8#4 13#6 (0#2 ++ fmt))
  | .vred fmt => some (packW 8#4 14#6 (0#2 ++ fmt))
  | .viota fmt => some (packW 8#4 15#6 (0#2 ++ fmt))
  | .vand fmt => some (packW 8#4 16#6 (0#2 ++ fmt))
  | .vor fmt => some (packW 8#4 17#6 (0#2 ++ fmt))
  | .vxor fmt => some (packW 8#4 18#6 (0#2 ++ fmt))
  | .vshl fmt => some (packW 8#4 19#6 (0#2 ++ fmt))
  | .vshr fmt => some (packW 8#4 20#6 (0#2 ++ fmt))
  | .vmov fmt => some (packW 8#4 21#6 (0#2 ++ fmt))
  | .vrnd => some (packW 10#4 0#6 (0#6))
  | .vtmask => some (packW 10#4 1#6 (0#6))
  | .vsmax masked fmt => some (packW 10#4 2#6 (0#1 ++ bit masked ++ fmt))
  | .vtopk => some (packW 10#4 3#6 (0#6))
  | .vargmax => some (packW 10#4 4#6 (0#6))
  | .vscan fmt => some (packW 10#4 5#6 (0#2 ++ fmt))
  | .vquant fmt => some (packW 10#4 6#6 (0#2 ++ fmt))
  | .vdeq fmt => some (packW 10#4 7#6 (0#2 ++ fmt))
  | .xray => some (packW 11#4 0#6 (0#6))
  | .xrad => some (packW 11#4 1#6 (0#6))
  | .xknn => some (packW 11#4 2#6 (0#6))
  | .xbox => some (packW 11#4 3#6 (0#6))
  | .nopw => some (packW 15#4 0#6 (0#6))
  | _ => none

/-- Why a word is refused at decode: the items of R141 and R148 that raise 0x01 or 0x0D. -/
inductive DecodeError where
  /-- R141 item 1: an opcode outside the map. -/
  | opcode
  /-- R141 items 2 to 4: a field marked zero that is not, a reserved code, or pd = pe. -/
  | field
  /-- R148 item 1: a major or minor outside the map. -/
  | engineWord
  /-- R148 item 2: an imm6 outside R147 or the entry. -/
  | engineImm
deriving DecidableEq, Repr

/-- The row of a control word by its opcode, with its fields. -/
def candidateControl (w : BitVec 64) : Option Instr :=
  match (fOp w).toNat with
  | 0x000 => some (.nop (fGuard w))
  | 0x001 => some (.add (fGuard w) (fSd w) (fA w) (fB w))
  | 0x002 => some (.sub (fGuard w) (fSd w) (fA w) (fB w))
  | 0x003 => some (.mul (fGuard w) (fSd w) (fA w) (fB w))
  | 0x004 => some (.mulh (fGuard w) (fSd w) (fA w) (fB w))
  | 0x005 => some (.mulhu (fGuard w) (fSd w) (fA w) (fB w))
  | 0x006 => some (.div (fGuard w) (fSd w) (fA w) (fB w))
  | 0x007 => some (.divu (fGuard w) (fSd w) (fA w) (fB w))
  | 0x008 => some (.rem (fGuard w) (fSd w) (fA w) (fB w))
  | 0x009 => some (.remu (fGuard w) (fSd w) (fA w) (fB w))
  | 0x00A => some (.and (fGuard w) (fSd w) (fA w) (fB w))
  | 0x00B => some (.or (fGuard w) (fSd w) (fA w) (fB w))
  | 0x00C => some (.xor (fGuard w) (fSd w) (fA w) (fB w))
  | 0x00D => some (.andn (fGuard w) (fSd w) (fA w) (fB w))
  | 0x00E => some (.shl (fGuard w) (fSd w) (fA w) (fB w))
  | 0x00F => some (.shr (fGuard w) (fSd w) (fA w) (fB w))
  | 0x010 => some (.sra (fGuard w) (fSd w) (fA w) (fB w))
  | 0x011 => some (.ror (fGuard w) (fSd w) (fA w) (fB w))
  | 0x012 => some (.min (fGuard w) (fSd w) (fA w) (fB w))
  | 0x013 => some (.max (fGuard w) (fSd w) (fA w) (fB w))
  | 0x014 => some (.minu (fGuard w) (fSd w) (fA w) (fB w))
  | 0x015 => some (.maxu (fGuard w) (fSd w) (fA w) (fB w))
  | 0x016 => some (.clz (fGuard w) (fSd w) (fA w))
  | 0x017 => some (.ctz (fGuard w) (fSd w) (fA w))
  | 0x018 => some (.popc (fGuard w) (fSd w) (fA w))
  | 0x019 => some (.bext (fGuard w) (fSd w) (fA w) (fB w) (fC w))
  | 0x01A => some (.bins (fGuard w) (fSd w) (fA w) (fB w) (fC w))
  | 0x01B => some (.sel (fGuard w) (fSd w) (fPd w) (fA w) (fB w))
  | 0x01C => some (.madd (fGuard w) (fSd w) (fA w) (fB w) (fC w))
  | 0x020 => some (.addi (fGuard w) (fSd w) (fA w) (fImm32 w))
  | 0x021 => some (.andi (fGuard w) (fSd w) (fA w) (fImm32 w))
  | 0x022 => some (.ori (fGuard w) (fSd w) (fA w) (fImm32 w))
  | 0x023 => some (.xori (fGuard w) (fSd w) (fA w) (fImm32 w))
  | 0x024 => some (.shli (fGuard w) (fSd w) (fA w) (fImm32 w))
  | 0x025 => some (.shri (fGuard w) (fSd w) (fA w) (fImm32 w))
  | 0x026 => some (.srai (fGuard w) (fSd w) (fA w) (fImm32 w))
  | 0x027 => some (.movi (fGuard w) (fSd w) (fImm32 w))
  | 0x028 => some (.movhi (fGuard w) (fSd w) (fA w) (fImm32 w))
  | 0x029 => some (.muli (fGuard w) (fSd w) (fA w) (fImm32 w))
  | 0x02A => some (.leapc (fGuard w) (fSd w) (fImm32 w))
  | 0x040 => some (.cmp (fGuard w) (fPPd w) (fPPe w) (fPCc w) (fPA w) (fPB w))
  | 0x041 => some (.cmpi (fGuard w) (fPPd w) (fPPe w) (fPiCc w) (fPA w) (fImm21 w))
  | 0x042 => some (.fcmp (fGuard w) (fPPd w) (fPPe w) (fPCc w) (fPD w) (fPA w) (fPB w))
  | 0x043 => some (.pand (fGuard w) (fPPd w) (fPPe w) (fQPb w) (fQNa w) (fQNb w))
  | 0x044 => some (.por (fGuard w) (fPPd w) (fPPe w) (fQPb w) (fQNa w) (fQNb w))
  | 0x045 => some (.pxor (fGuard w) (fPPd w) (fPPe w) (fQPb w) (fQNa w) (fQNb w))
  | 0x046 => some (.pget (fGuard w) (fSd w) (fSGrp w))
  | 0x047 => some (.pput (fGuard w) (fSGrp w) (fA w))
  | 0x060 => some (.br (fGuard w) (fOff46 w))
  | 0x061 => some (.call (fGuard w) (fOff46 w))
  | 0x062 => some (.jmp (fGuard w) (fA w))
  | 0x063 => some (.callr (fGuard w) (fSd w) (fA w))
  | 0x064 => some (.dbnz (fGuard w) (fSd w) (fA w) (fImm32 w))
  | 0x080 => some (.fadd (fGuard w) (fSd w) (fRm w) (fD w) (fA w) (fB w))
  | 0x081 => some (.fsub (fGuard w) (fSd w) (fRm w) (fD w) (fA w) (fB w))
  | 0x082 => some (.fmul (fGuard w) (fSd w) (fRm w) (fD w) (fA w) (fB w))
  | 0x083 => some (.ffma (fGuard w) (fSd w) (fRm w) (fD w) (fA w) (fB w) (fC w))
  | 0x084 => some (.fdiv (fGuard w) (fSd w) (fRm w) (fD w) (fA w) (fB w))
  | 0x085 => some (.fsqrt (fGuard w) (fSd w) (fRm w) (fD w) (fA w))
  | 0x086 => some (.fmin (fGuard w) (fSd w) (fD w) (fA w) (fB w))
  | 0x087 => some (.fmax (fGuard w) (fSd w) (fD w) (fA w) (fB w))
  | 0x088 => some (.fcvt (fGuard w) (fSd w) (fRm w) (fCode w) (fA w))
  | 0x089 => some (.fclass (fGuard w) (fSd w) (fD w) (fA w))
  | 0x08A => some (.fexp2 (fGuard w) (fSd w) (fRm w) (fD w) (fA w))
  | 0x08B => some (.flog2 (fGuard w) (fSd w) (fRm w) (fD w) (fA w))
  | 0x0A0 => some (.ld (fGuard w) (fSd w) (fA w) (fMSize w) (fMOrder w) (fMScope w) (fMSpec w) (fOff22 w))
  | 0x0A1 => some (.st (fGuard w) (fMData w) (fA w) (fMSize w) (fMOrder w) (fMScope w) (fOff22 w))
  | 0x0A2 => some (.ldsp (fGuard w) (fSd w) (fA w) (fMSize w) (fMOrder w) (fMScope w) (fOff22 w))
  | 0x0A3 => some (.stsp (fGuard w) (fMData w) (fA w) (fMSize w) (fMOrder w) (fMScope w) (fOff22 w))
  | 0x0A4 => some (.pref (fGuard w) (fA w) (fOff22 w))
  | 0x0A5 => some (.chk (fGuard w) (fA w))
  | 0x0A6 => some (.clean (fGuard w) (fA w) (fMScope w) (fOff22 w))
  | 0x0A7 => some (.inval (fGuard w) (fA w) (fMScope w) (fOff22 w))
  | 0x0C0 => some (.aadd (fGuard w) (fSd w) (fA w) (fB w) (fAOrder w) (fAScope w) (fAPlace w) (fASize w))
  | 0x0C1 => some (.aand (fGuard w) (fSd w) (fA w) (fB w) (fAOrder w) (fAScope w) (fAPlace w) (fASize w))
  | 0x0C2 => some (.aor (fGuard w) (fSd w) (fA w) (fB w) (fAOrder w) (fAScope w) (fAPlace w) (fASize w))
  | 0x0C3 => some (.axor (fGuard w) (fSd w) (fA w) (fB w) (fAOrder w) (fAScope w) (fAPlace w) (fASize w))
  | 0x0C4 => some (.amin (fGuard w) (fSd w) (fA w) (fB w) (fAOrder w) (fAScope w) (fAPlace w) (fASize w))
  | 0x0C5 => some (.amax (fGuard w) (fSd w) (fA w) (fB w) (fAOrder w) (fAScope w) (fAPlace w) (fASize w))
  | 0x0C6 => some (.aminu (fGuard w) (fSd w) (fA w) (fB w) (fAOrder w) (fAScope w) (fAPlace w) (fASize w))
  | 0x0C7 => some (.amaxu (fGuard w) (fSd w) (fA w) (fB w) (fAOrder w) (fAScope w) (fAPlace w) (fASize w))
  | 0x0C8 => some (.aswp (fGuard w) (fSd w) (fA w) (fB w) (fAOrder w) (fAScope w) (fAPlace w) (fASize w))
  | 0x0C9 => some (.acas (fGuard w) (fSd w) (fA w) (fB w) (fC w) (fAOrder w) (fAScope w) (fAPlace w) (fASize w))
  | 0x0CA => some (.afadd (fGuard w) (fSd w) (fA w) (fB w) (fAOrder w) (fAScope w) (fAPlace w) (fASize w))
  | 0x0E0 => some (.fence (fGuard w) (fAOrder w) (fAScope w))
  | 0x100 => some (.barinit (fGuard w) (fSd w) (fA w) (fB w) (fAScope w))
  | 0x101 => some (.bararrive (fGuard w) (fSd w) (fA w))
  | 0x102 => some (.barexpect (fGuard w) (fA w) (fB w))
  | 0x103 => some (.barwait (fGuard w) (fA w) (fB w))
  | 0x104 => some (.bartest (fGuard w) (fPd w) (fA w) (fB w))
  | 0x105 => some (.tagwaitany (fGuard w) (fSd w) (fA w))
  | 0x106 => some (.tagwaitall (fGuard w) (fA w))
  | 0x107 => some (.tagfirst (fGuard w) (fSd w) (fA w))
  | 0x108 => some (.tagclr (fGuard w) (fA w))
  | 0x120 => some (.estart (fGuard w) (fSd w) (fRm w) (fA w))
  | 0x121 => some (.eput (fGuard w) (fRm w) (fCode w) (fA w))
  | 0x122 => some (.eget (fGuard w) (fSd w) (fRm w) (fCode w))
  | 0x123 => some (.fmtq (fGuard w) (fA w))
  | 0x124 => some (.join (fGuard w) (fCode w))
  | 0x125 => some (.spawn (fGuard w) (fSd w) (fA w) (fCode w) (fB16 w))
  | 0x126 => some (.jend (fGuard w))
  | 0x127 => match (ext w 16 2).toNat with
    | 0 => some (.cpchainBind (fGuard w) (fSd w) (fA w) (fB w) (fB12 w))
    | 1 => some (.cpchainKick (fGuard w) (fSd w) (fB12 w))
    | 2 => some (.cpchainStop (fGuard w) (fSd w) (fB12 w))
    | _ => none
  | 0x128 => some (.cpstat (fGuard w) (fSd w) (fB12 w))
  | 0x140 => some (.rdyset (fGuard w) (fSd w) (fA w) (fB w))
  | 0x141 => some (.rdytest (fGuard w) (fPd w) (fA w) (fB w))
  | 0x142 => some (.tcpref (fGuard w) (fA w) (fB w) (fAOrder w) (fAScope w))
  | 0x143 => some (.tcinv (fGuard w) (fA w) (fB w) (fB18 w))
  | 0x144 => some (.tcclean (fGuard w) (fA w) (fB w) (fB18 w))
  | 0x145 => some (.tcpin (fGuard w) (fSd w) (fA w) (fB w))
  | 0x146 => some (.tcunpin (fGuard w) (fA w) (fB w))
  | 0x147 => some (.tclook (fGuard w) (fSd w) (fA w) (fB w))
  | 0x148 => some (.tchalo (fGuard w) (fA w) (fB w) (fC w))
  | 0x180 => some (.kvappend (fGuard w) (fSd w) (fA w) (fB w) (fC w))
  | 0x181 => some (.kvcommit (fGuard w) (fSd w) (fA w) (fB w) (fC w))
  | 0x182 => some (.kvsquash (fGuard w) (fSd w) (fA w) (fB w))
  | 0x183 => some (.kvtrunc (fGuard w) (fSd w) (fA w) (fB w) (fC w))
  | 0x184 => some (.kvfork (fGuard w) (fSd w) (fA w) (fB w) (fC w))
  | 0x185 => some (.kvfree (fGuard w) (fSd w) (fA w) (fB w))
  | 0x186 => some (.cksnap (fGuard w) (fSd w) (fA w) (fB w))
  | 0x187 => some (.cksel (fGuard w) (fSd w) (fA w))
  | 0x188 => some (.ckdrop (fGuard w) (fA w))
  | 0x189 => some (.smpstart (fGuard w) (fSd w) (fA w))
  | 0x18A => some (.acctest (fGuard w) (fSd w) (fA w))
  | 0x18B => some (.rndc (fGuard w) (fSd w))
  | 0x18C => some (.rngset (fGuard w) (fRm w) (fA w) (fB w))
  | 0x18D => some (.rngget (fGuard w) (fSd w) (fRm w) (fB12 w))
  | 0x1A0 => some (.txenc (fGuard w) (fSd w) (fA w) (fB w))
  | 0x1A1 => some (.txdec (fGuard w) (fSd w) (fA w) (fB w))
  | 0x1A2 => some (.txcons (fGuard w) (fSd w) (fA w) (fB w))
  | 0x1A3 => match (fRm w).toNat with
    | 0 => some (.txvocabOpen (fGuard w) (fSd w) (fA w) (fB w))
    | 1 => some (.txvocabRebind (fGuard w) (fSd w) (fA w) (fB w))
    | 2 => some (.txvocabClose (fGuard w) (fSd w) (fA w) (fB w))
    | _ => none
  | 0x1A4 => some (.txmask (fGuard w) (fSd w) (fA w) (fB w))
  | 0x1C0 => some (.csrr (fGuard w) (fSd w) (fCsr w))
  | 0x1C1 => some (.csrw (fGuard w) (fSd w) (fCsr w) (fA w))
  | 0x1C2 => some (.csrset (fGuard w) (fSd w) (fCsr w) (fA w))
  | 0x1C3 => some (.csrclr (fGuard w) (fSd w) (fCsr w) (fA w))
  | 0x1C4 => some (.trap (fGuard w) (fA w) (fImm20 w))
  | 0x1C5 => some (.eret (fGuard w))
  | 0x1C6 => some (.halt (fGuard w))
  | 0x1C7 => match (fImm20 w).toNat with
    | 0 => some (.tlbinvAll (fGuard w) (fA w))
    | 1 => some (.tlbinvAsid (fGuard w) (fA w))
    | 2 => some (.tlbinvPage (fGuard w) (fA w))
    | _ => none
  | 0x1C8 => some (.cyc (fGuard w) (fSd w))
  | 0x1C9 => some (.sigmix (fGuard w) (fA w))
  | 0x1CA => some (.waitcyc (fGuard w) (fA w))
  | _ => none

/-- The opcode map of R141 item 1. -/
def opcodeAssigned (op : Nat) : Bool :=
  decide (op ≤ 0x01C ∨ 0x020 ≤ op ∧ op ≤ 0x02A ∨ 0x040 ≤ op ∧ op ≤ 0x047 ∨ 0x060 ≤ op ∧ op ≤ 0x064 ∨ 0x080 ≤ op ∧ op ≤ 0x08B ∨
    0x0A0 ≤ op ∧ op ≤ 0x0A7 ∨ 0x0C0 ≤ op ∧ op ≤ 0x0CA ∨ op = 0x0E0 ∨ 0x100 ≤ op ∧ op ≤ 0x108 ∨ 0x120 ≤ op ∧ op ≤ 0x128 ∨
    0x140 ≤ op ∧ op ≤ 0x148 ∨ 0x180 ≤ op ∧ op ≤ 0x18D ∨ 0x1A0 ≤ op ∧ op ≤ 0x1A4 ∨ 0x1C0 ≤ op ∧ op ≤ 0x1CA)

/-- Reads a control word (R141 items 1 to 4). -/
def decodeControl (w : BitVec 64) : Except DecodeError Instr :=
  match candidateControl w with
  | some i => if i.wf && encodeControl i == some w then .ok i else .error .field
  | none => if opcodeAssigned (fOp w).toNat then .error .field else .error .opcode

/-! The fields of an engine word (R145). -/
def wMajor (w : BitVec 16) : BitVec 4 := ext w 12 4
def wMinor (w : BitVec 16) : BitVec 6 := ext w 6 6
def wImm12 (w : BitVec 16) : BitVec 12 := ext w 0 12
def wImm6 (w : BitVec 16) : BitVec 6 := ext w 0 6
def wLo4 (w : BitVec 16) : BitVec 4 := ext w 0 4
def wMid2 (w : BitVec 16) : BitVec 2 := ext w 1 2
def wB0 (w : BitVec 16) : Bool := w.getLsbD 0
def wB1 (w : BitVec 16) : Bool := w.getLsbD 1
def wB4 (w : BitVec 16) : Bool := w.getLsbD 4
def wB5 (w : BitVec 16) : Bool := w.getLsbD 5

/-- The row of an engine word by its major and minor, with its fields. -/
def candidateEngine (w : BitVec 16) : Option Instr :=
  match (wMajor w).toNat with
  | 0 => some (.lit (wImm12 w))
  | 1 => some (.litx (wImm12 w))
  | 2 => match (wMinor w).toNat with
    | 0 => some (.dup)
    | 1 => some (.drop)
    | 2 => some (.swap)
    | 3 => some (.over)
    | 4 => some (.rot)
    | 5 => some (.addw)
    | 6 => some (.subw)
    | 7 => some (.mulw)
    | 8 => some (.shlw)
    | 9 => some (.shrw)
    | 10 => some (.andw)
    | 11 => some (.orw)
    | 12 => some (.ldk (wLo4 w))
    | 13 => some (.stk (wLo4 w))
    | _ => none
  | 3 => match (wMinor w).toNat with
    | 0 => some (.brw (wImm6 w))
    | 1 => some (.bzw)
    | 2 => some (.brs)
    | 3 => some (.loopw (wImm6 w))
    | 4 => some (.endw)
    | 5 => some (.tagww (wImm6 w))
    | 6 => some (.tagsw (wImm6 w))
    | 7 => some (.baraw)
    | 8 => some (.barww)
    | 9 => some (.fencew (wLo4 w))
    | 10 => some (.waitq)
    | 11 => some (.haltw)
    | _ => none
  | 4 => match (wMinor w).toNat with
    | 0 => some (.cpy1d (wB1 w) (wB0 w))
    | 1 => some (.cpy2d (wB1 w) (wB0 w))
    | 2 => some (.cpy3d (wB1 w) (wB0 w))
    | 3 => some (.cpyt (wB0 w))
    | 4 => some (.cpytb (wMid2 w) (wB0 w))
    | 5 => some (.cpyg (wB1 w) (wB0 w))
    | 6 => some (.cpys (wB1 w) (wB0 w))
    | 7 => some (.cpyfill (wB1 w))
    | _ => none
  | 5 => match (wMinor w).toNat with
    | 0 => some (.mld)
    | 1 => some (.mst)
    | 2 => some (.accinit)
    | 3 => some (.acczero)
    | 4 => some (.acccvt)
    | 5 => some (.accnorm)
    | 6 => some (.accsnap)
    | 7 => some (.accload)
    | 8 => some (.mma (wB5 w) (wB4 w))
    | 9 => some (.mmas (wB5 w) (wB4 w))
    | 10 => some (.permrd)
    | 11 => some (.growrd)
    | _ => none
  | 7 => match (wMinor w).toNat with
    | 0 => some (.flu (wB0 w))
    | 1 => some (.fchol (wB0 w))
    | 2 => some (.fqr (wB0 w))
    | 3 => some (.ftrsl (wB0 w))
    | 4 => some (.ftrsu (wB0 w))
    | 5 => some (.fapplyq (wB0 w))
    | _ => none
  | 8 => match (wMinor w).toNat with
    | 0 => some (.vadd (wLo4 w))
    | 1 => some (.vsub (wLo4 w))
    | 2 => some (.vmul (wLo4 w))
    | 3 => some (.vfma (wLo4 w))
    | 4 => some (.vmax (wLo4 w))
    | 5 => some (.vmin (wLo4 w))
    | 6 => some (.vabs (wLo4 w))
    | 7 => some (.vcmp (wLo4 w))
    | 8 => some (.vsel (wLo4 w))
    | 9 => some (.vcvt (wLo4 w))
    | 10 => some (.vrcp (wLo4 w))
    | 11 => some (.vrsq (wLo4 w))
    | 12 => some (.vexp2 (wLo4 w))
    | 13 => some (.vlog2 (wLo4 w))
    | 14 => some (.vred (wLo4 w))
    | 15 => some (.viota (wLo4 w))
    | 16 => some (.vand (wLo4 w))
    | 17 => some (.vor (wLo4 w))
    | 18 => some (.vxor (wLo4 w))
    | 19 => some (.vshl (wLo4 w))
    | 20 => some (.vshr (wLo4 w))
    | 21 => some (.vmov (wLo4 w))
    | _ => none
  | 10 => match (wMinor w).toNat with
    | 0 => some (.vrnd)
    | 1 => some (.vtmask)
    | 2 => some (.vsmax (wB4 w) (wLo4 w))
    | 3 => some (.vtopk)
    | 4 => some (.vargmax)
    | 5 => some (.vscan (wLo4 w))
    | 6 => some (.vquant (wLo4 w))
    | 7 => some (.vdeq (wLo4 w))
    | _ => none
  | 11 => match (wMinor w).toNat with
    | 0 => some (.xray)
    | 1 => some (.xrad)
    | 2 => some (.xknn)
    | 3 => some (.xbox)
    | _ => none
  | 15 => match (wMinor w).toNat with
    | 0 => some (.nopw)
    | _ => none
  | _ => none

/-- Reads an engine word (R148 items 1 and 2, as far as the word alone decides). -/
def decodeEngine (w : BitVec 16) : Except DecodeError Instr :=
  match candidateEngine w with
  | some i => if i.wf && encodeEngine i == some w then .ok i else .error .engineImm
  | none => .error .engineWord

/-- The instruction word of any row as a number of its own width, for TRAPVAL (R347); none for commands and events. -/
def encode (i : Instr) : Option Word :=
  match encodeControl i with
  | some w => some w
  | none => (encodeEngine i).map (fun w => w.zeroExtend 64)

/-- The bytes of a word of n bytes, least significant first (R8). -/
def toBytes {w : Nat} (n : Nat) (x : BitVec w) : Bytes := (List.range n).map (fun k => x.extractLsb' (8 * k) 8)

/-- The number that bytes spell, least significant first (R8). -/
def bytesVal : Bytes → Nat
  | [] => 0
  | b :: bs => b.toNat + 256 * bytesVal bs

/-- Reads an instruction from its bytes as the hardware stores them: two bytes for an engine stream, eight for a
control stream (R136, R145). -/
def decodeBytes (bs : Bytes) : Option Instr :=
  if bs.length = 2 then (decodeEngine (BitVec.ofNat 16 (bytesVal bs))).toOption
  else if bs.length = 8 then (decodeControl (BitVec.ofNat 64 (bytesVal bs))).toOption
  else none

/-- The instruction that the decoder reads from an instruction whose bits are w: an engine word of 16 bits, or a
control word of 64. A row of any other width has no instruction word. -/
def decodeTableWord (nbits w : Nat) : Option Instr :=
  if nbits = 16 then decodeBytes (toBytes 2 (BitVec.ofNat 16 w))
  else if nbits = 64 then decodeBytes (toBytes 8 (BitVec.ofNat 64 w))
  else none

end Sys2Proof
end

