-- ==== Sys2Proof/Config.lean ====
section
/-! DEFINITION. Config.lean: what an implementation fixes and the spec leaves open. Every constant here is opaque: it has
no body that a proof could evaluate, so what is proved holds whatever its value is (notes/assumptions/2, 5, 8). -/

namespace Sys2Proof

/-- A free truth value for each draw: a choice that the spec leaves open (notes/assumptions/2). -/
opaque Config.freeBool : Nat → Bool
/-- A free number for each draw (notes/assumptions/2). -/
opaque Config.freeNat : Nat → Nat
/-- The alarm policy in the fuses (R390): 0 log, 1 reset, 2 and 3 erase (notes/assumptions/5). -/
opaque Config.alarmPolicy : BitVec 2
/-- The T1-privilege fuse (R379, R381). -/
opaque Config.t1Privilege : Bool
/-- The debug-lock fuse (R381, R388). -/
opaque Config.debugLock : Bool
/-- ECDSA P-384 by the attestation key over SHA-384 of MEAS, the nonce and the two feature words (R387). -/
opaque Config.quote : BitVec 384 → BitVec 384 → Word → Word → BitVec 768
/-- Whether a response is a signature over the challenge by the fused debug key (R388). -/
opaque Config.debugSigned : BitVec 384 → BitVec 768 → Bool
/-- SHA-384 of a byte string (R384, R387; notes/assumptions/8). -/
opaque Config.sha384 : Bytes → BitVec 384
/-- Whether an ECDSA P-384 signature over a message verifies under a public key: key, signature, message (R384). -/
opaque Config.ecdsaOk : Bytes → Bytes → Bytes → Bool
/-- Whether an LMS signature over a message verifies under a public key: key, signature, message (R384). -/
opaque Config.lmsOk : Bytes → Bytes → Bytes → Bool
/-- The fused SHA-384 of the ECDSA and of the LMS public key (R381, R384). -/
opaque Config.keyFuse : Bool → BitVec 384
/-- The fused minimum version (R381, R384). -/
opaque Config.minVersion : Nat
/-- How FWSTAT shows the failing check of R384; the spec gives no code (notes/assumptions/77). -/
opaque Config.checkCode : Nat → Word
/-- The firmware images that the flash slots hold until an update writes them (R383; notes/assumptions/77). -/
opaque Config.factoryImage : Bool → Bytes

end Sys2Proof
end

