-- ==== Sys2Proof/Machine/State.lean ====
section
/-! DEFINITION. Machine/State.lean: the state of the whole module as plain data: memory, the 96 cores with their 192 slots,
the scheduler's queues, contexts and regions, the die units, the host port, and the start controller. INVENTORY.md lists
every field with the rule that names it and its value at reset. -/

namespace Sys2Proof.Machine

/-- A sparse table: keys rising. -/
abbrev Table (α : Type) := List (Nat × α)
/-- A sparse array of bit vectors; an unlisted index reads zero. -/
abbrev Cells (w : Nat) := Table (BitVec w)
/-- The bytes of the 44-bit physical space (R27); an unlisted byte reads zero (notes/assumptions/3). -/
abbrev Memory := List Host.Cell

/-- Canonical form: keys strictly rising, and no entry zero. -/
def Memory.wf (m : Memory) : Bool :=
  match m with
  | [] => true
  | (a, v) :: rest =>
    (v != 0#8) && (match rest with
      | [] => true
      | (b, _) :: _ => decide (a < b)) && Memory.wf rest

/-- A fault as it is raised: its code, its TRAPVAL (R347), the engine code, the PC of its word, and what TRAPCAUSE.INFO,
DEF and CHN hold (R349, R358, R392). -/
structure FaultInfo where
  code : BitVec 8
  val  : Word
  eng  : EngId
  pc   : Word
  /-- TRAPCAUSE.INFO: the trap number, the original PC, or the channel. -/
  info : BitVec 48
  /-- DEF: a deferred fault raised at KVCOMMIT, with its node. -/
  node : Option (BitVec 6)
  /-- CHN: a chain fault, with its channel. -/
  chan : Option (Fin 2)
deriving DecidableEq, Repr

/-! What agents know of each other's accesses (R113 to R128; notes/assumptions/6). -/

/-- At an address, the number below which every write is known (R123): a read of the agent returns none older. -/
abbrev View := Table Nat

/-- What happens before a point: writes, and accesses that deterministic mode has checked (R133). -/
structure Known where
  view : View
  accs : List Nat
deriving DecidableEq, Repr

/-- Who issues an access, as scopes tell agents apart (R113, R114): the stream that it acts for. -/
structure Issuer where
  slot : SlotId
  eng  : EngId
  ctx  : Ctx
  /-- The job's number. -/
  job  : Nat
deriving DecidableEq, Repr

/-- A release at a scope, and what happens before it (R119). -/
structure Release where
  by_   : Issuer
  scope : Nat
  known : Known
deriving DecidableEq, Repr

/-- What an agent knows. -/
structure Order where
  /-- What happens before its next access, or reads by it have seen. -/
  cur    : Known
  /-- Releases of writes that its reads have read: a later acquire fence takes them up (R119). -/
  read   : List Release
  /-- Its release fences: its later writes carry them (R119). -/
  fences : List Release
deriving DecidableEq, Repr

/-- A write that some agent may not see yet (R124, R125). -/
structure Write where
  /-- Its place among all writes: coherence order is that of their numbers. -/
  id    : Nat
  by_   : Issuer
  /-- What it has overwritten. -/
  old   : List (Nat × Byte)
  /-- For each die, the number below which its writes happen before this one (R125). -/
  clock : Vector Nat 4
  /-- The releases that a read of it synchronises with: its own, and of the run of atomics before it (R119). -/
  rels  : List Release
  /-- The scope of its own release, where it is one (R372). -/
  own   : Option Nat
  /-- The dies whose agents all see it. -/
  dies  : List Die
deriving DecidableEq, Repr

/-- An active loop of an engine stream (R228). -/
structure Loop where
  start : Word
  stop  : Word
  count : Word
deriving DecidableEq, Repr

/-- A launch that has issued and not completed (R224, R355). -/
structure Launch where
  op      : Instr
  pc      : Word
  vals    : List Word
  started : Bool
  /-- Bytes landed for a copy, the next step for a factorisation. -/
  prog    : Nat
  /-- The format word popped by MMA or MMAS. -/
  fmtw    : Option Word
  /-- Order of arrival at the slot's range checker (R233). -/
  seq     : Nat
  /-- The random words and rounding mode fixed at issue (R67, R71). -/
  key     : Word
  ctr     : Word
  rm      : BitVec 3
  /-- What the launch, an agent of its own, knows (R113, R117). -/
  order   : Order
  /-- The index array of CPYG and CPYS, read whole before any byte moves (R239). -/
  idx     : Option (List Nat)
  /-- A factorisation whose fault 0x0F has been taken: it completes (R275). -/
  ended   : Bool
  /-- What the copy has overwritten, by place: a later byte of an overlapping copy may still read it (R241). -/
  saved   : List (Nat × Byte)
  /-- A byte read and not landed, in the holding buffer (R354), and whether an error has made it poison (R29). -/
  buffer  : Option (Byte × Bool)
  /-- It has met a fault while its stream is held for another (R351). -/
  parked  : Bool
deriving DecidableEq, Repr

/-- An engine stream of a slot (R222). -/
structure EngStream where
  started  : Bool
  arrived  : Bool
  held     : Bool
  pc       : Word
  /-- Top first; at most eight. -/
  stack    : List Word
  cells    : Vector Word 16
  /-- Innermost first; at most two. -/
  loops    : List Loop
  arrv     : Bool
  arrIdx   : BitVec 9
  arrPh    : Bool
  wpv      : Bool
  wph      : Bool
  key      : Word
  ctr      : Word
  /-- Oldest first; at most eight. -/
  launches : List Launch
  efltPc   : BitVec 48
  efltCode : BitVec 8
  efltV    : Bool
  /-- The faulted launch that R225 holds the stream for, by its seq. -/
  faulted  : Option Nat
  /-- A fault not yet taken (R351). -/
  pending  : Option FaultInfo
  /-- The waiting word the stream is held at (R182). -/
  wait     : Option Instr
deriving DecidableEq, Repr

/-- A record of a copy chain (R204). -/
structure ChainRec where
  ctl    : Word
  cmpl   : Word
  src    : Word
  dst    : Word
  len    : Word
  rows   : Word
  spitch : Word
  dpitch : Word
deriving DecidableEq, Repr

/-- Where a channel halted at its record (R206). -/
inductive ChainHalt where
  | read | check | byte | ctlWrite
deriving DecidableEq, Repr

/-- A copy channel of a slot (R205 to R207). -/
structure Channel where
  bound  : Bool
  stop   : Bool
  halt   : Option ChainHalt
  idle   : Bool
  ring   : Word
  size   : Nat
  head   : Nat
  nrec   : BitVec 16
  /-- DONE as the channel holds it. -/
  done   : Nat
  /-- The record being processed. -/
  rcd    : Option ChainRec
  /-- A stop asked for while a record is in progress. -/
  stopping : Bool
  /-- The chain fault not yet taken (R392). -/
  pending  : Option FaultInfo
  /-- ERET with SKIP has asked for the record to be abandoned (R392). -/
  abandon  : Bool
  /-- What the record's copy has overwritten (R241). -/
  saved    : List (Nat × Byte)
  /-- The channel was continued: ERR in CTL is to be cleared, or a CTL write that could not be made is due (R206). -/
  fix      : Bool
  /-- FCODE as the channel holds it (R206). -/
  code     : BitVec 8
  /-- What the channel knows (R117). -/
  order    : Order
  /-- A byte read and not landed (R354), and whether an error has made it poison (R29). -/
  buffer   : Option (Byte × Bool)
deriving DecidableEq, Repr

/-- The status of an accumulator tile (R65). -/
structure AccStatus where
  e  : BitVec 16
  rn : BitVec 16
  es : Bool
deriving DecidableEq, Repr

/-- A row of the snapshot table (R318). -/
structure Snapshot where
  valid : Bool
  off   : Nat
  len   : Nat
  src   : BitVec 32
deriving DecidableEq, Repr

/-- An entry of a footprint list (R42). -/
structure FootEntry where
  base : Nat
  kind : Nat
  len  : Nat
deriving DecidableEq, Repr

/-- A tile name: handle, generation, coordinates (R42, R208). -/
structure TileName where
  handle : Nat
  gen    : Nat
  coords : List Nat
deriving DecidableEq, Repr

/-- A job card (R40). -/
structure Card where
  addr  : Word
  cpc   : Word
  mpc   : Word
  vpc   : Word
  cpypc : Word
  xpc   : Word
  partw : Word
  flags : Word
  cost  : Word
  foot  : Word
  waitl : Word
  after : Word
  init  : Vector Word 4
  carry : Word
deriving DecidableEq, Repr

/-- The carry set of a queue (R46): the carried register, its value, poison bit and dead bit. -/
structure Carried where
  reg    : Reg
  value  : Word
  poison : Bool
  dead   : Bool
deriving DecidableEq, Repr

/-- A job, from the moment it enters a queue (R40 to R47). -/
structure Job where
  ctx      : Ctx
  queue    : Nat
  seq      : Nat
  card     : Card
  foot     : List FootEntry
  waits    : List TileName
  after    : List Nat
  /-- Jobs of other queues it is in unordered conflict with, found when it entered (R131). -/
  conflict : Option Nat
  admitted : Bool
  /-- Order of admission (R289). -/
  admitNo  : Nat
  /-- A fault raised at CPC before any stream starts (R282). -/
  startFault : Option (BitVec 8 × Word)
  /-- The slots that the replayed traces name (R298). -/
  traceSlot  : List SlotId
  /-- The streams have started (R44). -/
  started  : Bool
  /-- The card fold of R221. -/
  sig0     : Word
  /-- Memory when the job entered its queue, and how many writes there had been: what instruction fetch may still see
  (R103). -/
  code     : Memory
  entered  : Nat
  /-- The carry set it received when it was admitted (R46). -/
  carried  : List Carried
  /-- The traced nodes that record it, and the index of its entry in each (R296, R297). -/
  traceAt  : List (Nat × Nat)
  /-- The hood of a provisional job, found when it was admitted (R308). -/
  era      : Nat
  /-- The watchdog's limit, fixed when the job starts (R36, R295). -/
  limit    : Nat
  /-- What the edges to it order, for bytes of its read and read-write entries (R127, R128). -/
  edge     : View
deriving DecidableEq, Repr

/-- Why a job is stopping or stopped (R355, R356); ending: it ends at its stop points, with no record (R283). -/
inductive StopWhy where
  | fault | halt | pause | ending
deriving DecidableEq, Repr

/-- A job on its way to, or at, its stop point (R354). -/
structure Stop where
  why     : StopWhy
  fault   : Option FaultInfo
  /-- A nested fault (R353). -/
  nest    : Bool
  /-- Its record is written (V = 1). -/
  written : Bool
  /-- STEP has let a word issue, and the launches with a lower seq run to their completion before the stop (R363). -/
  step    : Option Nat
  /-- The fault is fatal: the job, or its domain, ends (R348, R355). -/
  fatal   : Bool
deriving DecidableEq, Repr

/-- What a control stream awaits besides a waiting word (R299, R209, R391, R108). -/
inductive Await where
  | unit (die : Die) (unit : UnitKind)
  | rdyset (sd : Reg)
  | hostRead (va : Word) (pa n : Nat)
  | hostAtomic (va : Word) (pa n : Nat)
deriving DecidableEq, Repr

/-- A reply: of a die unit, the word for sd or a fault; of the host to a read of an address, the bytes or none (R391). -/
inductive UnitReply where
  | value (v : Word)
  | fault (f : FaultInfo)
  | bytes (pa : Nat) (bs : Option Bytes)
deriving DecidableEq, Repr

/-- An access that deterministic mode has checked (R133). -/
structure DetAccess where
  id    : Nat
  agent : Nat
  /-- true: scratchpad, at 2^26 times its slot's number and an offset; false: memory. -/
  sp    : Bool
  lo    : Nat
  hi    : Nat
  write : Bool
deriving DecidableEq, Repr

/-- The determinism record of a job (R133): the accesses that have passed its checks. -/
structure DetRecord where
  next  : Nat
  accs  : List DetAccess
deriving DecidableEq, Repr

/-- A core slot: residency, matrix state, scratchpad, the control stream, four engine streams, two channels and the job
(R23, R24). -/
structure Slot where
  resident : Option Ctx
  /-- The partition word of the running job; between jobs, of the last one (R91, R92). -/
  granules : Word
  scalars  : Vector Word 64
  poison   : BitVec 64
  dead     : BitVec 64
  preds    : BitVec 128
  pc       : Word
  jend     : Bool
  key      : Word
  ctr      : Word
  trapVec   : Word
  trapCause : Word
  trapPc    : Word
  trapVal   : Word
  hnd       : Bool
  skip      : Bool
  dnode     : BitVec 6
  partw     : Word
  spoob     : Word
  fflags    : BitVec 6
  frm       : BitVec 3
  tags      : Word
  age       : BitVec 16
  sig       : Word
  detctl    : Bool
  fmtq      : List Word
  wait      : Option Instr
  await     : Option Await
  reply     : Option UnitReply
  /-- Consecutive cycles each stream has been ready without issuing (R291). -/
  ages      : Vector Nat 5
  engs      : Vector EngStream 4
  chans     : Vector Channel 2
  tiles     : Cells 8
  acc       : Cells 50
  accStat   : Vector AccStatus 64
  perm      : Vector (BitVec 6) 64
  grow      : BitVec 32
  fst       : BitVec 32
  /-- Poisoned bytes of the tile registers, and poisoned accumulator elements (R29, R30). -/
  tilePoison : List Nat
  accPoison  : List Nat
  scratch   : Cells 8
  spPoison  : List Nat
  ckpt      : Cells 8
  ckPoison  : List Nat
  snaps     : Vector Snapshot 64
  lost      : Bool
  /-- Arrivals at the range checker so far. -/
  checker   : Nat
  job       : Option Job
  stop      : Option Stop
  watch     : Nat
  det       : DetRecord
  /-- What the control stream and the engine streams know (R116). -/
  order     : Vector Order 5
  /-- What the completions and TAGSW behind a set tag have released (R121). -/
  tagKnown  : Table Known
  /-- What the completed launches of each stream know, which WAITQ and JOIN acquire (R201, R231). -/
  fin       : Vector Known 5
  /-- Writes of the job to bytes of its write and read-write entries: address and number (R128). -/
  made      : List (Nat × Nat)
  /-- The releases carried by the last write to a byte of scratchpad (R119). -/
  spRels    : Table (List Release)
  /-- The cycle in which SPOOB was recorded (R95). -/
  spoobAt   : Option Word
deriving DecidableEq, Repr

/-- A named barrier (R193). -/
structure Barrier where
  /-- The owning slot of the core and its context. -/
  owner : Option (Bool × Ctx)
  scope : BitVec 4
  exp   : BitVec 16
  arr   : BitVec 16
  pend  : BitVec 48
  phase : Bool
  surp  : Bool
  /-- The releases of the current phase and of the last one (R121). -/
  rels  : List Release
  last  : List Release
deriving DecidableEq, Repr

/-- A cached page-table entry (R107): the entry, where it lies, and what it maps. -/
structure TlbEntry where
  asid  : Ctx
  /-- The level of the walk that read it: 1 and 2 are the walk cache's and 512 MiB leaves, 3 is a 64 KiB leaf. -/
  level : Nat
  /-- VA[47:42], VA[47:29] or VA[47:16], by level. -/
  vpage : Nat
  entry : Word
  at_   : Nat
deriving DecidableEq, Repr

/-- A line that INVAL has removed from a core's caches (R188): its address, how many writes there had been, and its bytes. -/
structure FetchLine where
  pa    : Nat
  at_   : Nat
  bytes : Bytes
deriving DecidableEq, Repr

/-- A core: 512 named barriers, a TLB for each of its five engine codes, and the control core's walk cache (R23). -/
structure Core where
  barriers : Table Barrier
  tlbs     : Vector (List TlbEntry) 5
  walks    : List TlbEntry
  fetched  : List FetchLine
deriving DecidableEq, Repr

/-- A stage of a pipeline with its allotment (R51, R52). -/
structure Stage where
  queue : Nat
  depth : Nat
  mins  : Nat
  maxs  : Nat
  allot : Nat
deriving DecidableEq, Repr

/-- What the retirement of a job releases towards later ones (R127, R128). -/
structure JobEdge where
  seq   : Nat
  queue : Nat
  foot  : List FootEntry
  made  : List (Nat × Nat)
deriving DecidableEq, Repr

/-- A live context (R37, R374). -/
structure Context where
  id       : Ctx
  node     : Nat
  priv     : Bool
  partner  : Option Ctx
  l1       : Nat
  save     : Nat
  status   : Nat
  header   : Nat
  nextSeq  : Nat
  csig     : Word
  halted   : Bool
  pipes    : List (List Stage)
  carry    : Table (List Carried)
  layouts  : Table (Vector Word 8)
  /-- DESTROY_CONTEXT has begun. -/
  dying    : Bool
  /-- Jobs that have retired, while a write of theirs may go unseen. -/
  edges    : List JobEdge
deriving DecidableEq, Repr

/-- A region control block (R32). -/
structure Region where
  parent : Nat
  prio   : BitVec 8
  flags  : BitVec 8
  role   : BitVec 8
  ovr    : BitVec 8
  slots  : BitVec 32
  gran   : BitVec 16
  tcq    : BitVec 16
  rdyq   : BitVec 16
  bws    : BitVec 16
  pls    : BitVec 16
  trbase : Word
  trsize : Word
deriving DecidableEq, Repr

/-- A ready entry of a readiness table (R285). -/
structure ReadyEntry where
  die  : Die
  ctx  : Ctx
  tile : TileName
  /-- The RDYSETs behind it, and what they release to a job that waits for the tile (R127, R128). -/
  rels : List Release
  edge : View
deriving DecidableEq, Repr

/-- The completed-tile counter of a tensor generation (R285). -/
structure ReadyCount where
  die    : Die
  ctx    : Ctx
  handle : Nat
  gen    : Nat
  count  : Nat
  rels   : List Release
  edge   : View
deriving DecidableEq, Repr

/-- A run of a tile's bytes in memory: its offset in the tile, its virtual and physical address, its length, and whether its
page-table entry is global (R109). -/
structure TileRun where
  off    : Nat
  va     : Word
  pa     : Nat
  len    : Nat
  global : Bool
deriving DecidableEq, Repr

/-- A tile-cache line (R99): one sector for each 1 KiB of the tile's bytes, and the mapping it was filled through. -/
structure TileLine where
  die     : Die
  ctx     : Ctx
  tile    : TileName
  sectors : BitVec 32
  dirty   : BitVec 32
  pinned  : Bool
  /-- Poisoned bytes. -/
  bad     : List Nat
  data    : Cells 8
  runs    : List TileRun
  used    : Nat
deriving DecidableEq, Repr

/-- A fill that a prefetch asked for (R211): the sectors wanted. -/
structure TileFill where
  ctx     : Ctx
  tile    : TileName
  sectors : BitVec 32
deriving DecidableEq, Repr

/-- A write-back on its way to memory: physical addresses and bytes (R100). -/
structure WriteBack where
  ctx  : Ctx
  tile : TileName
  die  : Die
  data : List (Nat × Byte)
deriving DecidableEq, Repr

/-- A window of a plank (R293). -/
structure Window where
  ctx   : Ctx
  open_ : Bool
  allow : Nat
deriving DecidableEq, Repr

/-- The plank of a cluster (R293, R294): debts by context number, those of open windows together. -/
structure Plank where
  cluster : Fin 16
  windows : List Window
  cur     : Nat
  begin_  : Nat
  debts   : Table Nat
  openDebt : Nat
  /-- The latest retirement of a job placed in the window. -/
  lastEnd : Nat
  jobs    : List (Ctx × Nat)
  next    : Option (List Window)
deriving DecidableEq, Repr

/-- A request on its way to a die unit (R22, R299, R332). -/
structure UnitRequest where
  die  : Die
  unit : UnitKind
  slot : SlotId
  op   : Instr
  vals : List Word
  /-- What the request, an agent of its own, knows (R113, R117). -/
  order : Order
deriving DecidableEq, Repr

/-- An RDYSET on its way to its home die (R209). -/
structure RemoteReady where
  die  : Die
  slot : SlotId
  ctx  : Ctx
  a    : Word
  tile : TileName
  counterDie : Die
  rel  : Release
  edge : View
deriving DecidableEq, Repr

/-- A live KV sequence (R304): the speculation unit's entry. -/
structure LiveSeq where
  hid    : Nat
  pool   : Nat
  seq    : Nat
  owner  : Ctx
  len    : Nat
  ver    : BitVec 16
  hn     : Nat
  /-- HOOD[g][h] at index 4g + h. -/
  hood   : Vector (BitVec 32) 32
  faults : List (Nat × FaultInfo)
  /-- Tells this hood from every other: a new one at each advance point and for each new sequence (R308). -/
  era    : Nat
deriving DecidableEq, Repr

/-- The constraints of a text stream (R344). -/
structure Constraints where
  stops  : List Bytes
  bans   : List (List Nat)
  forced : List (List Nat × List Nat)
deriving DecidableEq, Repr

/-- An open text stream (R333). -/
structure TextStream where
  owner : Ctx
  tab   : Nat
  hold  : Bytes
  kind  : Bool
  carry : Bytes
  tail  : Bytes
  hist  : List Nat
  force : Option (Nat × Nat)
  ended : Bool
  viol  : Bool
  cons  : Constraints
  /-- Memory at the bind: what the vocabulary cache may still hold of a table (R338). -/
  table : Memory
  /-- The virtual address that the bind named: deterministic mode holds reads of the header to it (R130, R332). -/
  va    : Word
deriving DecidableEq, Repr

/-- A T1 frame whose commands run, and the STATUS words already known (R379). -/
structure T1Frame where
  port  : Bool
  seq   : BitVec 32
  queue : Nat
  first : Nat
  count : Nat
  now   : Option (List Word)
deriving DecidableEq, Repr

/-- Registers that the host reads and writes (R369, R370), and the state of the start controller behind them. -/
structure HostRegs where
  mode     : BitVec 4
  step     : BitVec 8
  fails    : BitVec 8
  warm     : Bool
  alatch   : Bool
  starting : Bool
  retry    : Bool
  foffer0  : Word
  faccept0 : Word
  faccept1 : Word
  /-- The accepted set latched by GO (R378). -/
  features : Word
  rtbase   : Word
  pqbase   : Word
  fqbase   : Word
  fqsize   : Word
  /-- Which of RTBASE, PQBASE, FQBASE, FQSIZE have taken their one write. -/
  rwOnce   : BitVec 4
  fqhead   : Word
  fqtail   : Word
  stretch  : Word
  pauses   : Word
  err      : BitVec 5
  alarm    : BitVec 8
  alarms   : BitVec 32
  linkUp   : BitVec 3
  retrains : Vector (BitVec 8) 3
  tsync    : Bool
  tport    : Bool
  tcorr    : BitVec 32
  meas     : BitVec 384
  anonce   : BitVec 384
  asig     : BitVec 768
  challenge : BitVec 384
  unlocked  : Bool
  badResponses : Nat
  etype    : BitVec 16
  fwlen    : Word
  fwstat   : Word
  badImages : Nat
  staging  : Cells 8
  keysZero : Bool
  /-- The two firmware slots of the boot flash, as far as updates have written them, and the active one (R383). -/
  flash    : Option Bytes × Option Bytes
  active   : Bool
  /-- The words of DBGRESP written so far (R369, R388). -/
  response : BitVec 768
  /-- MSI-X vectors raised and not yet taken (R367). -/
  msix     : BitVec 3
  /-- What the last completion to the host carried: a read or an AtomicOp through W2 (R367, R368). -/
  w2Data   : Bytes
deriving DecidableEq, Repr

/-- The engine code and slot whose stream runs the word that executes. -/
structure Cursor where
  slot : SlotId
  eng  : EngId
deriving DecidableEq, Repr

/-- Who moves next: a stream of a slot issues a word, the command processor takes the entry at a queue's HEAD, or a command
or event of the module comes about (notes/assumptions/1). -/
inductive Move where
  | issue (slot : SlotId) (eng : EngId)
  | command (queue : Nat)
  | event (i : Instr)
deriving DecidableEq, Repr

/-- The state of the module. -/
structure State where
  agenda   : List Move
  fresh    : Nat
  cur      : Cursor
  curCmd   : Option Nat
  /-- The command of queue 0 that has begun and not completed (R374). -/
  cmdWait  : Option Instr
  mem      : Memory
  poison   : List Nat
  /-- Writes that some agent may not see yet, oldest first. -/
  log      : List Write
  /-- Writes so far. -/
  writes   : Nat
  /-- The SC fences, each issuer's last at each scope (R120). -/
  sc       : List Release
  /-- Corrected errors (R29). -/
  corrected : Nat
  cores    : Vector Core 96
  slots    : Vector Slot 192
  jobs     : List Job
  admitNo  : Nat
  contexts : List Context
  invalidating : List Ctx
  regions  : Table Region
  ready    : List ReadyEntry
  counts   : List ReadyCount
  lines    : List TileLine
  revoked  : List (Ctx × TileName)
  fills    : List TileFill
  writeBacks : List WriteBack
  planks   : List Plank
  /-- Admissions recorded for each traced node (R296). -/
  traceNo  : Table Nat
  requests : List UnitRequest
  remoteReady : List RemoteReady
  seqs     : List LiveSeq
  /-- Hoods that there have been (R308): the model's own count. -/
  eras     : Nat
  texts    : Table TextStream
  host     : HostRegs
  fqWait   : List (Word × Word)
  broken   : List Nat
  t1Seq    : Vector (Option (BitVec 32)) 2
  t1Frames : List T1Frame
  /-- Frames that a port has sent: port, SEQ and STATUS words (R379). -/
  t1Out    : List (Bool × BitVec 32 × List Word)
  /-- Frames that each port has dropped: unprotected, altered or replayed (R379). -/
  t1Drops  : Vector Nat 2
  dcc      : Word
  time     : Word
  /-- Nanoseconds of a backward correction still to absorb (R380). -/
  slew     : Nat
  paused   : Bool
  /-- Requests of the host that wait for the supply to recover, oldest first (R365). -/
  held     : List Instr
deriving DecidableEq, Repr

/-- Why a run stops with a fault. Every fault of the spec is an exception that the machine takes, so none is left to stop
a run: the type has no constructor, and no step answers with it. Safe. -/
inductive Fault where
deriving DecidableEq, Repr

/-- Why a step is refused. -/
inductive Refusal where
  /-- No meaning has been written for the instruction named: raised by an arm of exec. Safe. -/
  | notModelled (mnemonic : String)
deriving DecidableEq, Repr

/-- Nothing known. -/
def Known.empty : Known := ⟨[], []⟩
def Order.empty : Order := ⟨Known.empty, [], []⟩

/-- An engine stream that has not started, in the state R44 gives one at job start. -/
def EngStream.reset : EngStream :=
  ⟨false, false, false, 0, [], Vector.replicate 16 0, [], false, 0, false, false, false, 0, 0, [], 0, 0, false, none, none, none⟩

/-- An unbound channel (R207). -/
def Channel.reset : Channel :=
  ⟨false, false, none, false, 0, 0, 0, 0, 0, none, false, none, false, [], false, 0, Order.empty, none⟩

/-- An empty determinism record. -/
def DetRecord.reset : DetRecord := ⟨0, []⟩

/-- A slot that has run no job: the values of R44 and R349 where they give one, else zero (notes/assumptions/4). -/
def Slot.reset : Slot where
  resident := none
  granules := 0
  scalars := Vector.replicate 64 0
  poison := 0
  dead := 0
  preds := 1
  pc := 0
  jend := false
  key := 0
  ctr := 0
  trapVec := 0
  trapCause := 0
  trapPc := 0
  trapVal := 0
  hnd := false
  skip := false
  dnode := 0
  partw := 0
  spoob := 0
  fflags := 0
  frm := 0
  tags := 0
  age := 256
  sig := 0
  detctl := false
  fmtq := []
  wait := none
  await := none
  reply := none
  ages := Vector.replicate 5 0
  engs := Vector.replicate 4 EngStream.reset
  chans := Vector.replicate 2 Channel.reset
  tiles := []
  acc := []
  accStat := Vector.replicate 64 ⟨0, 0, false⟩
  perm := Vector.ofFn (fun i : Fin 64 => BitVec.ofNat 6 i.val)
  grow := 0
  fst := 0
  tilePoison := []
  accPoison := []
  scratch := []
  spPoison := []
  ckpt := []
  ckPoison := []
  snaps := Vector.replicate 64 ⟨false, 0, 0, 0⟩
  lost := false
  checker := 0
  job := none
  stop := none
  watch := 0
  det := DetRecord.reset
  order := Vector.replicate 5 Order.empty
  tagKnown := []
  fin := Vector.replicate 5 Known.empty
  made := []
  spRels := []
  spoobAt := none

/-- A barrier that no slot owns. -/
def Barrier.reset : Barrier := ⟨none, 0, 0, 0, 0, false, false, [], []⟩

/-- A core with no barrier owned and empty TLBs. -/
def Core.reset : Core := ⟨[], Vector.replicate 5 [], [], []⟩

/-- Node 0 with the inherit code in every field (R32, R374). -/
def Region.root : Region :=
  ⟨0xFFFF, 0xFF, 0xFF, 0xFF, 0xFF, 0xFFFF_FFFF, 0xFFFF, 0xFFFF, 0xFFFF, 0xFFFF, 0xFFFF, 0xFFFF_FFFF_FFFF_FFFF, 0xFFFF_FFFF_FFFF_FFFF⟩

/-- The registers of R369 at power-on, before the start steps (notes/assumptions/5). -/
def HostRegs.reset : HostRegs where
  mode := 0
  step := 1
  fails := 0
  warm := false
  alatch := false
  starting := true
  retry := false
  foffer0 := 0
  faccept0 := 0
  faccept1 := 0
  features := 0
  rtbase := 0
  pqbase := 0
  fqbase := 0
  fqsize := 0
  rwOnce := 0
  fqhead := 0
  fqtail := 0
  stretch := 0
  pauses := 0
  err := 0
  alarm := 0
  alarms := 0
  linkUp := 0
  retrains := Vector.replicate 3 0
  tsync := false
  tport := false
  tcorr := 0
  meas := 0
  anonce := 0
  asig := 0
  challenge := 0
  unlocked := false
  badResponses := 0
  etype := 0x88B5
  fwlen := 0
  fwstat := 0
  badImages := 0
  staging := []
  keysZero := false
  flash := (none, none)
  active := false
  response := 0
  msix := 0
  w2Data := []

/-- The module at power-on (notes/assumptions/5). -/
def State.reset : State where
  agenda := []
  fresh := 0
  cur := ⟨0, 0⟩
  curCmd := none
  cmdWait := none
  mem := []
  poison := []
  log := []
  writes := 0
  sc := []
  corrected := 0
  cores := Vector.replicate 96 Core.reset
  slots := Vector.replicate 192 Slot.reset
  jobs := []
  admitNo := 0
  contexts := []
  invalidating := []
  regions := [(0, Region.root)]
  ready := []
  counts := []
  lines := []
  revoked := []
  fills := []
  writeBacks := []
  planks := []
  traceNo := []
  requests := []
  remoteReady := []
  seqs := []
  eras := 0
  texts := []
  host := HostRegs.reset
  fqWait := []
  broken := []
  t1Seq := Vector.replicate 2 none
  t1Frames := []
  t1Out := []
  t1Drops := Vector.replicate 2 0
  dcc := 0
  time := 0
  slew := 0
  paused := false
  held := []

end Sys2Proof.Machine
end

