-- ==== Sys2Proof/Machine/Flags.lean ====
section
/-! DEFINITION. Machine/Flags.lean: the number formats of spec/05_numbers.md, exact arithmetic rounded once (R68, R70),
and the FFLAGS bits that each operation raises (R75). A finite value is held exactly as a sign, a natural mantissa and a
power of two; a result that is no such value carries a sticky bit that stands for a positive remainder below the mantissa. -/

namespace Sys2Proof.Machine

/-! FFLAGS bits (R75). -/
def fNX : BitVec 6 := 0x01
def fUF : BitVec 6 := 0x02
def fOF : BitVec 6 := 0x04
def fDZ : BitVec 6 := 0x08
def fNV : BitVec 6 := 0x10
def fAS : BitVec 6 := 0x20

/-- A floating-point format of R58: exponent bits, fraction bits, bias, and whether it has infinities (R59 to R61). -/
structure FpFmt where
  x    : Nat
  f    : Nat
  bias : Int
  inf  : Bool
deriving DecidableEq, Repr

def fp64 : FpFmt := ⟨11, 52, 1023, true⟩
def fp32 : FpFmt := ⟨8, 23, 127, true⟩
def bf16 : FpFmt := ⟨8, 7, 127, true⟩
def e5m2 : FpFmt := ⟨5, 2, 15, true⟩
def e4m3 : FpFmt := ⟨4, 3, 7, false⟩

/-- Bits of an element of a format. -/
def FpFmt.width (t : FpFmt) : Nat := 1 + t.x + t.f

/-- A value read from an encoding: a NaN (signalling or not), an infinity, or (−1)^neg × m × 2^e. -/
inductive FVal where
  | nan (signalling : Bool)
  | inf (neg : Bool)
  | fin (neg : Bool) (m : Nat) (e : Int)
deriving DecidableEq, Repr

/-- The value of an encoding (R58 to R61); e is the weight of the encoding's last fraction bit. -/
def fdec (t : FpFmt) (bits : Nat) : FVal :=
  let neg := decide (bits / 2 ^ (t.x + t.f) % 2 = 1)
  let e := bits / 2 ^ t.f % 2 ^ t.x
  let f := bits % 2 ^ t.f
  if t.inf = true ∧ e = 2 ^ t.x - 1 then
    if f = 0 then .inf neg else .nan (decide (t.f ≠ 2 ∧ f < 2 ^ (t.f - 1)))
  else if t.inf = false ∧ e = 2 ^ t.x - 1 ∧ f = 2 ^ t.f - 1 then .nan false
  else if e = 0 then .fin neg f (1 - t.bias - (t.f : Int))
  else .fin neg (2 ^ t.f + f) ((e : Int) - t.bias - (t.f : Int))

/-- The canonical NaN of a format (R74). -/
def canonNaN (t : FpFmt) : Nat :=
  if t.inf then (2 ^ t.x - 1) * 2 ^ t.f + 2 ^ (t.f - 1) else 2 ^ (t.x + t.f) - 1

/-- An infinity's encoding, or zero's: sign and exponent only. -/
def fsign (t : FpFmt) (neg : Bool) : Nat := if neg then 2 ^ (t.x + t.f) else 0
def finf (t : FpFmt) (neg : Bool) : Nat := fsign t neg + (2 ^ t.x - 1) * 2 ^ t.f
/-- The largest finite magnitude with a sign (R58). -/
def fmax (t : FpFmt) (neg : Bool) : Nat :=
  fsign t neg + (if t.inf then (2 ^ t.x - 1) * 2 ^ t.f - 1 else 2 ^ (t.x + t.f) - 2)

/-- 2^k for an integer k that is not negative; 1 otherwise. -/
def pow2 (k : Int) : Nat := 2 ^ k.toNat

/-- One rounding of the magnitude m × 2^e (plus a positive remainder when sticky) to a multiple of 2^u, in a mode of R66:
the multiple, and whether the result is inexact. r is the random word and d the discarded positions of R70. -/
def roundMag (mode : BitVec 3) (neg : Bool) (m : Nat) (e : Int) (sticky : Bool) (u : Int) (r : BitVec 32) (d : Nat) :
    Nat × Bool :=
  let sh := (u - e).toNat
  let m' := if e > u then m * pow2 (e - u) else m
  let k := m' / 2 ^ sh
  let rem := m' % 2 ^ sh
  let inexact := decide (rem ≠ 0) || sticky
  let half := 2 ^ sh / 2
  let up : Bool := match mode.toNat with
    | 0 => decide (1 ≤ sh) && (decide (rem > half) || (decide (rem = half) && (sticky || decide (k % 2 = 1))))
    | 1 => false
    | 2 => inexact && neg
    | 3 => inexact && !neg
    | 4 => decide (1 ≤ sh ∧ rem ≥ half)
    | 5 =>
      let w := min d 16
      let t := rem * 2 ^ w / 2 ^ sh
      decide ((t + r.toNat % 2 ^ w) / 2 ^ w = 1)
    | _ => false
  (if up then k + 1 else k, inexact)

/-- The overflow rule of R68: the format, the mode, saturate and the sign. -/
def overflowTo (t : FpFmt) (mode : BitVec 3) (sat neg : Bool) : Nat :=
  let infinite := if t.inf then finf t neg else canonNaN t
  if sat then fmax t neg
  else match mode.toNat with
    | 1 => fmax t neg
    | 2 => if neg then infinite else fmax t neg
    | 3 => if neg then fmax t neg else infinite
    | _ => infinite

/-- Rounds an exact nonzero or zero magnitude into a format (R68, R70, R73): the encoding and the flags. `d` none counts the
discarded positions from the unit down to e, as a conversion does; `some n` gives them. -/
def roundFp (t : FpFmt) (mode : BitVec 3) (sat neg : Bool) (m : Nat) (e : Int) (sticky : Bool) (r : BitVec 32)
    (d : Option Nat) : Nat × BitVec 6 :=
  if m = 0 then (fsign t neg, 0)
  else
    let emin : Int := 1 - t.bias
    let u : Int := max (e + (m.log2 : Int)) emin - (t.f : Int)
    let (k0, inexact) := roundMag mode neg m e sticky u r (d.getD (u - e).toNat)
    let carry := decide (k0 = 2 ^ (t.f + 1))
    let k := if carry then 2 ^ t.f else k0
    let u' := if carry then u + 1 else u
    let be : Int := if k < 2 ^ t.f then 0 else u' + (t.f : Int) + t.bias
    let big : Bool := if t.inf then decide (be ≥ 2 ^ t.x - 1)
      else decide (be > 2 ^ t.x - 1 ∨ (be = 2 ^ t.x - 1 ∧ k = 2 ^ (t.f + 1) - 1))
    if big then (overflowTo t mode sat neg, fOF ||| fNX)
    else
      let enc := fsign t neg + be.toNat * 2 ^ t.f + (if k < 2 ^ t.f then k else k - 2 ^ t.f)
      (enc, if inexact then (if decide (be = 0) && decide (k ≠ 0) then fUF ||| fNX else fNX) else 0)

/-- The canonical NaN with NV when an operand signals (R74). -/
def nanOut (t : FpFmt) (nv : Bool) : Nat × BitVec 6 := (canonNaN t, if nv then fNV else 0)

/-- Whether a value is a signalling NaN. -/
def FVal.signals : FVal → Bool
  | .nan s => s
  | _ => false
/-- Whether a value is a NaN. -/
def FVal.isNaN : FVal → Bool
  | .nan _ => true
  | _ => false

/-- The exact sum of two finite values: sign, magnitude and power of two; the sign of an exact zero follows R72. -/
def exactSum (mode : BitVec 3) (n1 : Bool) (m1 : Nat) (e1 : Int) (n2 : Bool) (m2 : Nat) (e2 : Int) : Bool × Nat × Int :=
  let e := min e1 e2
  let a : Int := (if n1 then -1 else 1) * ((m1 * pow2 (e1 - e) : Nat) : Int)
  let b : Int := (if n2 then -1 else 1) * ((m2 * pow2 (e2 - e) : Nat) : Int)
  let s := a + b
  if s = 0 then (if n1 = n2 then n1 else decide (mode.toNat = 2), 0, e)
  else (decide (s < 0), s.natAbs, e)

/-- a + b rounded once (R72, R74, R177). -/
def fpAdd (t : FpFmt) (mode : BitVec 3) (r : BitVec 32) (a b : Nat) : Nat × BitVec 6 :=
  match fdec t a, fdec t b with
  | .nan s, y => nanOut t (s || y.signals)
  | _, .nan s => nanOut t s
  | .inf n, .inf n' => if n = n' then (finf t n, 0) else nanOut t true
  | .inf n, .fin .. => (finf t n, 0)
  | .fin .., .inf n => (finf t n, 0)
  | .fin n1 m1 e1, .fin n2 m2 e2 =>
    let (n, m, e) := exactSum mode n1 m1 e1 n2 m2 e2
    roundFp t mode false n m e false r (some 17)

/-- The encoding with its sign bit flipped. -/
def fpNeg (t : FpFmt) (a : Nat) : Nat :=
  if a / 2 ^ (t.x + t.f) % 2 = 1 then a - 2 ^ (t.x + t.f) else a + 2 ^ (t.x + t.f)
/-- The encoding with its sign bit cleared. -/
def fpAbs (t : FpFmt) (a : Nat) : Nat := a % 2 ^ (t.x + t.f)

/-- a − b: an operand NaN keeps its kind, so the sum with b's sign flipped is the difference. -/
def fpSub (t : FpFmt) (mode : BitVec 3) (r : BitVec 32) (a b : Nat) : Nat × BitVec 6 := fpAdd t mode r a (fpNeg t b)

/-- a × b rounded once. -/
def fpMul (t : FpFmt) (mode : BitVec 3) (r : BitVec 32) (a b : Nat) : Nat × BitVec 6 :=
  match fdec t a, fdec t b with
  | .nan s, y => nanOut t (s || y.signals)
  | _, .nan s => nanOut t s
  | .inf n, .inf n' => (finf t (n != n'), 0)
  | .inf n, .fin n' m _ => if m = 0 then nanOut t true else (finf t (n != n'), 0)
  | .fin n m _, .inf n' => if m = 0 then nanOut t true else (finf t (n != n'), 0)
  | .fin n1 m1 e1, .fin n2 m2 e2 => roundFp t mode false (n1 != n2) (m1 * m2) (e1 + e2) false r (some 17)

/-- a × b + c rounded once (R177). -/
def fpFma (t : FpFmt) (mode : BitVec 3) (r : BitVec 32) (a b c : Nat) : Nat × BitVec 6 :=
  let x := fdec t a
  let y := fdec t b
  let z := fdec t c
  if x.isNaN || y.isNaN then nanOut t (x.signals || y.signals || z.signals)
  else match x, y with
  | .inf n, .inf n' => addInf (n != n') z
  | .inf n, .fin n' m _ => if m = 0 then nanOut t true else addInf (n != n') z
  | .fin n m _, .inf n' => if m = 0 then nanOut t true else addInf (n != n') z
  | .fin n1 m1 e1, .fin n2 m2 e2 =>
    match z with
    | .nan s => nanOut t s
    | .inf n => (finf t n, 0)
    | .fin n3 m3 e3 =>
      let (n, m, e) := exactSum mode (n1 != n2) (m1 * m2) (e1 + e2) n3 m3 e3
      roundFp t mode false n m e false r (some 17)
  | _, _ => nanOut t false
where
  addInf (n : Bool) (z : FVal) : Nat × BitVec 6 :=
    match z with
    | .nan s => nanOut t s
    | .inf n' => if n = n' then (finf t n, 0) else nanOut t true
    | .fin .. => (finf t n, 0)

/-- The quotient of two nonzero magnitudes to 80 bits or more, with its remainder as sticky. -/
def quot (m1 : Nat) (e1 : Int) (m2 : Nat) (e2 : Int) : Nat × Int × Bool :=
  let s := 81 + m2.log2
  let q := m1 * 2 ^ s / m2
  (q, e1 - e2 - (s : Int), decide (m1 * 2 ^ s % m2 ≠ 0))

/-- a / b rounded once (R74, R75, R177). -/
def fpDiv (t : FpFmt) (mode : BitVec 3) (r : BitVec 32) (a b : Nat) : Nat × BitVec 6 :=
  match fdec t a, fdec t b with
  | .nan s, y => nanOut t (s || y.signals)
  | _, .nan s => nanOut t s
  | .inf _, .inf _ => nanOut t true
  | .inf n, .fin n' _ _ => (finf t (n != n'), 0)
  | .fin n _ _, .inf n' => (fsign t (n != n'), 0)
  | .fin n1 m1 e1, .fin n2 m2 e2 =>
    if m2 = 0 then (if m1 = 0 then nanOut t true else (finf t (n1 != n2), fDZ))
    else if m1 = 0 then (fsign t (n1 != n2), 0)
    else
      let (q, e, st) := quot m1 e1 m2 e2
      roundFp t mode false (n1 != n2) q e st r (some 17)

/-- Newton's iteration for the integer square root, from an estimate that is not below it. -/
def isqrtFrom (n : Nat) : Nat → Nat → Nat
  | 0, x => x
  | fuel + 1, x =>
    let y := (x + n / x) / 2
    if y < x then isqrtFrom n fuel y else x

/-- The integer part of √n. -/
def isqrt (n : Nat) : Nat := if n = 0 then 0 else isqrtFrom n (n.log2 + 2) (2 ^ (n.log2 / 2 + 1))

/-- √a rounded once (R74, R177). -/
def fpSqrt (t : FpFmt) (mode : BitVec 3) (r : BitVec 32) (a : Nat) : Nat × BitVec 6 :=
  match fdec t a with
  | .nan s => nanOut t s
  | .inf n => if n then nanOut t true else (finf t false, 0)
  | .fin n m e =>
    if m = 0 then (fsign t n, 0)
    else if n then nanOut t true
    else
      let s : Nat := 170 + (e % 2).toNat
      let q := isqrt (m * 2 ^ s)
      roundFp t mode false false q ((e - (s : Int)) / 2) (decide (q * q ≠ m * 2 ^ s)) r (some 17)

/-- 1/√a rounded once (R76). -/
def fpRsqrt (t : FpFmt) (mode : BitVec 3) (r : BitVec 32) (a : Nat) : Nat × BitVec 6 :=
  match fdec t a with
  | .nan s => nanOut t s
  | .inf n => if n then nanOut t true else (fsign t false, 0)
  | .fin n m e =>
    if m = 0 then (finf t n, fDZ)
    else if n then nanOut t true
    else
      -- 1/√(m 2^e) = √(2^s / m) × 2^((−e − s) / 2), with −e − s even
      let s : Nat := 2 * m.log2 + 200 + (e % 2).toNat
      let q := isqrt (2 ^ s / m)
      roundFp t mode false false q ((-e - (s : Int)) / 2) (decide (q * q * m ≠ 2 ^ s)) r (some 17)

/-- 1/a rounded once (R76). -/
def fpRcp (t : FpFmt) (mode : BitVec 3) (r : BitVec 32) (a : Nat) : Nat × BitVec 6 :=
  match fdec t a with
  | .nan s => nanOut t s
  | .inf n => (fsign t n, 0)
  | .fin n m e =>
    if m = 0 then (finf t n, fDZ)
    else
      let (q, e', st) := quot 1 0 m e
      roundFp t mode false n q e' st r (some 17)

/-- Working precision of exp2 (notes/assumptions/9). -/
def expBits : Nat := 160

/-- 2^(f / 2^k) for the low k bits of f, in expBits fraction bits, each factor the square root of the one before:
`root` is 2^(2^−i) at bit k − 1 of f. -/
def exp2Frac (f : Nat) : Nat → Nat → Nat → Nat
  | 0, _, acc => acc
  | k + 1, root, acc =>
    let acc' := if f / 2 ^ k % 2 = 1 then acc * root / 2 ^ expBits else acc
    exp2Frac f k (isqrt (root * 2 ^ expBits)) acc'

/-- 2^a rounded once (R76, R177); an irrational power is read from its first 144 bits (notes/assumptions/9). -/
def fpExp2 (t : FpFmt) (mode : BitVec 3) (r : BitVec 32) (a : Nat) : Nat × BitVec 6 :=
  match fdec t a with
  | .nan s => nanOut t s
  | .inf n => if n then (fsign t false, 0) else (finf t false, 0)
  | .fin n m e =>
    if m = 0 then roundFp t mode false false 1 0 false r (some 17)
    else if e + (m.log2 : Int) > 12 then
      roundFp t mode false false 1 (if n then -5000 else 5000) false r (some 17)
    else
      let v : Int := if n then -(m : Int) else (m : Int)
      if e ≥ 0 then roundFp t mode false false 1 (v * (pow2 e : Int)) false r (some 17)
      else
        let den : Int := (pow2 (-e) : Int)
        let whole := v / den
        let frac := (v % den).toNat
        if frac = 0 then roundFp t mode false false 1 whole false r (some 17)
        else
          let fx := frac * 2 ^ expBits / den.toNat
          let p := exp2Frac fx expBits (isqrt (2 * 2 ^ (2 * expBits))) (2 ^ expBits)
          roundFp t mode false false (p / 2 ^ 16) (whole - (expBits : Int) + 16) true r (some 17)

/-- Working precision of log2, and the bits it yields (notes/assumptions/9). -/
def logBits : Nat := 400
def logOut : Nat := 150

/-- The first bits of log2 y for y in [1, 2), with logBits fraction bits: squaring doubles the logarithm. -/
def log2Frac : Nat → Nat → Nat → Nat
  | 0, _, acc => acc
  | k + 1, y, acc =>
    let y2 := y * y / 2 ^ logBits
    if y2 ≥ 2 ^ (logBits + 1) then log2Frac k (y2 / 2) (2 * acc + 1) else log2Frac k y2 (2 * acc)

/-- log2 a rounded once (R76, R177). -/
def fpLog2 (t : FpFmt) (mode : BitVec 3) (r : BitVec 32) (a : Nat) : Nat × BitVec 6 :=
  match fdec t a with
  | .nan s => nanOut t s
  | .inf n => if n then nanOut t true else (finf t false, 0)
  | .fin n m e =>
    if m = 0 then (finf t true, fDZ)
    else if n then nanOut t true
    else
      let top := e + (m.log2 : Int)
      if m = 2 ^ m.log2 then roundFp t mode false (decide (top < 0)) top.natAbs 0 false r (some 17)
      else
        let frac := log2Frac logOut (m * 2 ^ (logBits - m.log2)) 0
        if top ≥ 0 then roundFp t mode false false (top.toNat * 2 ^ logOut + frac) (-(logOut : Int)) true r (some 17)
        else roundFp t mode false true (top.natAbs * 2 ^ logOut - frac - 1) (-(logOut : Int)) true r (some 17)

/-- The order of two numbers: a ≤ b − 1, as −1, 0 or 1; none when either is a NaN. -/
def fpCmp (t : FpFmt) (a b : Nat) : Option Int :=
  match fdec t a, fdec t b with
  | .nan _, _ => none
  | _, .nan _ => none
  | x, y =>
    let s (v : FVal) : Int × Int := match v with  -- weight class, exact numerator at the smallest weight
      | .inf n => (if n then -1 else 1, 0)
      | .fin n m e => (0, (if n then -1 else 1) * ((m * pow2 (e - (1 - t.bias - (t.f : Int))) : Nat) : Int))
      | .nan _ => (0, 0)
    let p := s x
    let q := s y
    if p.1 < q.1 ∨ (p.1 = q.1 ∧ p.2 < q.2) then some (-1)
    else if p.1 = q.1 ∧ p.2 = q.2 then some 0
    else some 1

/-- The conditions feq, fne, flt, fle and fun with NV as R170 gives it. -/
def fpCond (t : FpFmt) (cc : BitVec 4) (a b : Nat) : Bool × BitVec 6 :=
  let x := fdec t a
  let y := fdec t b
  let snan := x.signals || y.signals
  let anyNaN := x.isNaN || y.isNaN
  match cc.toNat with
  | 8 => (fpCmp t a b == some 0, if snan then fNV else 0)
  | 9 => (fpCmp t a b != some 0, if snan then fNV else 0)
  | 10 => (fpCmp t a b == some (-1), if anyNaN then fNV else 0)
  | 11 => (fpCmp t a b == some (-1) || fpCmp t a b == some 0, if anyNaN then fNV else 0)
  | 12 => (anyNaN, if snan then fNV else 0)
  | _ => (false, 0)

/-- FMIN and FMAX (R178): the chosen operand's bits, with −0 below +0. -/
def fpMinMax (t : FpFmt) (isMax : Bool) (a b : Nat) : Nat × BitVec 6 :=
  let x := fdec t a
  let y := fdec t b
  let fl : BitVec 6 := if x.signals || y.signals then fNV else 0
  if x.isNaN && y.isNaN then (canonNaN t, fl)
  else if x.isNaN then (b, fl)
  else if y.isNaN then (a, fl)
  else
    let aLess := match fpCmp t a b with
      | some 0 => decide (a / 2 ^ (t.x + t.f) % 2 = 1)
      | some c => decide (c < 0)
      | none => false
    (if aLess != isMax then a else b, fl)

/-- The class mask of FCLASS (R180). -/
def fpClass (t : FpFmt) (a : Nat) : Nat :=
  match fdec t a with
  | .nan s => if s then 256 else 512
  | .inf n => if n then 1 else 128
  | .fin n m _ =>
    if m = 0 then (if n then 8 else 16)
    else if m < 2 ^ t.f then (if n then 4 else 32)
    else (if n then 2 else 64)

/-- A conversion between floating-point formats (R68, R77). -/
def fpToFp (src dst : FpFmt) (mode : BitVec 3) (sat : Bool) (r : BitVec 32) (a : Nat) : Nat × BitVec 6 :=
  match fdec src a with
  | .nan s => nanOut dst s
  | .inf n =>
    if sat && decide (dst.width = 8) then (fmax dst n, 0)
    else if dst.inf then (finf dst n, 0)
    else (overflowTo dst mode false n, 0)
  | .fin n m e => roundFp dst mode (sat && decide (dst.width = 8)) n m e false r none

/-- A value clamped to a two's complement range of w bits: the value, and whether it was clamped. -/
def clampInt (w : Nat) (v : Int) : Int × Bool :=
  if v < -(2 ^ (w - 1) : Int) then (-(2 ^ (w - 1) : Int), true)
  else if v > (2 ^ (w - 1) : Int) - 1 then ((2 ^ (w - 1) : Int) - 1, true)
  else (v, false)

/-- Rounds an exact signed magnitude to an integer of w bits (R78). -/
def roundToInt (w : Nat) (mode : BitVec 3) (neg : Bool) (m : Nat) (e : Int) (sticky : Bool) (r : BitVec 32)
    (d : Option Nat) : Int × BitVec 6 :=
  if m ≠ 0 ∧ e + (m.log2 : Int) > 80 then (if neg then -(2 ^ (w - 1) : Int) else (2 ^ (w - 1) : Int) - 1, fNV)
  else
    let (k, inexact) := roundMag mode neg m e sticky 0 r (d.getD (-e).toNat)
    let v : Int := if neg then -(k : Int) else (k : Int)
    let (c, out) := clampInt w v
    (c, if out then fNV else if inexact then fNX else 0)

/-- Floating point to an integer of w bits (R78). -/
def fpToInt (src : FpFmt) (w : Nat) (mode : BitVec 3) (r : BitVec 32) (a : Nat) : Int × BitVec 6 :=
  match fdec src a with
  | .nan _ => (0, fNV)
  | .inf n => (if n then -(2 ^ (w - 1) : Int) else (2 ^ (w - 1) : Int) - 1, fNV)
  | .fin n m e => roundToInt w mode n m e false r none

/-- An integer to floating point (R78). -/
def intToFp (dst : FpFmt) (mode : BitVec 3) (sat : Bool) (r : BitVec 32) (v : Int) : Nat × BitVec 6 :=
  roundFp dst mode sat (decide (v < 0)) v.natAbs 0 false r none

/-- A bit pattern of w bits read as two's complement. -/
def signedOf (w : Nat) (x : Nat) : Int := if x % 2 ^ w < 2 ^ (w - 1) then ((x % 2 ^ w : Nat) : Int) else ((x % 2 ^ w : Nat) : Int) - (2 ^ w : Int)
/-- The w-bit pattern of an integer. -/
def patternOf (w : Nat) (v : Int) : Nat := (v % (2 ^ w : Int)).toNat

/-! TS8 and BS24 (R63, R64, R79). -/

/-- The value of a TS8 encoding, in units of 2^−6. -/
def ts8Val (x : Nat) : Int :=
  let term (s e : Nat) : Int := if e = 7 then 0 else (if s = 1 then -1 else 1) * ((2 ^ (6 - e) : Nat) : Int)
  term (x / 128 % 2) (x / 16 % 8) + term (x / 8 % 2) (x % 8)

/-- The canonical encoding of a TS8 magnitude in units of 2^−6; none when no TS8 value has it. -/
def ts8Enc (neg : Bool) (v : Nat) : Option Nat :=
  let s := if neg then 1 else 0
  if v = 0 then some 0x77
  else if v = 128 then some (if neg then 0x88 else 0x00)
  else if v > 128 then none
  else
    let a := v.log2
    if v = 2 ^ a then some (s * 128 + (6 - a) * 16 + s * 8 + 7)
    else
      let low := v - 2 ^ a
      if low = 2 ^ low.log2 then some (s * 128 + (6 - a) * 16 + s * 8 + (6 - low.log2))
      else
        let up := 2 ^ (a + 1) - v
        if a + 1 ≤ 6 ∧ up = 2 ^ up.log2 then some (s * 128 + (6 - (a + 1)) * 16 + (1 - s) * 8 + (6 - up.log2))
        else none

/-- The TS8 magnitudes, ascending. -/
def ts8Mags : List Nat := (List.range 129).filter (fun v => (ts8Enc false v).isSome)

/-- The TS8 value nearest to the exact magnitude num/den, ties to the smaller magnitude (R79): encoding and flags. -/
def toTs8 (neg : Bool) (num den : Nat) : Nat × BitVec 6 :=
  let dist (v : Nat) : Nat := ((num * 64 : Int) - (v * den : Int)).natAbs
  let best := ts8Mags.foldl (fun b v => if dist v < dist b then v else b) 0
  ((ts8Enc neg best).getD 0x77, if dist best = 0 then 0 else fNX)

/-- The value of a BS24 scale: none for NaN, else its magnitude (R64). -/
def bs24Val (x : Nat) : Option (Nat × Int) :=
  let se : Nat := x / 2 ^ 16 % 256
  let sf : Nat := x % 2 ^ 16
  if se = 255 then none else if se = 0 then some (0, 0) else some (2 ^ 16 + sf, (se : Int) - 143)

/-- A nonnegative exact magnitude into BS24 in a mode (R79): the scale and the flags. -/
def toBs24 (mode : BitVec 3) (m : Nat) (e : Int) (sticky : Bool) (r : BitVec 32) : Nat × BitVec 6 :=
  if m = 0 then (0, 0)
  else
    let top := e + (m.log2 : Int)
    if top < -126 then
      let (k, _) := roundMag mode false m e sticky (-126) r 16
      (if k = 0 then 0 else 2 ^ 16, fUF ||| fNX)
    else
      let (k0, inexact) := roundMag mode false m e sticky (top - 16) r 16
      let carry := decide (k0 = 2 ^ 17)
      let top' := if carry then top + 1 else top
      let k := if carry then 2 ^ 16 else k0
      if top' > 127 then (254 * 2 ^ 16 + 0xFFFF, fOF ||| fNX)
      else ((top' + 127).toNat * 2 ^ 16 + (k - 2 ^ 16), if inexact then fNX else 0)

/-! Element formats by the codes of R57. -/

/-- The floating-point format of a code, if it is one. -/
def fmtFp (code : Nat) : Option FpFmt :=
  match code with
  | 0 => some e4m3
  | 1 => some e5m2
  | 4 => some bf16
  | 5 => some fp32
  | 7 => some fp64
  | _ => none

/-- Bytes of an element (R57). -/
def fmtSize (code : Nat) : Nat :=
  match code with
  | 0 => 1 | 1 => 1 | 2 => 1 | 3 => 1 | 4 => 2 | 5 => 4 | 6 => 4 | 7 => 8 | _ => 0

/-- An element converted from one format code to another (R77 to R79, R245). TS8 and integer sources are exact values;
an integer target clamps with NV (R78; notes/assumptions/21). -/
def convertElem (src dst : Nat) (mode : BitVec 3) (sat : Bool) (r : BitVec 32) (x : Nat) : Nat × BitVec 6 :=
  if src = dst then (x, 0)
  else
    -- the source as a value
    let v : FVal := match fmtFp src with
      | some t => fdec t x
      | none =>
        if src = 3 then (let n := ts8Val x; .fin (decide (n < 0)) n.natAbs (-6))
        else let n := signedOf (8 * fmtSize src) x; .fin (decide (n < 0)) n.natAbs 0
    match fmtFp dst with
    | some t =>
      match v with
      | .nan s => nanOut t s
      | .inf n =>
        if sat && decide (t.width = 8) then (fmax t n, 0)
        else if t.inf then (finf t n, 0) else (overflowTo t mode false n, 0)
      | .fin n m e => roundFp t mode (sat && decide (t.width = 8)) n m e false r none
    | none =>
      if dst = 3 then
        match v with
        | .nan _ => (0x77, fNV)
        | .inf n => (if n then 0x88 else 0x00, fNX)
        | .fin n m e => if e ≥ 0 then toTs8 n (m * pow2 e) 1 else toTs8 n m (pow2 (-e))
      else
        let w := 8 * fmtSize dst
        let (k, fl) : Int × BitVec 6 := match v with
          | .nan _ => (0, fNV)
          | .inf n => (if n then -(2 ^ (w - 1) : Int) else (2 ^ (w - 1) : Int) - 1, fNV)
          | .fin n m e => roundToInt w mode n m e false r none
        (patternOf w k, fl)

/-! Random numbers (R86, R87). -/

/-- RNG32 of R86. -/
def rng32 (key ctr : Word) : BitVec 32 :=
  let a : BitVec 32 := ctr.extractLsb' 0 32 ^^^ key.extractLsb' 0 32
  let b : BitVec 32 := ctr.extractLsb' 32 32 ^^^ key.extractLsb' 32 32
  let a := a ^^^ (b * 0x9E37_79B9#32)
  let a := a ^^^ (a >>> 16)
  let a := a * 0x7FEB_352D#32
  let a := a ^^^ (a >>> 15)
  let a := a * 0x846C_A68B#32
  a ^^^ (a >>> 16)

/-- Mul(U24(w), x) of R327 and R330: the exact value ((w >> 8) + 0.5) × 2^−24 of R87 times an FP32 number, rounded once in mode 0
(notes/assumptions/85). -/
def u24Mul (w : BitVec 32) (x : Nat) : Nat :=
  match fdec fp32 x with
  | .fin n m e =>
    if m = 0 then fsign fp32 n
    else (roundFp fp32 0 false n ((2 * (w.toNat / 256) + 1) * m) (e - 25) false 0 none).1
  | .inf n => finf fp32 n
  | .nan _ => canonNaN fp32

/-- SigFold of R221: one step for each bit, from bit 63 down. -/
def sigFoldBits (s v : Word) : Nat → Word
  | 0 => s
  | i + 1 =>
    let t := s.getLsbD 63 != v.getLsbD i
    let s' := s <<< 1
    sigFoldBits (if t then s' ^^^ 0x42F0_E1EB_A9EA_3693#64 else s') v i
/-- SigFold(s, v) of R221. -/
def sigFold (s v : Word) : Word := sigFoldBits s v 64

/-! FP32 in mode 0, as the traversal, factorisation, sampling and acceptance arithmetic use it (R255, R274). -/

def f32add (a b : Nat) : Nat × BitVec 6 := fpAdd fp32 0 0 a b
def f32sub (a b : Nat) : Nat × BitVec 6 := fpSub fp32 0 0 a b
def f32mul (a b : Nat) : Nat × BitVec 6 := fpMul fp32 0 0 a b
def f32div (a b : Nat) : Nat × BitVec 6 := fpDiv fp32 0 0 a b
def f32sqrt (a : Nat) : Nat × BitVec 6 := fpSqrt fp32 0 0 a
def f32fma (a b c : Nat) : Nat × BitVec 6 := fpFma fp32 0 0 a b c
def f32neg (a : Nat) : Nat := fpNeg fp32 a
def f32abs (a : Nat) : Nat := fpAbs fp32 a
/-- a < b; false when either is a NaN. -/
def f32lt (a b : Nat) : Bool := fpCmp fp32 a b == some (-1)
/-- a ≤ b; false when either is a NaN. -/
def f32le (a b : Nat) : Bool := fpCmp fp32 a b == some (-1) || fpCmp fp32 a b == some 0
/-- a = b as numbers. -/
def f32eq (a b : Nat) : Bool := fpCmp fp32 a b == some 0
/-- Whether an FP32 encoding is a NaN. -/
def f32nan (a : Nat) : Bool := (fdec fp32 a).isNaN
/-- Whether it is +0 or −0. -/
def f32zero (a : Nat) : Bool := decide (a % 2 ^ 31 = 0)

end Sys2Proof.Machine
end

