-- ==== Sys2Proof/Machine/Memory.lean ====
section
/-! DEFINITION. Machine/Memory.lean: sparse storage, the physical address map (R27, R28), what agents see of memory
(R115, R123 to R125), poison (R29, R30), the page walk (R105, R106) and the translations that TLBs hold (R107). -/

namespace Sys2Proof.Machine

/-! Sparse storage. -/

/-- The value at a key; an unlisted key reads zero. -/
def cellGet {w : Nat} : Cells w → Nat → BitVec w
  | [], _ => 0
  | (b, v) :: rest, a => if a = b then v else if a < b then 0 else cellGet rest a

/-- Stores a value at a key and keeps the form canonical: keys rise, and a zero is not listed. -/
def cellSet {w : Nat} : Cells w → Nat → BitVec w → Cells w
  | [], a, x => if x = 0 then [] else [(a, x)]
  | (b, v) :: rest, a, x =>
    if a < b then (if x = 0 then (b, v) :: rest else (a, x) :: (b, v) :: rest)
    else if a = b then (if x = 0 then rest else (a, x) :: rest)
    else (b, v) :: cellSet rest a x

/-- Stores a list of values at their keys, in order. -/
def cellsSet {w : Nat} (m : Cells w) (l : List (Nat × BitVec w)) : Cells w := l.foldl (fun m p => cellSet m p.1 p.2) m

/-- n values from a key on. -/
def cellsGet {w : Nat} (m : Cells w) (a n : Nat) : List (BitVec w) := (List.range n).map (fun k => cellGet m (a + k))

/-- Forgets every key of an interval. -/
def cellsClear {w : Nat} (m : Cells w) (a n : Nat) : Cells w := m.filter (fun p => !(decide (a ≤ p.1) && decide (p.1 < a + n)))

/-- A key of a table. -/
def tableGet {α : Type} (t : Table α) (k : Nat) : Option α := (t.find? (fun p => p.1 == k)).map Prod.snd

/-- Stores an entry of a table, keys rising. -/
def tableSet {α : Type} : Table α → Nat → α → Table α
  | [], k, x => [(k, x)]
  | (j, y) :: rest, k, x =>
    if k < j then (k, x) :: (j, y) :: rest else if k = j then (k, x) :: rest else (j, y) :: tableSet rest k x

/-- Removes an entry of a table. -/
def tableDel {α : Type} (t : Table α) (k : Nat) : Table α := t.filter (fun p => p.1 != k)

/-- Adds a number to a rising list. -/
def setAdd : List Nat → Nat → List Nat
  | [], a => [a]
  | b :: rest, a => if a < b then a :: b :: rest else if a = b then b :: rest else b :: setAdd rest a

/-- The union of two sets of numbers. -/
def setUnion (l : List Nat) (m : List Nat) : List Nat := m.foldl setAdd l

/-- The set without an interval. -/
def setClear (l : List Nat) (a n : Nat) : List Nat := l.filter (fun x => !(decide (a ≤ x) && decide (x < a + n)))

/-- The first index of an interval that is in a set. -/
def firstIn (l : List Nat) (a n : Nat) : Option Nat := (List.range n).find? (fun k => l.contains (a + k))

/-! Units of the module (R12) and the features in force (R4). -/

def dieOf (k : SlotId) : Die := ⟨k.val / 48, by omega⟩
def coreOf (k : SlotId) : Fin 96 := ⟨k.val / 2, by omega⟩
def clusterOf (k : SlotId) : Fin 16 := ⟨k.val / 12, by omega⟩
/-- The slot number of the core, 0 or 1. -/
def slotBit (k : SlotId) : Bool := decide (k.val % 2 = 1)
/-- The other slot of the core. -/
def otherSlot (k : SlotId) : SlotId := ⟨if k.val % 2 = 0 then k.val + 1 else k.val - 1, by split <;> omega⟩
/-- The slot of a global core; none for a core number above 95. -/
def slotAt (core : Nat) (b : Bool) : Option SlotId :=
  if h : core < 96 then some ⟨2 * core + b.toNat, by have := Bool.toNat_lt b; omega⟩ else none

/-- A negotiated feature (R378): 0 second package, 1 deterministic, 2 stamped launches, 3 speculation, 4 text, 5 traversal,
6 T1, 7 trace replay. -/
def feature (s : State) (n : Nat) : Bool := s.host.features.getLsbD n

/-- Whether a die takes part (R19). -/
def dieLive (s : State) (d : Nat) : Bool := decide (d < 2) || (decide (d < 4) && feature s 0)

/-- The dies that take part. -/
def liveDies (s : State) : List Die := [0, 1, 2, 3].filter (fun d => dieLive s d.val)

/-! The physical address map (R27, R28). -/

def hostBase : Nat := 0x800_0000_0000
/-- LPDDR-6 of a die that takes part. -/
def isLpddr (s : State) (pa : Nat) : Bool := decide (pa < 0x40_0000_0000) && dieLive s (pa / 2 ^ 36)
/-- Host memory. -/
def isHost (pa : Nat) : Bool := decide (hostBase ≤ pa) && decide (pa < 2 ^ 44)
/-- An address outside every reserved range. -/
def paOk (s : State) (pa : Nat) : Bool := isLpddr s pa || isHost pa
/-- The home die of a physical address. -/
def homeOf (pa : Nat) : Die := if pa < 0x40_0000_0000 then ⟨pa / 2 ^ 36 % 4, Nat.mod_lt _ (by decide)⟩ else 0

/-- Whether traffic passes between two dies: every link of the chain between them is up (R17, R377). -/
def reaches (s : State) (d e : Die) : Bool :=
  (List.range 3).all (fun i => decide (i < min d.val e.val) || decide (max d.val e.val ≤ i) || s.host.linkUp.getLsbD i)

/-! Memory. Coherence order is the order in which writes are made; a reader may still see an older value (R123, R124;
notes/assumptions/6). -/

/-- n bytes from an address on, as the last write to each left it. -/
def readBytes (s : State) (pa n : Nat) : Bytes := cellsGet s.mem pa n

/-- An unsigned little-endian value of n bytes (R8). -/
def readNat (s : State) (pa n : Nat) : Nat := bytesVal (readBytes s pa n)

/-- A 64-bit word. -/
def readWord (s : State) (pa : Nat) : Word := BitVec.ofNat 64 (readNat s pa 8)

/-- The low n bytes of a number, in memory order. -/
def natBytes (n v : Nat) : Bytes := (List.range n).map (fun k => BitVec.ofNat 8 (v / 2 ^ (8 * k)))

/-- Bytes with consecutive addresses. -/
def cellsAt (pa : Nat) (bs : Bytes) : List (Nat × Byte) := (bs.zipIdx).map (fun p => (pa + p.2, p.1))

/-- Whether a write covers an address. -/
def Write.covers (w : Write) (a : Nat) : Bool := w.old.any (fun p => p.1 == a)

/-- The byte at an address as the writes numbered below t left it. -/
def byteAt (s : State) (t a : Nat) : Byte :=
  match s.log.find? (fun w => decide (t ≤ w.id) && w.covers a) with
  | some w => ((w.old.find? (fun p => p.1 == a)).map Prod.snd).getD 0
  | none => cellGet s.mem a

/-- n bytes as the writes numbered below t left them: one point of every byte's coherence order (R115). -/
def bytesAt (s : State) (t a n : Nat) : Bytes := (List.range n).map (fun k => byteAt s t (a + k))

/-- The last write below t to an address, while it is logged. -/
def writeBelow (s : State) (t a : Nat) : Option Write := (s.log.filter (fun w => decide (w.id < t) && w.covers a)).getLast?

/-! Views. -/

def View.at (v : View) (a : Nat) : Nat := (tableGet v a).getD 0
def View.raise (v : View) (a n : Nat) : View := if v.at a < n then tableSet v a n else v
def View.raiseAll (v : View) (as : List Nat) (n : Nat) : View := as.foldl (fun v a => v.raise a n) v
def View.join (v w : View) : View := w.foldl (fun v p => v.raise p.1 p.2) v
def Known.join (k l : Known) : Known := ⟨k.view.join l.view, setUnion k.accs l.accs⟩
/-- What an agent has learned. -/
def Order.learn (o : Order) (k : Known) : Order := { o with cur := o.cur.join k }
/-- The knowledge of memory alone: ordered accesses exempt none from the checks of deterministic mode (R129). -/
def Known.memory (k : Known) : Known := { k with accs := [] }

/-- The number below which every agent of a die sees the writes to an address. -/
def dieCut (s : State) (d : Die) (a : Nat) : Nat :=
  s.log.foldl (fun n w => if w.dies.contains d && w.covers a then max n (w.id + 1) else n) 0

/-- The least number that a read may take: no write that the agent knows, or that its die has applied, is missed (R123,
R125). -/
def floorOf (s : State) (d : Die) (v : View) (as : List Nat) : Nat :=
  as.foldl (fun n a => max n (max (v.at a) (dieCut s d a))) 0

/-- The number that a read takes: any from the floor on that no rule forbids. -/
def pickCut (s : State) (lo : Nat) (as : List Nat) : State × Nat :=
  if s.log.any (fun w => decide (lo ≤ w.id) && as.any w.covers) then
    ({ s with fresh := s.fresh + 1 }, lo + Config.freeNat s.fresh % (s.writes + 1 - lo))
  else (s, s.writes)

/-! Writes. -/

/-- For each die, the number below which its writes are known to a view (R125). -/
def clockOf (s : State) (v : View) : Vector Nat 4 :=
  Vector.ofFn (fun d : Fin 4 => s.log.foldl (fun n w =>
    if dieOf w.by_.slot = d ∧ w.old.any (fun p => decide (w.id < v.at p.1)) then max n (w.id + 1) else n) 0)

/-- Memory takes bytes, which are no longer poisoned (R183). -/
def storeCells (s : State) (cs : List (Nat × Byte)) : State :=
  { s with mem := cellsSet s.mem cs, poison := s.poison.filter (fun a => !cs.any (fun p => p.1 == a)) }

/-- A write by an agent (R115, R125): memory takes it, and it is logged with what it has overwritten. -/
def logWrite (s : State) (y : Issuer) (v : View) (rels : List Release) (own : Option Nat) (cs : List (Nat × Byte)) : State :=
  if cs.isEmpty then s
  else { storeCells s cs with
    log := s.log ++ [⟨s.writes, y, cs.map (fun p => (p.1, cellGet s.mem p.1)), clockOf s v, rels, own, []⟩]
    writes := s.writes + 1 }

/-- Drops addresses from the log: every agent sees their last writes. -/
def settle (l : List Write) (as : List Nat) : List Write :=
  (l.map (fun w => { w with old := w.old.filter (fun p => !as.contains p.1) })).filter (fun w => !w.old.isEmpty)

/-- A write of the device or the host that every agent sees at once (notes/assumptions/6). -/
def writeAll (s : State) (cs : List (Nat × Byte)) : State :=
  { storeCells s cs with log := settle s.log (cs.map Prod.fst) }

/-- Marks bytes poisoned. -/
def poisonAt (s : State) (pa n : Nat) : State :=
  { s with poison := setUnion s.poison ((List.range n).map (pa + ·)), log := settle s.log ((List.range n).map (pa + ·)) }

/-- The first poisoned byte of an access: its index. -/
def poisonedIn (s : State) (pa n : Nat) : Option Nat := firstIn s.poison pa n

/-- The first bad byte of a read that is answered as it is made: of host memory, the completion may fail (R391;
notes/assumptions/65). -/
def readBad (s : State) (pa n : Nat) : State × Option Nat :=
  if isHost pa then ({ s with fresh := s.fresh + 1 }, if Config.freeBool s.fresh then some 0 else poisonedIn s pa n)
  else (s, poisonedIn s pa n)

/-- Whether a die may apply a write: every write that happens before it is applied there (R125). -/
def mayApply (s : State) (d : Die) (w : Write) : Bool :=
  s.log.all (fun x => x.id == w.id || x.dies.contains d || decide (w.clock[dieOf x.by_.slot] ≤ x.id))

/-- A die applies a write; one that every die has applied leaves the log. -/
def applyWrite (s : State) (d : Die) (id : Nat) : State :=
  let l := s.log.map (fun w => if w.id = id then { w with dies := w.dies ++ [d] } else w)
  { s with log := l.filter (fun w => !(liveDies s).all w.dies.contains) }

/-! Page tables (R105, R106). -/

/-- The kinds of access that a walk checks. -/
inductive Access where
  | read | write | atomic | fetch
deriving DecidableEq, Repr

/-- A translation: the physical address, the leaf entry and where it lies. -/
structure Leaf where
  pa    : Nat
  entry : Word
  at_   : Nat
deriving DecidableEq, Repr

/-- A device page (R104). -/
def Leaf.device (l : Leaf) : Bool := decide (l.entry.extractLsb' 7 2 = 2)

/-- Permissions of R106, and the reserved CACHE code (R104). -/
def permitted (e : Word) (acc : Access) : Bool :=
  (match acc with
    | .read => e.getLsbD 2
    | .write => e.getLsbD 3
    | .atomic => e.getLsbD 2 && e.getLsbD 3
    | .fetch => e.getLsbD 4) && !(e.getLsbD 7 && e.getLsbD 8)

/-- Where a next-level table lies. -/
def tableOf (e : Word) : Nat := (e.extractLsb' 16 28).toNat * 2 ^ 16

/-- A fault by its code and TRAPVAL. -/
abbrev FCode := BitVec 8 × Word

/-- An entry of a table; a table address outside LPDDR-6 of the dies that take part raises 0x07 (R105), and a poisoned
entry 0x13 (R30). -/
def readEntry (s : State) (va : Word) (a : Nat) : Except FCode Word :=
  if !isLpddr s a then .error (0x07, va)
  else if (poisonedIn s a 8).isSome then .error (0x13, va)
  else .ok (readWord s a)

/-- One walk's outcome: the leaf, and the entries read on the way by level. -/
structure Walk where
  leaf : Leaf
  big  : Bool
  e1   : Option (Word × Nat)
  e2   : Option (Word × Nat)
deriving DecidableEq, Repr

/-- The walk of R106 from the L2 entry on. -/
def walkFrom2 (s : State) (va : Word) (e1 : Option (Word × Nat)) (e : Word) (a : Nat) (cached : Bool) :
    Except FCode Walk :=
  if !e.getLsbD 0 then .error (0x06, va)
  else if e.getLsbD 1 then
    if e.extractLsb' 16 13 ≠ 0 then .error (0x06, va)
    else .ok ⟨⟨(e.extractLsb' 29 15).toNat * 2 ^ 29 + va.toNat % 2 ^ 29, e, a⟩, true, e1, none⟩
  else
    let a3 := tableOf e + va.toNat / 2 ^ 16 % 2 ^ 13 * 8
    match readEntry s va a3 with
    | .error f => .error f
    | .ok e3 =>
      if !e3.getLsbD 0 || !e3.getLsbD 1 then .error (0x06, va)
      else .ok ⟨⟨tableOf e3 + va.toNat % 2 ^ 16, e3, a3⟩, false, e1, if cached then none else some (e, a)⟩

/-- The walk of R106 from the L1 entry on. -/
def walkFrom1 (s : State) (va : Word) (e : Word) (a : Nat) (cached : Bool) : Except FCode Walk :=
  if !e.getLsbD 0 || e.getLsbD 1 then .error (0x06, va)
  else
    let a2 := tableOf e + va.toNat / 2 ^ 29 % 2 ^ 13 * 8
    match readEntry s va a2 with
    | .error f => .error f
    | .ok e2 => walkFrom2 s va (if cached then none else some (e, a)) e2 a2 false

/-- The walk of R106 from a context's L1 table. -/
def walk (s : State) (l1 : Nat) (va : Word) : Except FCode Walk :=
  let a1 := l1 + va.toNat / 2 ^ 42 % 64 * 8
  match readEntry s va a1 with
  | .error f => .error f
  | .ok e1 => walkFrom1 s va e1 a1 false

/-- Whether a virtual address lies in a device page (R104). -/
def devicePage (s : State) (l1 : Nat) (va : Word) : Bool := match walk s l1 va with | .ok w => w.leaf.device | .error _ => false

/-- The tag of a cached entry of a level. -/
def tagOf (va : Word) (level : Nat) : Nat :=
  if level = 1 then va.toNat / 2 ^ 42 % 64 else if level = 2 then va.toNat / 2 ^ 29 % 2 ^ 19 else va.toNat / 2 ^ 16 % 2 ^ 32

/-- Whether a cached entry is a leaf: only a leaf's G counts (R106). -/
def TlbEntry.leaf (t : TlbEntry) : Bool := decide (t.level = 3) || t.entry.getLsbD 1
/-- Whether a cached entry is global. -/
def TlbEntry.global (t : TlbEntry) : Bool := t.leaf && t.entry.getLsbD 9

/-- Whether a cached entry serves an address of a context. -/
def TlbEntry.serves (t : TlbEntry) (c : Ctx) (va : Word) : Bool :=
  decide (t.vpage = tagOf va t.level) && (decide (t.asid = c) || t.global)

/-- Entries of the control core's TLB and of a stream TLB (R23, R107). -/
def tlbSize (e : EngId) : Nat := if e = 0 then 64 else 32

/-- New entries before the old ones that they do not replace. -/
def refill (new old : List TlbEntry) : List TlbEntry :=
  new ++ old.filter (fun t => !new.any (fun n => n.level = t.level ∧ n.vpage = t.vpage ∧ n.asid = t.asid))

/-- Caches what a walk read: the leaf in the agent's TLB, the other entries in the control core's walk cache. -/
def tlbFill (s : State) (core : Fin 96) (e : EngId) (c : Ctx) (va : Word) (w : Walk) : State :=
  let leaf : TlbEntry := ⟨c, if w.big then 2 else 3, tagOf va (if w.big then 2 else 3), w.leaf.entry, w.leaf.at_⟩
  let inner : List TlbEntry := if e = 0 then
      (match w.e1 with | some (x, a) => [⟨c, 1, tagOf va 1, x, a⟩] | none => []) ++
      (match w.e2 with | some (x, a) => [⟨c, 2, tagOf va 2, x, a⟩] | none => [])
    else []
  let k := s.cores[core]
  let k1 : Core := { k with
    tlbs := k.tlbs.set e.val ((refill [leaf] k.tlbs[e]).take (tlbSize e)) e.isLt
    walks := if inner = [] then k.walks else refill inner k.walks }
  { s with cores := s.cores.set core.val k1 core.isLt }

/-- Sets A, and D for a write, at the entry's home (R106); done for every die at once. -/
def setAccessed (s : State) (w : Leaf) (acc : Access) : State :=
  let e := w.entry ||| (if acc = .write ∨ acc = .atomic then 0xC00 else 0x400)
  let now := BitVec.ofNat 64 (bytesVal (cellsGet s.mem w.at_ 8))
  if now ||| e = now then s
  else
    let v := now ||| (e &&& 0xC00)
    { s with mem := cellsSet s.mem (cellsAt w.at_ (toBytes 8 v)) }

/-- The cached entries that an agent may use for an address: its TLB's, and the walk cache's for the control core (R107). -/
def cachedFor (s : State) (core : Fin 96) (e : EngId) (c : Ctx) (va : Word) : List TlbEntry :=
  let k := s.cores[core]
  (k.tlbs[e] ++ if e = 0 then k.walks else []).filter (fun t => t.serves c va)

/-- The walk through what the agent has cached: a matching entry may be used, or not (R107). -/
def walkCached (s : State) (core : Fin 96) (e : EngId) (c : Ctx) (l1 : Nat) (va : Word) : Except FCode Walk × Bool :=
  match ((cachedFor s core e c va).zipIdx.find? (fun t => Config.freeBool (s.fresh + t.2))).map Prod.fst with
  | none => (walk s l1 va, false)
  | some t =>
    if t.level = 1 then (walkFrom1 s va t.entry t.at_ true, true)
    else if t.level = 2 then (walkFrom2 s va none t.entry t.at_ true, true)
    else (.ok ⟨⟨tableOf t.entry + va.toNat % 2 ^ 16, t.entry, t.at_⟩, false, none, none⟩, true)

/-- Translate(va, access) of R106 for an agent of a context: the state with A and D set and the translation cached. A
poisoned or reserved outcome raises the fault of the rule named at each test. -/
def translateAs (s : State) (core : Fin 96) (e : EngId) (c : Ctx) (l1 : Nat) (va : Word) (acc : Access) :
    Except FCode (State × Leaf) :=
  if va.extractLsb' 48 16 ≠ 0 then .error (0x07, va)
  else
    let (r, hit) := walkCached s core e c l1 va
    -- an entry that has become invalid at its home is walked again (R106); a walk reads the entry as its home holds it
    let r := match r with
      | .ok w => if hit && !(cellGet s.mem w.leaf.at_).getLsbD 0 then walk s l1 va else r
      | .error _ => r
    match r with
    | .error f => .error f
    | .ok w =>
      if !permitted w.leaf.entry acc then .error (0x07, va)
      else if !paOk s w.leaf.pa then .error (0x07, va)
      else
        let s1 := tlbFill s core e c va w
        -- each matching entry was a choice
        let drew := (cachedFor s core e c va).length
        let s2 := if drew ≠ 0 then { s1 with fresh := s1.fresh + drew } else s1
        .ok (setAccessed s2 w.leaf acc, w.leaf)

/-- The translation of a byte without any effect (R208, R213, R288): no fault, no accessed bit. -/
def peek (s : State) (l1 : Nat) (va : Word) (acc : Access) : Option Nat :=
  if va.extractLsb' 48 16 ≠ 0 then none
  else match walk s l1 va with
    | .error _ => none
    | .ok w => if permitted w.leaf.entry acc && paOk s w.leaf.pa then some w.leaf.pa else none

end Sys2Proof.Machine
end

