-- ==== Sys2Proof/Machine/Ops.lean ====
section
/-! DEFINITION. Machine/Ops.lean: the operations that every family shares: slots and their registers, contexts and regions,
the save record (R355), taking an exception (R348 to R354) and the return from one (R352), the end of a job (R283), the
checks of deterministic mode (R130 to R133), and the course of a control word (R137, R138, R141, R158). -/

namespace Sys2Proof.Machine

/-- What exec and step answer with. -/
abbrev Out := Host.Outcome State Fault Refusal

/-! Slots. -/

def getSlot (s : State) (k : SlotId) : Slot := s.slots[k]
def setSlot (s : State) (k : SlotId) (x : Slot) : State := { s with slots := s.slots.set k.val x k.isLt }
def modSlot (s : State) (k : SlotId) (f : Slot → Slot) : State := setSlot s k (f (getSlot s k))
/-- The slot whose word executes. -/
def curSlot (s : State) : Slot := getSlot s s.cur.slot
def modCur (s : State) (f : Slot → Slot) : State := modSlot s s.cur.slot f

/-- An engine stream of a slot by its position, engine code less one. -/
def getEng (s : State) (k : SlotId) (e : Fin 4) : EngStream := (getSlot s k).engs[e]
def setEng (s : State) (k : SlotId) (e : Fin 4) (y : EngStream) : State :=
  modSlot s k (fun x => { x with engs := x.engs.set e.val y e.isLt })
def modEng (s : State) (k : SlotId) (e : Fin 4) (f : EngStream → EngStream) : State := setEng s k e (f (getEng s k e))
/-- The position of an engine code; none for the control stream. -/
def engIndex (e : EngId) : Option (Fin 4) := if h : e.val ≠ 0 then some ⟨e.val - 1, by omega⟩ else none
/-- The engine code of a position. -/
def engCode (e : Fin 4) : EngId := ⟨e.val + 1, by omega⟩

/-- One bit of a vector set. -/
def setBit {w : Nat} (x : BitVec w) (n : Nat) (b : Bool) : BitVec w :=
  if b then x ||| (1#w <<< n) else x &&& ~~~(1#w <<< n)

/-! Scalars and predicates (R137, R138, R158, R160). -/

/-- A scalar as a source; s0 reads zero. -/
def Slot.readS (x : Slot) (r : Reg) : Word := if r = 0 then 0 else x.scalars[r.toNat]'r.isLt
/-- A destination write: it clears the poison and dead bits; s0 discards it. -/
def Slot.writeS (x : Slot) (r : Reg) (v : Word) : Slot :=
  if r = 0 then x
  else { x with scalars := x.scalars.set r.toNat v r.isLt, poison := setBit x.poison r.toNat false,
                dead := setBit x.dead r.toNat false }
/-- A poisoned result: zero with the poison bit (R160). -/
def Slot.writePoison (x : Slot) (r : Reg) : Slot :=
  if r = 0 then x
  else { x with scalars := x.scalars.set r.toNat 0 r.isLt, poison := setBit x.poison r.toNat true,
                dead := setBit x.dead r.toNat false }
def Slot.poisoned (x : Slot) (r : Reg) : Bool := decide (r ≠ 0) && x.poison.getLsbD r.toNat
def Slot.isDead (x : Slot) (r : Reg) : Bool := decide (r ≠ 0) && x.dead.getLsbD r.toNat
/-- Last-use bits (R138). -/
def Slot.markDead (x : Slot) (srcs : List Src) : Slot :=
  srcs.foldl (fun y c => if c.last && decide (c.reg ≠ 0) then { y with dead := setBit y.dead c.reg.toNat true } else y) x
/-- A predicate; p0 reads 1. -/
def Slot.readP (x : Slot) (p : Pred) : Bool := decide (p = 0) || x.preds.getLsbD p.toNat
/-- A predicate write; p0 discards it. -/
def Slot.writeP (x : Slot) (p : Pred) (b : Bool) : Slot :=
  if p = 0 then x else { x with preds := setBit x.preds p.toNat b }
/-- The guard of a word (R137). -/
def Slot.guard (x : Slot) (g : Guard) : Bool := x.readP g.pred != g.neg

/-! Contexts (R37) and region nodes (R31 to R35). -/

/-- The context that a slot's streams act for: its job's, else the resident one. -/
def Slot.ctx (x : Slot) : Ctx := match x.job with | some j => j.ctx | none => x.resident.getD 0
def findCtx (s : State) (c : Ctx) : Option Context := s.contexts.find? (fun y => y.id == c)
def setCtx (s : State) (y : Context) : State :=
  { s with contexts := s.contexts.map (fun z => if z.id = y.id then y else z) }
/-- Whether the streams of a slot are privileged (R114). -/
def ctxPriv (s : State) (c : Ctx) : Bool := match findCtx s c with | some y => y.priv | none => false
/-- The context's L1 table; a context that is not live has none, and every walk faults (R106). -/
def ctxL1 (s : State) (c : Ctx) : Nat := match findCtx s c with | some y => y.l1 | none => 2 ^ 44

def findRegion (s : State) (n : Nat) : Option Region := tableGet s.regions n

/-- The path from a node up to node 0. -/
def pathUp (s : State) : Nat → Nat → List Nat
  | 0, _ => []
  | fuel + 1, n =>
    match findRegion s n with
    | none => []
    | some r => if n = 0 then [n] else n :: pathUp s fuel r.parent
/-- The path of a node: at most eight levels (R33). -/
def regionPath (s : State) (n : Nat) : List Nat := pathUp s 9 n

/-- The effective value of a field (R34): the first along the path that is not the inherit code, else the default. -/
def effective {α : Type} (s : State) (n : Nat) (get : Region → Option α) (dflt : α) : α :=
  ((regionPath s n).findSome? (fun m => (findRegion s m).bind get)).getD dflt

/-- A field against its inherit code. -/
def own {w : Nat} (v : BitVec w) : Option Nat := if v = BitVec.allOnes w then none else some v.toNat
/-- A two-bit flag of FLAGS (R32): none when it inherits. -/
def ownFlag (r : Region) (i : Nat) : Option Bool :=
  let f := r.flags.extractLsb' (2 * i) 2
  if f = 3 then none else some (decide (f = 1))

def effPrio (s : State) (n : Nat) : Nat := effective s n (fun r => own r.prio) 3
/-- FDOM 0, DET 1, TREC 2, TREP 3. -/
def effFlag (s : State) (n i : Nat) : Bool := effective s n (fun r => ownFlag r i) false
def effRole (s : State) (n : Nat) : Nat := effective s n (fun r => own r.role) 0
def effOvr (s : State) (n : Nat) : Nat := effective s n (fun r => own r.ovr) 32
def effSlots (s : State) (n : Nat) (d : Die) : Nat := effective s n (fun r => own (r.slots.extractLsb' (8 * d.val) 8)) 48
def effGran (s : State) (n : Nat) : Nat := effective s n (fun r => own r.gran) 256
def effTcq (s : State) (n : Nat) : Nat := effective s n (fun r => own r.tcq) 128
def effRdyq (s : State) (n : Nat) : Nat := effective s n (fun r => own r.rdyq) 16384
def effPls (s : State) (n : Nat) : Nat := effective s n (fun r => own r.pls) 256
def effTrbase (s : State) (n : Nat) : Nat := effective s n (fun r => own r.trbase) 0
def effTrsize (s : State) (n : Nat) : Nat := effective s n (fun r => own r.trsize) 0

/-- Whether a context's leaf lies in a node's subtree. -/
def inSubtree (s : State) (c : Ctx) (n : Nat) : Bool :=
  match findCtx s c with
  | some y => (regionPath s y.node).contains n
  | none => false

/-! Jobs. -/

/-- The provisional node of a card (R41). -/
def Card.pnode (c : Card) : Option Nat :=
  let n := (c.flags.extractLsb' 3 7).toNat
  if n = 0x7F then none else some n
/-- SPG, CKG, ACG and RFG of a partition word (R89). -/
def pwSpg (w : Word) : Nat := (w.extractLsb' 24 8).toNat
def pwCkg (w : Word) : Nat := (w.extractLsb' 16 8).toNat
def pwAcg (w : Word) : Nat := (w.extractLsb' 8 8).toNat
def pwRfg (w : Word) : Nat := (w.extractLsb' 0 8).toNat
def pwSum (w : Word) : Nat := pwSpg w + pwCkg w + pwAcg w + pwRfg w

/-- The live sequence that a hood word names, if it names the current version (R307, R308). -/
def hoodSeq (s : State) (hw : Word) : Option LiveSeq :=
  s.seqs.find? (fun q => q.hid = (hw.extractLsb' 0 16).toNat ∧ q.ver = hw.extractLsb' 16 16)

/-- The sequence of a provisional job's hood, until the advance point (R308). -/
def jobHood (s : State) (j : Job) : Option LiveSeq :=
  s.seqs.find? (fun q => q.hid = (j.card.init[3].extractLsb' 0 16).toNat ∧ q.era = j.era)

/-- Whether the writes of a slot's job still land: it is not provisional, or its hood has not advanced (R308). -/
def lands (s : State) (k : SlotId) : Bool :=
  match (getSlot s k).job with
  | none => true
  | some j => j.card.pnode.isNone || (jobHood s j).isSome

/-! Words of the trap registers (R349) and of CPSTAT (R207). -/

def b2w (b : Bool) : Word := if b then 1 else 0
/-- A field of a word. -/
def fieldAt {w : Nat} (v : BitVec w) (n : Nat) : Word := v.setWidth 64 <<< n

def statusWord (s : State) (x : Slot) : Word :=
  fieldAt x.dnode 8 ||| b2w x.skip <<< 2 ||| b2w (ctxPriv s x.ctx) <<< 1 ||| b2w x.hnd
def efltWord (e : EngStream) : Word := fieldAt e.efltPc 16 ||| fieldAt e.efltCode 8 ||| b2w e.efltV
def causeWord (f : FaultInfo) : Word :=
  fieldAt f.info 16 ||| b2w f.chan.isSome <<< 12 ||| b2w f.node.isSome <<< 11 ||| BitVec.ofNat 64 (f.eng.val * 256) |||
    f.code.setWidth 64
def cpstatWord (c : Channel) : Word :=
  fieldAt c.nrec 16 ||| BitVec.ofNat 64 (c.head % 256 * 256) ||| b2w c.bound <<< 4 ||| b2w c.stop <<< 3 |||
    b2w c.halt.isSome <<< 2 ||| b2w c.idle <<< 1 ||| b2w (c.bound && !c.stop && c.halt.isNone && !c.idle)

/-! The save record (R355). -/

/-- The words of a launch record. -/
def launchWords (l : Launch) : List Word :=
  let word := match encodeEngine l.op with | some w => w.setWidth 64 | none => 0
  [word ||| BitVec.ofNat 64 (l.vals.length * 2 ^ 16) ||| b2w l.started <<< 20, l.pc, BitVec.ofNat 64 l.prog, l.fmtw.getD 0]
    ++ (l.vals ++ List.replicate 8 0).take 8

/-- The 160 words of an engine block. -/
def engineBlock (e : EngStream) : List Word :=
  let pad (l : List Word) (n : Nat) := (l ++ List.replicate n 0).take n
  [e.pc, BitVec.ofNat 64 (e.stack.length + e.launches.length * 2 ^ 8 + e.loops.length * 2 ^ 12) ||| b2w e.started <<< 4 |||
      b2w e.arrived <<< 5 ||| b2w e.held <<< 6]
    ++ pad e.stack.reverse 8 ++ e.cells.toList
    ++ pad (e.loops.reverse.flatMap (fun l => [l.start, l.stop, l.count])) 6
    ++ [b2w e.arrv ||| b2w e.arrPh <<< 1 ||| b2w e.wpv <<< 2 ||| b2w e.wph <<< 3 ||| fieldAt e.arrIdx 16, e.key, e.ctr, 0]
    ++ pad (e.launches.flatMap launchWords) 96 ++ List.replicate 28 0

/-- WHY of R355 and R356. -/
def StopWhy.code : StopWhy → Word
  | .fault => 0
  | .halt => 1
  | .pause => 2
  | .ending => 0

/-- FPC of a fault (R355, R361). -/
def fpcOf (x : Slot) (f : FaultInfo) : Word :=
  if f.node.isSome then f.info.setWidth 64
  else match f.chan with
    | some c => (x.chans[c]).ring + BitVec.ofNat 64 (64 * (x.chans[c]).head)
    | none => if f.code = 0x10 then f.pc - 8 else f.pc

/-- HDR of a record. -/
def hdrWord (valid : Bool) (w : StopWhy) (nest : Bool) (f : Option FaultInfo) : Word :=
  b2w valid ||| w.code <<< 1 ||| b2w nest <<< 20 |||
    match f with
    | none => 0
    | some f => f.code.setWidth 64 <<< 8 ||| BitVec.ofNat 64 (f.eng.val * 2 ^ 16) ||| b2w f.node.isSome <<< 19 |||
        fieldAt (f.node.getD 0) 21 ||| b2w f.chan.isSome <<< 27 ||| BitVec.ofNat 64 ((f.chan.getD 0).val * 2 ^ 28)

/-- The record of a slot's job: its 1,024 words. -/
def saveWords (s : State) (x : Slot) (j : Job) (valid : Bool) (w : StopWhy) (nest : Bool) (f : Option FaultInfo) : List Word :=
  let z (n : Nat) : List Word := List.replicate n 0
  [hdrWord valid w nest f, BitVec.ofNat 64 j.seq ||| fieldAt j.ctx 48, j.card.addr,
      (match f with | some f => fpcOf x f | none => 0), (match f with | some f => f.val | none => 0),
      x.pc, x.poison, x.dead, (x.preds ||| 1).extractLsb' 0 64, x.preds.extractLsb' 64 64,
      x.trapVec, x.trapCause, x.trapPc, x.trapVal, statusWord s x, x.fflags.setWidth 64, x.frm.setWidth 64, x.tags, x.spoob,
      x.age.setWidth 64, x.sig, BitVec.ofNat 64 x.fmtq.length]
    ++ x.engs.toList.map efltWord ++ [x.key, x.ctr, b2w x.jend] ++ z 3
    ++ 0 :: x.scalars.toList.tail
    ++ x.engs.toList.flatMap engineBlock
    ++ (x.fmtq ++ z 16).take 16
    ++ (List.range 8).map (fun i => BitVec.ofNat 64 (bytesVal ((x.perm.toList.drop (8 * i)).take 8 |>.map (fun v => v.setWidth 8))))
    ++ [fieldAt x.fst 32 ||| x.grow.setWidth 64] ++ z 7
    ++ x.chans.toList.flatMap (fun c => [c.ring, BitVec.ofNat 64 c.size, cpstatWord c, BitVec.ofNat 64 c.done])
    ++ z 248

/-- Where a slot's record lies. -/
def saveAddr (s : State) (k : SlotId) : Nat :=
  match findCtx s (getSlot s k).ctx with | some y => y.save + 8192 * k.val | none => 0

/-- The record's stores, at system scope (notes/assumptions/6). -/
def writeRecord (s : State) (k : SlotId) (valid : Bool) (w : StopWhy) (nest : Bool) (f : Option FaultInfo) : State :=
  match (getSlot s k).job with
  | none => s
  | some j =>
    writeAll s (cellsAt (saveAddr s k) ((saveWords s (getSlot s k) j valid w nest f).flatMap (fun v => toBytes 8 v)))

/-- HDR.V := 0. -/
def clearRecord (s : State) (k : SlotId) : State :=
  let a := saveAddr s k
  writeAll s [(a, cellGet s.mem a &&& 0xFE)]

/-! The end of a job. -/

/-- The plank of a cluster learns that a job has ended (R294). -/
def plankEnd (s : State) (k : SlotId) : State :=
  match (getSlot s k).job with
  | none => s
  | some j => { s with planks := s.planks.map (fun p =>
      if p.jobs.contains (j.ctx, j.seq) then { p with lastEnd := s.dcc.toNat } else p) }

/-- A slot after its job has ended or retired: no stream, no launch, no channel bound (R207), the partition word kept. -/
def Slot.afterJob (x : Slot) : Slot :=
  { x with job := none, stop := none, wait := none, await := none, reply := none, watch := 0, jend := false,
           ages := Vector.replicate 5 0, det := DetRecord.reset, made := [],
           engs := x.engs.map (fun e => { e with started := false, arrived := false, held := false, launches := [],
                                                 faulted := none, pending := none, wait := none }),
           chans := Vector.replicate 2 Channel.reset }

/-- The end of a job without retirement (R283): its launches and channels are discarded, and a written record's V is cleared
(R357). -/
def endJob (s : State) (k : SlotId) : State :=
  let x := getSlot s k
  let s1 := match x.stop with
    | some st => if st.written then clearRecord s k else s
    | none => s
  modSlot (plankEnd s1 k) k Slot.afterJob

/-! Taking an exception. -/

/-- Codes of host class and of fatal class (R347, R358). -/
def hostClass (c : BitVec 8) : Bool := c = 0x06 || c = 0x07
def fatalClass (c : BitVec 8) : Bool := c = 0x12 || c = 0x14 || c = 0x17
/-- Whether a fault is fatal; one recorded against a hood node and raised at KVCOMMIT never is (R358). -/
def FaultInfo.fatal (f : FaultInfo) : Bool := fatalClass f.code && f.node.isNone

/-- The conditions on entering a handler (R350). -/
def Slot.canEnter (x : Slot) : Bool := x.trapVec.getLsbD 0 && !x.hnd && !x.jend

/-- Entry to the handler (R350). For a fault of the control stream f.pc is the value of TRAPPC: the faulting word's PC, or
the next word's after TRAP (R217); for an engine's it is the PC of the next control word. -/
def enterHandler (x : Slot) (f : FaultInfo) : Slot :=
  { x with
    trapCause := causeWord f
    trapVal := f.val
    trapPc := if f.eng = 0 ∨ f.node.isSome then f.pc else x.pc
    hnd := true
    skip := false
    dnode := f.node.getD 0
    wait := none
    pc := BitVec.setWidth 64 (x.trapVec.extractLsb' 3 45) <<< 3 }

/-- An entry of the fault queue (R356), posted by FAULT_QUEUE_POST. -/
def postEntry (s : State) (k : SlotId) (why : Nat) (nest : Bool) (f : Option FaultInfo) : State :=
  match (getSlot s k).job with
  | none => s
  | some j =>
    let w0 := BitVec.ofNat 64 j.seq ||| fieldAt j.ctx 48 ||| BitVec.ofNat 64 (why * 2 ^ 60)
    let w1 := BitVec.ofNat 64 ((coreOf k).val * 2 ^ 8) ||| b2w (slotBit k) <<< 15 ||| b2w nest <<< 20 |||
      match f with
      | none => 0
      | some f => f.code.setWidth 64 ||| BitVec.ofNat 64 (f.eng.val * 2 ^ 16) ||| b2w f.node.isSome <<< 19 ||| b2w f.chan.isSome <<< 21
    { s with fqWait := s.fqWait ++ [(w0, w1)] }

/-- A job begins to stop (R354); a job already stopping for a halt or a pause takes the fault with it. -/
def stopJob (s : State) (k : SlotId) (why : StopWhy) (f : Option FaultInfo) (nest : Bool) : State :=
  modSlot s k (fun x =>
    match x.stop with
    | none => { x with stop := some ⟨why, f, nest, false, none, false⟩ }
    | some st =>
      if st.fault.isNone && f.isSome && !st.written && decide (st.why ≠ .ending) then
        { x with stop := some ⟨why, f, nest, false, none, false⟩ }
      else x)

/-- Whether a launch may start and may move bytes: its job is not stopping, or STEP lets it complete (R354, R363). -/
def Slot.launchRuns (x : Slot) (seq : Nat) : Bool :=
  match x.stop with
  | none => true
  | some st => match st.step with | some n => decide (seq < n) | none => false

/-- Suspension by a fault of the control stream: the job restarts at f.pc (R354, R357). -/
def suspend (s : State) (k : SlotId) (f : FaultInfo) (nest : Bool) : State :=
  stopJob (if f.eng = 0 then modSlot s k (fun x => { x with pc := f.pc, wait := none }) else s) k .fault (some f) nest

/-- A debug halt (R362): every running job of the context begins to stop, and its admission and placement stop. -/
def haltContext (s : State) (c : Ctx) : State :=
  { s with
    contexts := s.contexts.map (fun y => if y.id = c then { y with halted := true } else y)
    slots := s.slots.map (fun x =>
      match x.job with
      | some j => if j.ctx = c ∧ j.started ∧ x.stop.isNone then { x with stop := some ⟨.halt, none, false, false, none, false⟩ } else x
      | none => x) }

/-- A fatal fault (R348, R359, R360): the job stops, whatever it was stopped for, and ends at its stop points
(JOB_STOP_COMPLETE) or with its domain (FAULT_DOMAIN_DRAIN). -/
def fatalFault (s : State) (k : SlotId) (f : FaultInfo) : State :=
  modSlot s k (fun x =>
    match x.stop with
    | some st => if st.why = .ending then x else { x with stop := some ⟨.fault, some f, false, st.written, none, true⟩ }
    | none => { x with stop := some ⟨.fault, some f, false, false, none, true⟩ })

/-- A job that ends without a record stops, and JOB_STOP_COMPLETE ends it at its stop points (R283, R354). -/
def endingJob (s : State) (k : SlotId) : State :=
  modSlot s k (fun x => match x.stop with
    | none => { x with stop := some ⟨.ending, none, false, false, none, false⟩ }
    | some st => { x with stop := some { st with why := .ending, fault := none, fatal := false } })

/-- A fault of a provisional job is recorded against its node, with FPC as its PC, and the job ends as ABORT ends one (R309,
R361, R392). -/
def deferFault (s : State) (k : SlotId) (j : Job) (node : Nat) (f : FaultInfo) : State :=
  let hid := (j.card.init[3].extractLsb' 0 16).toNat
  let f' := { f with info := (fpcOf (getSlot s k) f).setWidth 48 }
  let s1 := match jobHood s j with
    | none => s
    | some _ => { s with seqs := s.seqs.map (fun q =>
        if q.hid = hid ∧ !(q.faults.any (fun p => p.1 = node)) then { q with faults := tableSet q.faults node f' } else q) }
  endingJob s1 k

/-- Taking an exception: what becomes of a fault that a stream of a slot raises (R309, R348, R351, R353, R392). A fault of
an engine or a channel of program class is left pending, for HANDLER_ENTRY. -/
def takeFault (s : State) (k : SlotId) (f : FaultInfo) : State :=
  let s := { s with fresh := s.fresh + 4 }
  let x := getSlot s k
  match x.job.bind (fun j => j.card.pnode.map (fun n => (j, n))) with
  | some (j, n) => if f.code = 0x17 then fatalFault s k f else deferFault s k j n f
  | none =>
    if f.fatal then fatalFault s k f
    else if f.eng = 0 ∨ f.node.isSome then
      if !hostClass f.code && x.canEnter then setSlot s k (enterHandler x f)
      else suspend s k f (!hostClass f.code && x.hnd)
    else if hostClass f.code then suspend s k f false
    else match f.chan with
      | some c => modSlot s k (fun x => { x with chans := x.chans.set c.val { x.chans[c] with pending := some f } c.isLt })
      | none => match engIndex f.eng with
        | some e => modEng s k e (fun y => { y with pending := some f })
        | none => s

/-- A fault of a control word, at its PC (R158). -/
def controlFault (s : State) (f : FCode) : State :=
  takeFault s s.cur.slot ⟨f.1, f.2, 0, (curSlot s).pc, 0, none, none⟩

/-- A fault of an engine word: the stream is held, and EFLT records it when it is of program class (R148, R351). -/
def engineFault (s : State) (k : SlotId) (e : Fin 4) (pc : Word) (launch : Option Nat) (f : FCode) : State :=
  let s1 := modEng s k e (fun y => { y with
    held := true, wait := none, faulted := launch,
    efltPc := if hostClass f.1 then y.efltPc else pc.setWidth 48,
    efltCode := if hostClass f.1 then y.efltCode else f.1,
    efltV := y.efltV || !hostClass f.1 })
  takeFault s1 k ⟨f.1, f.2, engCode e, pc, 0, none, none⟩

/-- A chain fault (R392). -/
def chanFault (s : State) (k : SlotId) (c : Fin 2) (f : FCode) : State :=
  takeFault s k ⟨f.1, f.2, 3, 0, BitVec.ofNat 48 c.val, none, some c⟩

/-! Restarting after a fault. -/

/-- The loop end test of R228 at the next word's address: the loops and the PC. -/
def loopStep : List Loop → Word → List Loop × Word
  | [], pc => ([], pc)
  | l :: rest, pc =>
    if pc = l.stop then
      if l.count.toNat > 1 then ({ l with count := l.count - 1 } :: rest, l.start) else loopStep rest pc
    else (l :: rest, pc)

/-- An engine stream restarts at its faulting word or launch, or goes on after it (R352 step 2, R354). Launches that met a
fault meanwhile start again too. -/
def EngStream.restart (y : EngStream) (skip : Bool) : EngStream :=
  let ls := y.launches.map (fun l => { l with parked := false })
  let y1 := { y with held := false, efltV := false, pending := none, faulted := none, launches := ls }
  match y.faulted with
  | some n =>
    if skip then { y1 with launches := ls.filter (fun l => l.seq ≠ n) }
    else { y1 with launches := ls.map (fun l =>
      if l.seq = n then { l with started := l.started && decide (l.prog ≠ 0) } else l) }
  | none =>
    if skip then
      let p := loopStep y.loops (y.pc + 2)
      { y1 with pc := p.2, loops := p.1, wpv := false }
    else y1

/-- A halted channel goes on (R206): a record halted at its read or its check is read afresh, and CTL, written at the halt or
still due, is made to show no error first. -/
def Channel.resume (c : Channel) : Channel :=
  match c.halt with
  | none => c
  | some h =>
    { c with halt := none, pending := none, abandon := false, fix := c.fix || decide (h = .byte ∨ h = .check),
             rcd := if h = .read ∨ h = .check then none else c.rcd }

/-- The fault that is taken next among those pending: lowest engine code first, a channel's after the copy stream's own, and
channel 0 before channel 1 (R351, R392). -/
def Slot.nextPending (x : Slot) : Option FaultInfo :=
  [x.engs[0].pending, x.engs[1].pending, x.engs[2].pending, x.chans[0].pending, x.chans[1].pending, x.engs[3].pending].findSome? id

/-- The slot with a pending fault taken. -/
def Slot.dropPending (x : Slot) (f : FaultInfo) : Slot :=
  match f.chan with
  | some c => { x with chans := x.chans.set c.val { x.chans[c] with pending := none } c.isLt }
  | none => match engIndex f.eng with
    | some e => { x with engs := x.engs.set e.val { x.engs[e] with pending := none } e.isLt }
    | none => x

/-- What a handled or resumed fault held goes on: the engine stream, or the channel (R352 step 2, R357, R392). -/
def Slot.restartFault (x : Slot) (eng : EngId) (chan : Option (Fin 2)) (skip : Bool) : Slot :=
  match chan with
  | some c =>
    let y := x.chans[c]
    { x with chans := x.chans.set c.val (if skip then { y with abandon := y.halt.isSome, pending := none } else y.resume) c.isLt }
  | none => match engIndex eng with
    | some e => if (x.engs[e]).held then { x with engs := x.engs.set e.val ((x.engs[e]).restart skip) e.isLt } else x
    | none => x

/-- The engine code of TRAPCAUSE, and the channel of a chain fault. -/
def Slot.causeEng (x : Slot) : EngId :=
  if h : (x.trapCause.extractLsb' 8 3).toNat < 5 then ⟨(x.trapCause.extractLsb' 8 3).toNat, h⟩ else 0
def Slot.causeChan (x : Slot) : Option (Fin 2) :=
  if x.trapCause.getLsbD 12 then some (if x.trapCause.getLsbD 16 then 1 else 0) else none

/-- The return from an exception (R352), inside a handler: HND, DNODE and SKIP cleared, PC restored, the faulted stream or
record restarted or skipped, and the handler entered again when another fault is pending. -/
def Slot.eret (x : Slot) : Slot :=
  let y := { x with hnd := false, dnode := 0, skip := false, pc := x.trapPc, wait := none }
  let z := if x.trapCause.getLsbD 11 then y else y.restartFault x.causeEng x.causeChan x.skip
  match z.nextPending with
  | some f => if z.canEnter then enterHandler (z.dropPending f) f else z
  | none => z

/-- A stream learns what happens before its next access. -/
def Slot.knows (x : Slot) (e : EngId) (l : Known) : Slot :=
  { x with order := x.order.set e.val (x.order[e].learn l) e.isLt }

/-! Deterministic mode (R129 to R134). -/

/-- Whether the slot's job runs in deterministic mode. -/
def Slot.deterministic (x : Slot) : Bool := x.detctl

/-- The kinds of access that R130 tells apart. -/
inductive DetKind where
  | read | write | commuting | atomic
deriving DecidableEq, Repr

/-- The entry kinds that cover a byte of virtual memory. -/
def covering (foot : List FootEntry) (a : Nat) : List Nat :=
  (foot.filter (fun f => decide (f.base ≤ a) && decide (a < f.base + f.len))).map FootEntry.kind

/-- R130 and R132 for one byte. -/
def detByte (foot : List FootEntry) (kind : DetKind) (a : Nat) : Option FCode :=
  let ks := covering foot a
  let onlyRw := ks.contains 2 && !ks.contains 0 && !ks.contains 1
  let va := BitVec.ofNat 64 a
  match kind with
  | .read => if ks.contains 0 || ks.contains 1 then none else if onlyRw then some (0x09, va) else some (0x08, va)
  | .write => if ks.contains 1 then none else if onlyRw then some (0x09, va) else some (0x08, va)
  | .commuting => if ks.contains 1 || ks.contains 2 then none else some (0x08, va)
  | .atomic => if ks.contains 2 then some (0x09, va) else if ks.contains 1 then none else some (0x08, va)

/-- The bytes of an interval at which coverage can change: its first byte and the borders of entries inside it. -/
def detPoints (foot : List FootEntry) (lo n : Nat) : List Nat :=
  (foot.flatMap (fun f => [f.base, f.base + f.len])).foldl
    (fun l a => if lo ≤ a ∧ a < lo + n then setAdd l a else l) [lo]

/-- R130 over an interval: the first byte that fails. -/
def detEntry (foot : List FootEntry) (kind : DetKind) (lo n : Nat) : Option FCode :=
  if n = 0 then none else (detPoints foot lo n).findSome? (detByte foot kind)

/-- R133: the first byte of an earlier access of another agent that conflicts and is not known to happen before; in
scratchpad, its offset. -/
def detConflict (d : DetRecord) (agent : Nat) (known : List Nat) (sp : Bool) (lo n : Nat) (write : Bool) : Option FCode :=
  (d.accs.findSome? (fun a =>
    if a.agent ≠ agent ∧ a.sp = sp ∧ (a.write || write) ∧ max a.lo lo < min a.hi (lo + n) ∧ !known.contains a.id then
      some (max a.lo lo) else none)).map (fun b => (0x09, BitVec.ofNat 64 (if sp then b % 2 ^ 26 else b)))

/-- An access that has passed the check is remembered. -/
def DetRecord.add (d : DetRecord) (agent : Nat) (sp : Bool) (lo n : Nat) (write : Bool) : DetRecord :=
  { d with next := d.next + 1, accs := d.accs ++ [⟨d.next, agent, sp, lo, lo + n, write⟩] }

/-- DetCheck of the control stream for memory (R183, R189): nothing outside deterministic mode. -/
def detControl (x : Slot) (sp : Bool) (kind : DetKind) (lo n : Nat) : Except FCode Slot :=
  if !x.deterministic then .ok x
  else
    let foot := match x.job with | some j => j.foot | none => []
    match (if sp then none else detEntry foot kind lo n) with
    | some f => .error f
    | none =>
      let wr := decide (kind ≠ .read)
      match detConflict x.det 0 x.order[0].cur.accs sp lo n wr with
      | some f => .error f
      | none => .ok { (x.knows 0 ⟨[], [x.det.next]⟩) with det := x.det.add 0 sp lo n wr }

/-! The course of a control word. -/

/-- How the body of a control word ends: it completes, it faults (R158: it then writes nothing), or it waits (R182). -/
inductive Res where
  | ok (s : State)
  | fault (f : FCode)
  /-- A fault after a translation, whose accessed and dirty bits stand (R13, R106). -/
  | late (s : State) (f : FCode)
  | raise (f : FaultInfo)
  | wait (f : Slot → Slot)
  /-- The word sends a request and stays until its reply. -/
  | send (f : State → State)

/-- The first dead source, in field order (R141). -/
def firstDead (x : Slot) (srcs : List Src) : Option FCode :=
  (srcs.find? (fun c => x.isDead c.reg)).map (fun c => (0x03, c.reg.setWidth 64))

/-- The first poisoned source, in field order (R160, R181). -/
def firstPoison (x : Slot) (srcs : List Src) : Option FCode :=
  (srcs.find? (fun c => x.poisoned c.reg)).map (fun c => (0x04, c.reg.setWidth 64))

/-- The word that a fault of decoding names (R347). -/
def wordOf (i : Instr) : Word := (encode i).getD 0

/-- The state in which the body of a word runs: last-use bits applied and PC at the next word. -/
def bodyState (s : State) (srcs : List Src) : State := modCur s (fun x => { x.markDead srcs with pc := x.pc + 8, wait := none })

/-- A word that waits stays at its PC, and is found there when it is taken again (R182). -/
def Res.finish (s : State) (i : Instr) : Res → State
  | .ok t => t
  | .fault f => controlFault (modCur s (fun x => { x with reply := none })) f
  | .late t f => controlFault (modCur { t with slots := s.slots } (fun x => { x with reply := none })) f
  | .raise f => takeFault (modCur s (fun x => { x with reply := none })) s.cur.slot f
  | .wait f => modCur s (fun x => { f x with wait := some i })
  | .send f => modCur (f s) (fun x => { x with wait := some i })

/-- A control word: the checks of R141 that need the state (its feature, its privilege), its guard (R137), dead sources
(R138), then its body. -/
def control (i : Instr) (feat priv : Bool) (g : Guard) (srcs : List Src) (body : State → Res) (s : State) : Out :=
  if !feat then .next (controlFault s (0x01, wordOf i))
  else if priv && !ctxPriv s (curSlot s).ctx then .next (controlFault s (0x02, wordOf i))
  else if !(curSlot s).guard g then .next (modCur s (fun x => { x with pc := x.pc + 8, wait := none }))
  else match firstDead (curSlot s) srcs with
    | some f => .next (controlFault s f)
    | none => .next ((body (bodyState s srcs)).finish s i)

/-- A word that consumes poison (R160, R181). -/
def consuming (srcs : List Src) (body : State → Res) (s : State) : Res :=
  match firstPoison (curSlot s) srcs with
  | some f => .fault f
  | none => body s

/-- The usual word: no feature, no privilege, poison consumed. -/
def plain (i : Instr) (g : Guard) (srcs : List Src) (body : State → Res) (s : State) : Out :=
  control i true false g srcs (consuming srcs body) s

/-- The value of a source field in the word that executes. -/
def src (s : State) (a : Src) : Word := (curSlot s).readS a.reg
/-- Write(v) of R159. -/
def put (s : State) (sd : Reg) (v : Word) : State := modCur s (fun x => x.writeS sd v)

end Sys2Proof.Machine
end

