-- ==== Sys2Proof/Machine/Agents.lean ====
section
/-! DEFINITION. Machine/Agents.lean: the agents of the consistency model (R113): who is a member of a scope (R114), reads and
writes of an agent (R115, R116), releases, acquires and fences (R119, R120), and the edges between jobs (R127, R128). -/

namespace Sys2Proof.Machine

/-! Scopes. -/

/-- The agent that a stream of a slot is, and what acts for it (R113). -/
def issuerOf (s : State) (k : SlotId) (e : EngId) : Issuer :=
  ⟨k, e, (getSlot s k).ctx, match (getSlot s k).job with | some j => j.seq | none => 0⟩

/-- Whether an agent y is a member of a scope of x (R114). -/
def includes (s : State) (scope : Nat) (x y : Issuer) : Bool :=
  match scope with
  | 0 => decide (x = y)
  | 1 => decide (x.slot = y.slot ∧ x.ctx = y.ctx ∧ x.job = y.job)
  | 2 => decide (coreOf x.slot = coreOf y.slot ∧ x.ctx = y.ctx)
  | 3 => decide (clusterOf x.slot = clusterOf y.slot ∧ x.ctx = y.ctx)
  | 4 => decide (dieOf x.slot = dieOf y.slot ∧ x.ctx = y.ctx)
  | 5 => decide ((dieOf x.slot).val / 2 = (dieOf y.slot).val / 2 ∧ x.ctx = y.ctx)
  | 6 => decide (x.ctx = y.ctx)
  | 7 => decide (x.ctx = y.ctx)
  | 8 => decide (x.ctx = y.ctx) || (match findCtx s x.ctx with | some c => c.partner == some y.ctx | none => false)
  | 9 => decide (x.ctx = y.ctx) || (match findCtx s x.ctx, findCtx s y.ctx with
      | some c, some d => decide (c.node = d.node)
      | _, _ => false)
  | _ => true

/-- A release and an acquire whose scopes include each other's issuers (R119). -/
def Release.meets (s : State) (r : Release) (y : Issuer) (scope : Nat) : Bool :=
  includes s r.scope r.by_ y && includes s scope y r.by_

/-- An acquire by y at a scope: what each release that it meets has released is known from then on (R119). -/
def Order.acquire (s : State) (o : Order) (y : Issuer) (scope : Nat) (rs : List Release) : Order :=
  rs.foldl (fun o r => if r.meets s y scope then o.learn r.known else o) o

/-! Reads. -/

/-- The addresses of n bytes. -/
def addrs (pa n : Nat) : List Nat := (List.range n).map (pa + ·)

/-- What the edges to a slot's job order for bytes from a virtual address on: those of its read and read-write entries
(R128). -/
def edgeView (x : Slot) (va : Word) (as : List Nat) : View :=
  match x.job with
  | none => []
  | some j =>
    if j.edge = [] then []
    else as.zipIdx.foldl (fun v p =>
      let ks := covering j.foot (va.toNat + p.2)
      if ks.contains 0 || ks.contains 2 then v.raise p.1 (j.edge.at p.1) else v) []

/-- The releases that a read below t of some addresses reads from. -/
def releasesAt (s : State) (t : Nat) (as : List Nat) : List Release := (as.filterMap (writeBelow s t)).flatMap Write.rels

/-- An agent has read addresses below t: it reads no older from then on (R123 rule 4), and synchronises with what it has read
from, at once when the read is an acquire, else at a fence (R119). -/
def Order.noteRead (s : State) (o : Order) (y : Issuer) (t : Nat) (as : List Nat) (acq : Option Nat) : Order :=
  let o1 : Order := { o with cur := { o.cur with view := o.cur.view.raiseAll (as.filter (fun a => (writeBelow s t a).isSome)) t } }
  let rs := releasesAt s t as
  match acq with
  | some scope => o1.acquire s y scope rs
  | none => { o1 with read := o1.read ++ rs.filter (fun r => !o1.read.contains r) }

/-- A read of n bytes at one point of their coherence order, by an agent that acts for a stream on a die (R115): what it knows
then, and the number below which it has read. -/
def agentRead (s : State) (k : SlotId) (d : Die) (e : EngId) (o : Order) (va : Word) (pa n : Nat) (acq : Option Nat) :
    State × Order × Nat :=
  let as := addrs pa n
  let o1 := o.learn ⟨edgeView (getSlot s k) va as, []⟩
  let (s1, t) := pickCut s (floorOf s d o1.cur.view as) as
  (s1, o1.noteRead s1 (issuerOf s k e) t as acq, t)

/-- A read of bytes each at a point of its own. -/
def agentReadEach (s : State) (k : SlotId) (d : Die) (e : EngId) (o : Order) (va : Word) (pa n : Nat) :
    State × Order × Bytes :=
  (List.range n).foldl (fun r i =>
    let q := agentRead r.1 k d e r.2.1 (va + BitVec.ofNat 64 i) (pa + i) 1 none
    (q.1, q.2.1, r.2.2 ++ [byteAt q.1 q.2.2 (pa + i)])) (s, o, [])

/-! Writes. -/

/-- The writes of a job to bytes of its write and read-write entries, kept for its edges (R128). -/
def noteMade (s : State) (k : SlotId) (va : Word) (cs : List (Nat × Byte)) : State :=
  modSlot s k (fun x => match x.job with
    | none => x
    | some j => { x with made := x.made ++ (cs.zipIdx.filter (fun p =>
        let ks := covering j.foot (va.toNat + p.2)
        ks.contains 1 || ks.contains 2)).map (fun p => (p.1.1, s.writes)) })

/-- A write of consecutive bytes by an agent that acts for a stream: it carries the releases of the agent's fences, its own at a
scope, and those of the atomics it follows (R119). -/
def agentStore (s : State) (k : SlotId) (e : EngId) (o : Order) (va : Word) (cs : List (Nat × Byte)) (rel : Option Nat)
    (chain : List Release) : State × Order :=
  let y := issuerOf s k e
  let own : List Release := match rel with | some n => [⟨y, n, o.cur.memory⟩] | none => []
  let s1 := noteMade s k va cs
  (logWrite s1 y o.cur.view (o.fences ++ own ++ chain) rel cs,
    { o with cur := { o.cur with view := o.cur.view.raiseAll (cs.map Prod.fst) (s.writes + 1) } })

/-- A write that carries the hood word of a provisional job: after the advance point it is discarded (R308). -/
def agentWrite (s : State) (k : SlotId) (e : EngId) (o : Order) (va : Word) (cs : List (Nat × Byte)) (rel : Option Nat)
    (chain : List Release) : State × Order :=
  if lands s k then agentStore s k e o va cs rel chain else (s, o)

/-- A write of bytes each at a point of its own. -/
def agentStoreEach (s : State) (k : SlotId) (e : EngId) (o : Order) (va : Word) (cs : List (Nat × Byte)) : State × Order :=
  cs.zipIdx.foldl (fun r p => agentStore r.1 k e r.2 (va + BitVec.ofNat 64 p.2) [p.1] none []) (s, o)

/-- A write to a device page takes effect at once, so that those of one stream do in program order (R104). -/
def settleDevice (s : State) (dev : Bool) (pa n : Nat) : State :=
  if dev then { s with log := settle s.log (addrs pa n) } else s

/-! Streams. -/

/-- What a stream of a slot knows. -/
def streamOrder (s : State) (k : SlotId) (e : EngId) : Order := (getSlot s k).order[e]
def setOrder (s : State) (k : SlotId) (e : EngId) (o : Order) : State :=
  modSlot s k (fun x => { x with order := x.order.set e.val o e.isLt })
def modOrder (s : State) (k : SlotId) (e : EngId) (f : Order → Order) : State := setOrder s k e (f (streamOrder s k e))

/-- A read by a stream: the number below which it reads. -/
def streamRead (s : State) (k : SlotId) (e : EngId) (va : Word) (pa n : Nat) (acq : Option Nat) : State × Nat :=
  let q := agentRead s k (dieOf k) e (streamOrder s k e) va pa n acq
  (setOrder q.1 k e q.2.1, q.2.2)

/-- A write by a stream. -/
def streamWrite (s : State) (k : SlotId) (e : EngId) (va : Word) (cs : List (Nat × Byte)) (rel : Option Nat)
    (chain : List Release) : State :=
  let q := agentWrite s k e (streamOrder s k e) va cs rel chain
  setOrder q.1 k e q.2

/-- A release of a stream at a scope. -/
def releaseOf (s : State) (k : SlotId) (e : EngId) (scope : Nat) : Release :=
  ⟨issuerOf s k e, scope, (streamOrder s k e).cur⟩

/-! Fences (R119, R120). -/

/-- A fence of a stream: kind 0 acquire, 1 release, 2 both, 3 SC. An SC fence takes its place after those before it. -/
def fence (s : State) (k : SlotId) (e : EngId) (kind scope : Nat) : State :=
  let y := issuerOf s k e
  let o := streamOrder s k e
  let o1 := if kind = 1 then o else o.acquire s y scope o.read
  let o2 := if kind = 3 then o1.acquire s y scope s.sc else o1
  let mine : Release := ⟨y, scope, o2.cur.memory⟩
  let o3 : Order := if kind = 0 then o2 else { o2 with fences := o2.fences.filter (fun r => decide (r.scope ≠ scope)) ++ [mine] }
  let s1 := if kind = 3 then { s with sc := s.sc.filter (fun r => !(r.by_ = y ∧ r.scope = scope)) ++ [mine] } else s
  setOrder s1 k e o3

/-! Edges between jobs (R127, R128). -/

/-- Writes as a view of them. -/
def viewOf (m : List (Nat × Nat)) : View := m.foldl (fun v p => v.raise p.1 (p.2 + 1)) []

/-- The writes among a job's that some agent may not see yet. -/
def unseen (s : State) (m : List (Nat × Nat)) : List (Nat × Nat) := m.filter (fun p => s.log.any (fun w => w.id == p.2))

/-- The writes of a slot's job that happen before the next event of its control stream. -/
def madeBefore (s : State) (k : SlotId) : List (Nat × Nat) :=
  let v := (streamOrder s k 0).cur.view
  (getSlot s k).made.filter (fun p => decide (p.2 < v.at p.1))

end Sys2Proof.Machine
end

