-- ==== Sys2Proof/Machine/Operands.lean ====
section
/-! DEFINITION. Machine/Operands.lean: the operand forms of the words: scratchpad addresses (R93 to R95), layout records and
tiles (R96 to R98), matrix descriptors (R150), completion words (R149) with the tags and barriers they update (R193, R196,
R197), and the course of an engine word and of a launch (R148, R224, R228, R233). -/

namespace Sys2Proof.Machine

/-! Scratchpad addresses. -/

/-- The core of the cluster that a slot belongs to, 0 to 5. -/
def coreInCluster (k : SlotId) : Nat := k.val / 2 % 6

/-- Whether a slot runs a job of a context. -/
def runsFor (s : State) (k : SlotId) (c : Ctx) : Bool :=
  match (getSlot s k).job with | some j => j.started && decide (j.ctx = c) | none => false

/-- The slot whose scratchpad a CORE field reaches (R93, R94). -/
def spTarget (s : State) (k : SlotId) (core : Nat) : Option SlotId :=
  if core = 7 ∨ core = coreInCluster k then some k
  else if core = 6 then none
  else
    let c := (getSlot s k).ctx
    match slotAt ((clusterOf k).val * 6 + core) (slotBit k), slotAt ((clusterOf k).val * 6 + core) (!slotBit k) with
    | some a, some b => if runsFor s a c then some a else if runsFor s b c then some b else none
    | _, _ => none

/-- Bytes of a slot's scratchpad (R90). -/
def spSize (x : Slot) : Nat := pwSpg x.partw * 16384

/-- Where a byte of scratchpad lies; none when it is out of range (R95). The address is a 64-bit value. -/
def spAt (s : State) (k : SlotId) (a : Nat) : Option (SlotId × Nat) :=
  if a ≥ 2 ^ 29 then none
  else match spTarget s k (a / 2 ^ 26) with
    | none => none
    | some t => if a % 2 ^ 26 < spSize (getSlot s t) then some (t, a % 2 ^ 26) else none

/-- The first out-of-range access since SPOOB.V was clear; of those of one cycle, that of the lowest engine code (R95). -/
def noteOob (s : State) (k : SlotId) (e : EngId) (wr : Bool) (a : Nat) : State :=
  modSlot s k (fun x =>
    if x.spoob.getLsbD 63 && !(x.spoobAt == some s.dcc && decide (e.val < (x.spoob.extractLsb' 56 3).toNat)) then x
    else { x with
      spoob := 1 <<< 63 ||| b2w wr <<< 62 ||| BitVec.ofNat 64 (e.val * 2 ^ 56) ||| BitVec.ofNat 64 (a % 2 ^ 32)
      spoobAt := some s.dcc })

/-- Records the first byte of a list that is out of range. -/
def noteOobs (s : State) (k : SlotId) (e : EngId) (wr : Bool) (as : List Nat) : State :=
  match as.find? (fun a => (spAt s k a).isNone) with
  | some a => noteOob s k e wr a
  | none => s

/-- One byte of scratchpad; zero when it is out of range. -/
def spGet (s : State) (k : SlotId) (a : Nat) : Byte :=
  match spAt s k a with
  | some (t, o) => cellGet (getSlot s t).scratch o
  | none => 0

/-- Whether a byte of scratchpad is poisoned. -/
def spBad (s : State) (k : SlotId) (a : Nat) : Bool :=
  match spAt s k a with
  | some (t, o) => (getSlot s t).spPoison.contains o
  | none => false

/-- The address of the first poisoned byte of a list (R30, R347). -/
def spFirstBad (s : State) (k : SlotId) (as : List Nat) : Option FCode :=
  (as.find? (spBad s k)).map (fun a => (0x13, BitVec.ofNat 64 a))

/-- A byte of a slot's scratchpad takes a value; with it goes what its last write released. -/
def Slot.spWrite (x : Slot) (o : Nat) (v : Byte) : Slot :=
  { x with scratch := cellSet x.scratch o v, spPoison := setClear x.spPoison o 1, spRels := tableDel x.spRels o }

/-- Stores a byte of scratchpad; nothing when it is out of range (R95). -/
def spStore (s : State) (k : SlotId) (a : Nat) (v : Byte) : State :=
  match spAt s k a with
  | some (t, o) => modSlot s t (fun x => x.spWrite o v)
  | none => s

/-- Stores a byte of scratchpad for a stream: a provisional job's write to another slot is discarded after the advance point
(R308). -/
def spPut (s : State) (k : SlotId) (a : Nat) (v : Byte) : State :=
  match spAt s k a with
  | some (t, _) => if t = k ∨ lands s k then spStore s k a v else s
  | none => s

/-- A 64-bit sum as an address: R95 computes modulo 2^64. -/
def wrap64 (a : Int) : Nat := (a % (2 ^ 64 : Int)).toNat

/-- Consecutive addresses, modulo 2^64. -/
def spRange (a n : Nat) : List Nat := (List.range n).map (fun i => (a + i) % 2 ^ 64)

/-- Stores consecutive bytes. -/
def spPutBytes (s : State) (k : SlotId) (a : Nat) (bs : Bytes) : State :=
  (bs.zipIdx).foldl (fun s p => spPut s k ((a + p.2) % 2 ^ 64) p.1) s

/-- A little-endian value of n bytes of scratchpad. -/
def spNat (s : State) (k : SlotId) (a n : Nat) : Nat := bytesVal ((spRange a n).map (spGet s k))

/-- The place of a scratchpad byte among those of all slots, as spans are kept. -/
def spPlace (t : SlotId) (o : Nat) : Nat := t.val * 2 ^ 26 + o

/-- A span of scratchpad from its lowest to its highest address, as places; left out when it is out of range in any byte
(R233). -/
def spSpan (s : State) (k : SlotId) (lo hi : Int) : List (Nat × Nat) :=
  if lo < 0 ∨ hi ≥ 2 ^ 29 ∨ hi < lo ∨ lo.toNat / 2 ^ 26 ≠ hi.toNat / 2 ^ 26 then []
  else match spTarget s k (lo.toNat / 2 ^ 26) with
    | none => []
    | some t =>
      if hi.toNat % 2 ^ 26 < spSize (getSlot s t) then [(spPlace t (lo.toNat % 2 ^ 26), spPlace t (hi.toNat % 2 ^ 26) + 1)] else []

/-! Layout records and tiles. -/

/-- A 64-byte layout record (R96). -/
abbrev Layout := Vector Word 8

def Layout.base (r : Layout) : Word := r[0]
def Layout.fmt (r : Layout) : Nat := (r[1].extractLsb' 0 8).toNat
def Layout.ndim (r : Layout) : Nat := (r[1].extractLsb' 8 8).toNat
def Layout.gen (r : Layout) : Nat := (r[1].extractLsb' 16 8).toNat
def Layout.tcount (r : Layout) : Nat := (r[1].extractLsb' 32 32).toNat
def Layout.dim (r : Layout) (n : Nat) : Nat := (if n = 0 then r[2].extractLsb' 0 32 else if n = 1 then r[2].extractLsb' 32 32
  else if n = 2 then r[3].extractLsb' 0 32 else r[3].extractLsb' 32 32).toNat
def Layout.str (r : Layout) (n : Nat) : Word := if n = 1 then r[4] else if n = 2 then r[5] else r[6]
def Layout.tile (r : Layout) (n : Nat) : Nat := (r[7].extractLsb' (16 * (n % 4)) 16).toNat
def Layout.size (r : Layout) : Nat := fmtSize r.fmt
/-- Tiles along a dimension. -/
def Layout.tilesIn (r : Layout) (n : Nat) : Nat := (r.dim n + r.tile n - 1) / r.tile n
/-- Bytes of a tile. -/
def Layout.tileBytes (r : Layout) : Nat := r.tile 0 * r.tile 1 * r.tile 2 * r.tile 3 * r.size

/-- The coordinates of R208. -/
def coordsOf (b : Word) : List Nat := (List.range 4).map (fun i => (b.extractLsb' (16 * i) 16).toNat)

/-- The record of a handle of a context, if it was written (R98). -/
def findLayout (s : State) (c : Ctx) (handle : Nat) : Option Layout := (findCtx s c).bind (fun y => tableGet y.layouts handle)

/-- R98 for coordinates. -/
def coordsOk (r : Layout) (cs : List Nat) : Bool :=
  (List.range 4).all (fun n => if n ≥ r.ndim then cs.getD n 0 == 0 else decide (cs.getD n 0 < r.tilesIn n))

/-- The tile that a tensor operand and coordinates name (R98, R208): 0x07 with the tensor operand otherwise. -/
def tileNamed (s : State) (c : Ctx) (a b : Word) : Except FCode (Layout × TileName) :=
  let h := (a.extractLsb' 0 16).toNat
  match findLayout s c h with
  | none => .error (0x07, a)
  | some r => if coordsOk r (coordsOf b) then .ok (r, ⟨h, r.gen, coordsOf b⟩) else .error (0x07, a)

/-- The virtual address of byte b of a tile; none for an element beyond the tensor's edge (R96, R98). -/
def tileByteVa (r : Layout) (cs : List Nat) (b : Nat) : Option Word :=
  let e := b / r.size
  let l0 := e % r.tile 0
  let l1 := e / r.tile 0 % r.tile 1
  let l2 := e / (r.tile 0 * r.tile 1) % r.tile 2
  let l3 := e / (r.tile 0 * r.tile 1 * r.tile 2)
  let x0 := cs.getD 0 0 * r.tile 0 + l0
  let x1 := cs.getD 1 0 * r.tile 1 + l1
  let x2 := cs.getD 2 0 * r.tile 2 + l2
  let x3 := cs.getD 3 0 * r.tile 3 + l3
  if x0 < r.dim 0 ∧ x1 < r.dim 1 ∧ x2 < r.dim 2 ∧ x3 < r.dim 3 then
    some (r.base + BitVec.ofNat 64 (x0 * r.size + b % r.size) + BitVec.ofNat 64 x1 * r.str 1 + BitVec.ofNat 64 x2 * r.str 2 +
      BitVec.ofNat 64 x3 * r.str 3)
  else none

/-- The virtual address of a tile's first byte. -/
def tileFirst (r : Layout) (cs : List Nat) : Word := (tileByteVa r cs 0).getD r.base

/-! Matrix operands in scratchpad (R150). -/

/-- A descriptor of two stack entries. -/
structure MatOperand where
  base   : Nat
  pitch  : Nat
  rot    : Nat
  tpitch : Nat
deriving DecidableEq, Repr

/-- The descriptor, when no bit marked zero is set. -/
def matOperand (a b : Word) : Option MatOperand :=
  if a.extractLsb' 48 16 = 0 ∧ b.extractLsb' 35 29 = 0 then
    some ⟨(a.extractLsb' 0 32).toNat, (a.extractLsb' 32 16).toNat, (b.extractLsb' 32 3).toNat, (b.extractLsb' 0 32).toNat⟩
  else none

/-- Where byte b of row i of tile t lies, for rows of l bytes. -/
def MatOperand.at (m : MatOperand) (l t i b : Nat) : Nat := m.base + t * m.tpitch + i * m.pitch + (b + i * m.rot * 32) % l

/-- The whole span of an operand: lowest and highest address. -/
def MatOperand.span (m : MatOperand) (l tiles rows : Nat) : Int × Int :=
  (m.base, m.base + (tiles - 1) * m.tpitch + (rows - 1) * m.pitch + l - 1)

/-! Completion tags and named barriers. -/

def getBarrier (s : State) (core : Fin 96) (i : Nat) : Barrier := (tableGet (s.cores[core]).barriers i).getD Barrier.reset
def setBarrier (s : State) (core : Fin 96) (i : Nat) (b : Barrier) : State :=
  { s with cores := s.cores.set core.val { s.cores[core] with barriers := tableSet (s.cores[core]).barriers i b } core.isLt }

/-- The completion test of a phase (R193): once in a cycle, after what reached the barrier in it (R196). -/
def Barrier.test (b : Barrier) : Barrier :=
  if b.arr = b.exp ∧ b.pend = 0 ∧ b.exp ≠ 0 then { b with phase := !b.phase, arr := 0, last := b.rels, rels := [] } else b

/-- A release joins those of one issuer at one scope. -/
def addRelease (rs : List Release) (r : Release) : List Release :=
  match rs.find? (fun q => q.by_ = r.by_ ∧ q.scope = r.scope) with
  | none => rs ++ [r]
  | some _ => rs.map (fun q => if q.by_ = r.by_ ∧ q.scope = r.scope then { q with known := q.known.join r.known } else q)

/-- One arrival, a release (R121, R195, R196). -/
def Barrier.arrive (b : Barrier) (r : Release) : Barrier :=
  if b.arr.toNat < b.exp.toNat then { b with arr := b.arr + 1, rels := addRelease b.rels r } else { b with surp := true }

/-- Whether a barrier belongs to a slot (R193). -/
def Barrier.ownedBy (b : Barrier) (k : SlotId) : Bool :=
  match b.owner with | some (sl, _) => sl == slotBit k | none => false

/-- Setting a tag (R197), a release at job scope (R121). -/
def setTag (s : State) (k : SlotId) (t : Nat) (known : Known) : State :=
  modSlot s k (fun x => { x with
    tags := x.tags ||| (1 <<< t),
    tagKnown := tableSet x.tagKnown t (((tableGet x.tagKnown t).getD Known.empty).join known) })

/-- What a stream learns from a set of tags (R121, R133). -/
def learnTags (x : Slot) (e : EngId) (mask : Word) : Slot :=
  (x.tagKnown.filter (fun p => mask.getLsbD p.1)).foldl (fun y p => y.knows e p.2) x

/-- A completion word (R149). -/
structure Completion where
  none' : Bool
  isBar : Bool
  far   : Bool
  core  : Nat
  idx   : Nat
deriving DecidableEq, Repr

def completionOf (w : Word) : Completion :=
  ⟨w.getLsbD 14, w.getLsbD 15, w.getLsbD 23, (w.extractLsb' 16 7).toNat, (w.extractLsb' 0 10).toNat⟩

/-- The check of R149; far tells whether the word may name a remote barrier. -/
def completionOk (s : State) (far : Bool) (w : Word) : Bool :=
  let c := completionOf w
  if w.extractLsb' 24 40 ≠ 0 ∨ w.extractLsb' 10 4 ≠ 0 then false
  else if c.none' then decide (w = 1 <<< 14)
  else if !c.isBar then decide (c.idx ≤ 63) && !c.far && decide (c.core = 0)
  else decide (c.idx ≤ 511) &&
    (if c.far then far && decide (c.core ≤ 95) && dieLive s (c.core / 24) else decide (c.core = 0))

/-- The core whose barrier a completion word names. -/
def completionCore (k : SlotId) (c : Completion) : Fin 96 :=
  if c.far then (if h : c.core < 96 then ⟨c.core, h⟩ else coreOf k) else coreOf k

/-- A named barrier that counts for a context: its owner runs the context (R196). -/
def Barrier.counts (b : Barrier) (c : Ctx) : Bool := match b.owner with | some (_, o) => o == c | none => false

/-- A byte that lands counts into the barrier (R196), a release of the copy at the barrier's scope (R121, R122). -/
def countByte (s : State) (k : SlotId) (w : Word) (known : Known) : State :=
  let c := completionOf w
  if c.none' || !c.isBar then s
  else
    let core := completionCore k c
    let b := getBarrier s core c.idx
    if b.counts (getSlot s k).ctx then
      setBarrier s core c.idx { b with pend := b.pend - 1, rels := addRelease b.rels ⟨issuerOf s k 3, b.scope.toNat, known⟩ }
    else s

/-- The completion object of a launch is updated (R196, R224), a release of the launch (R121): copies have counted their bytes
already. -/
def completeInto (s : State) (k : SlotId) (e : EngId) (w : Word) (known : Known) : State :=
  let c := completionOf w
  if c.none' then s
  else if !c.isBar then setTag s k c.idx known
  else if e = 3 then s
  else
    let b := getBarrier s (coreOf k) c.idx
    if b.counts (getSlot s k).ctx then
      setBarrier s (coreOf k) c.idx (b.arrive ⟨issuerOf s k e, b.scope.toNat, known⟩)
    else s

/-! The course of an engine word. -/

/-- How the body of an engine word ends. -/
inductive ERes where
  /-- The stream goes on at the next word. -/
  | ok (s : State)
  /-- A taken branch to an address. -/
  | jump (s : State) (pc : Word)
  /-- The word after this one, or another landing point of a word that does not branch. -/
  | land (s : State) (pc : Word)
  /-- The stream has stopped at the rendezvous. -/
  | stop (s : State)
  | fault (f : FCode)
  | wait (f : EngStream → EngStream)

/-- The engine stream whose word executes; none for the control stream. -/
def curEng (s : State) : Option (Fin 4) := engIndex s.cur.eng

/-- A taken branch drops the loops that do not hold its target (R228). -/
def keepLoops (ls : List Loop) (pc : Word) : List Loop :=
  ls.filter (fun l => decide (l.start.toNat ≤ pc.toNat) && decide (pc.toNat < l.stop.toNat))

/-- The stream moves past a word. The wait record lasts only while PC stays at the word (R230). -/
def moveOn (s : State) (k : SlotId) (e : Fin 4) (branch : Bool) (pc : Word) : State :=
  modEng s k e (fun y =>
    let y := { y with wait := none, wpv := false }
    if branch then { y with pc := pc, loops := keepLoops y.loops pc }
    else
      let p := loopStep y.loops pc
      { y with pc := p.2, loops := p.1 })

/-- An engine word: legality in its stream (R148), the stack's depth, then its body on the popped values. The body runs in a
state where they are popped. -/
def engineWord (i : Instr) (legal : Bool) (pops pushes : Nat) (body : State → SlotId → Fin 4 → EngStream → List Word → ERes)
    (s : State) : Out :=
  match curEng s with
  | none => .next s
  | some e =>
    let k := s.cur.slot
    let y := getEng s k e
    if !legal then .next (engineFault s k e y.pc none (0x0D, wordOf i))
    else if y.stack.length < pops ∨ y.stack.length - pops + pushes > 8 then
      .next (engineFault s k e y.pc none (0x0E, BitVec.ofNat 64 y.stack.length))
    else
      let s1 := setEng s k e { y with stack := y.stack.drop pops }
      match body s1 k e y (y.stack.take pops) with
      | .ok t => .next (moveOn t k e false (y.pc + 2))
      | .land t pc => .next (moveOn t k e false pc)
      | .jump t pc => .next (moveOn t k e true pc)
      | .stop t => .next (modEng t k e (fun z => { z with wait := none, wpv := false }))
      | .fault f => .next (engineFault s k e y.pc none f)
      | .wait f => .next (setEng s k e { f y with wait := some i })

/-- Pushes values, the first ending on top. -/
def pushes (s : State) (k : SlotId) (e : Fin 4) (vs : List Word) : State :=
  modEng s k e (fun y => { y with stack := vs ++ y.stack })

/-! Launches. -/

/-- What a launch asks of the range checker and of deterministic mode (R130, R133, R233). -/
structure Reach where
  /-- Scratchpad spans read and written, as places: from, up to. -/
  spReads  : List (Nat × Nat)
  spWrites : List (Nat × Nat)
  /-- Memory ranges read and written: virtual address and length. -/
  reads    : List (Nat × Nat)
  writes   : List (Nat × Nat)
deriving DecidableEq, Repr

/-- The check of deterministic mode at a launching word, before any byte moves (R134). `agent` is the copy itself, or the
stream; `view` the accesses that happen before. -/
def detLaunch (x : Slot) (view : List Nat) (agent : Nat) (reach : Unit → Reach) :
    Except FCode (DetRecord × List Nat) :=
  if !x.deterministic then .ok (x.det, [])
  else
    let r := reach ()
    let foot := match x.job with | some j => j.foot | none => []
    let entry := (r.reads.findSome? (fun p => detEntry foot .read p.1 p.2)).orElse
      (fun _ => r.writes.findSome? (fun p => detEntry foot .write p.1 p.2))
    match entry with
    | some f => .error f
    | none =>
      let all : List (Bool × Bool × Nat × Nat) :=
        r.spReads.map (fun p => (true, false, p.1, p.2 - p.1)) ++ r.spWrites.map (fun p => (true, true, p.1, p.2 - p.1)) ++
        r.reads.map (fun p => (false, false, p.1, p.2)) ++ r.writes.map (fun p => (false, true, p.1, p.2))
      match all.findSome? (fun a => detConflict x.det agent view a.1 a.2.2.1 a.2.2.2 a.2.1) with
      | some f => .error f
      | none =>
        let d := all.foldl (fun d a => d.add agent a.1 a.2.2.1 a.2.2.2 a.2.1) x.det
        .ok (d, (List.range all.length).map (· + x.det.next))

/-- A launch joins its stream's queue and reaches the range checker (R224, R233). -/
def joinQueue (s : State) (k : SlotId) (e : Fin 4) (l : Launch) : State :=
  modSlot s k (fun x =>
    let y := x.engs[e]
    { x with checker := x.checker + 1, engs := x.engs.set e.val { y with launches := y.launches ++ [l] } e.isLt })

/-- Whether a word waits for an earlier MMAS that has not popped its format word (R269). -/
def formatHold (i : Instr) (y : EngStream) : Bool :=
  match i with
  | .mma _ _ => y.launches.any (fun l => (match l.op with | .mmas _ _ => true | _ => false) && l.fmtw.isNone)
  | _ => false

/-- A launch word (R148, R149, R224): legality and depth, the wait for room in the queue, the completion word, the check of
the other popped values, then the launch joins its queue. `far` permits a remote barrier; `check` tests the values after the
completion word; `ctr` counts the random words that the launch draws. -/
def launchWord (i : Instr) (legal : Bool) (pops : Nat) (far : Bool)
    (check : State → SlotId → EngStream → List Word → Option FCode)
    (reach : State → SlotId → List Word → Reach)
    (prepare : State → SlotId → Fin 4 → List Word → State × Option Word × BitVec 3) (s : State) : Out :=
  engineWord i legal pops 0 (fun s1 k e y vals =>
    if y.launches.length ≥ 8 ∨ formatHold i y then .wait id
    else
      let c := vals.headD 0
      if !completionOk s1 far c then .fault (0x0D, wordOf i)
      else match check s1 k y vals with
        | some f => .fault f
        | none =>
          let x := getSlot s1 k
          let agent := if e = 2 then 5 + x.checker else (engCode e).val
          match detLaunch x (x.order[engCode e]).cur.accs agent (fun _ => reach s1 k vals) with
          | .error f => .fault f
          | .ok (d, ids) =>
            let order := { Order.empty with cur := (x.order[engCode e]).cur.join ⟨[], ids⟩ }
            let s2 := modSlot s1 k (fun x => { x with det := d })
            let (s3, fmtw, rm) := prepare s2 k e vals
            .ok (joinQueue s3 k e
              ⟨i, y.pc, vals, false, 0, fmtw, x.checker, y.key, y.ctr, rm, order, none, false, [], none, false⟩)) s

end Sys2Proof.Machine
end

