-- ==== Sys2Proof/Machine/LoadStore.lean ====
section
/-! DEFINITION. Machine/LoadStore.lean: loads, stores, scratchpad accesses, speculation and cache words (R183 to R188), and
the atomics (R108, R189, R190). -/

namespace Sys2Proof.Machine

/-- Translate(va, access) for the control stream of a slot (R106, R107). -/
def translate (s : State) (k : SlotId) (va : Word) (acc : Access) : Except FCode (State × Leaf) :=
  let c := (getSlot s k).ctx
  translateAs s (coreOf k) 0 c (ctxL1 s c) va acc

/-- An ordered access at a scope reserved to privileged contexts (R114). -/
def scopePriv (scope : BitVec 4) : Bool := decide (scope.toNat ≥ 10)

/-- ea of R183. -/
def effAddr (a : Word) (off : BitVec 22) : Word := a + off.signExtend 64
/-- Bytes of an M-format size. -/
def sizeBytes (size : BitVec 3) : Nat := 2 ^ (size.toNat % 4)
/-- A loaded value: sign-extended for sizes from 4 on. -/
def loadValue (size : BitVec 3) (v : Nat) : Word :=
  if size.toNat ≥ 4 then BitVec.ofInt 64 (signedOf (8 * sizeBytes size) v) else BitVec.ofNat 64 v

/-- The scope of an ordered access, when its order says so. -/
def orderScope (yes : Bool) (scope : BitVec 4) : Option Nat := if yes then some scope.toNat else none

/-- The memory access of LD after its address (R183): the value, a fault with what the translation has done, or the wait for
host memory (R391). -/
inductive Loaded where
  | value (s : State) (v : Nat)
  | fault (s : State) (f : FCode)
  | host (s : State) (pa : Nat)
  /-- A link on the way is down: the word waits (R377). -/
  | wait

/-- Reads n bytes at a virtual address for the control stream. The checks of deterministic mode come before the read; a read of
host memory that has been answered was translated and checked when it was made. -/
def loadBytes (s : State) (ea : Word) (n : Nat) (acq : Option Nat) : Loaded :=
  let k := s.cur.slot
  match (curSlot s).reply with
  | some (.bytes pa (some bs)) =>
    let s1 := modCur s (fun x => { x with reply := none })
    .value (modOrder s1 k 0 (fun o => o.noteRead s1 (issuerOf s1 k 0) s1.writes (addrs pa n) acq)) (bytesVal bs)
  | some (.bytes _ none) => .fault s (0x13, ea)
  | _ =>
    if ea.toNat % n ≠ 0 then .fault s (0x05, ea)
    else match translate s k ea .read with
      | .error f => .fault s f
      | .ok (s1, w) =>
        match detControl (curSlot s1) false .read ea.toNat n with
        | .error f => .fault s1 f
        | .ok x =>
          let s2 := setSlot s1 k x
          if !reaches s2 (dieOf k) (homeOf w.pa) then .wait
          else if isHost w.pa then .host s2 w.pa
          else match poisonedIn s2 w.pa n with
            | some i => .fault s2 (0x13, ea + BitVec.ofNat 64 i)
            | none =>
              let q := streamRead s2 k 0 ea w.pa n acq
              .value q.1 (bytesVal (bytesAt q.1 q.2 w.pa n))

/-- A word that stays until the host answers: what its translation and its checks have done stands. -/
def awaitHost (t : State) (a : Await) : Res :=
  let x := curSlot t
  .send (fun u => modCur { t with slots := u.slots } (fun y => { y with det := x.det, order := x.order, await := some a }))

/-- LD (R183); with .spec its faults but 0x09 are deferred into the destination's poison (R185). -/
def execLd (g : Guard) (sd : Reg) (a : Src) (size : BitVec 3) (order : BitVec 2) (scope : BitVec 4) (spec : Bool)
    (off : BitVec 22) (s : State) : Out :=
  control (.ld g sd a size order scope spec off) true (scopePriv scope) g [a] (fun t =>
    let defer : Res := .ok (modCur { t with fresh := t.fresh + 4 } (fun x => { x with reply := none }.writePoison sd))
    match firstPoison (curSlot t) [a] with
    | some f => if spec then defer else .fault f
    | none =>
      let n := sizeBytes size
      let ea := effAddr (src t a) off
      match loadBytes t ea n (orderScope (order == 1) scope) with
      | .host t1 pa => awaitHost t1 (.hostRead ea pa n)
      | .wait => .wait id
      | .fault t1 f => if spec && f.1 != 0x09 then defer else .late t1 f
      | .value t1 v => .ok (put t1 sd (loadValue size v))) s

/-- ST (R183). -/
def execSt (g : Guard) (data : Src) (a : Src) (size : BitVec 3) (order : BitVec 2) (scope : BitVec 4) (off : BitVec 22)
    (s : State) : Out :=
  control (.st g data a size order scope off) true (scopePriv scope) g [a, data] (consuming [a, data] (fun t =>
    let ea := effAddr (src t a) off
    let n := sizeBytes size
    if ea.toNat % n ≠ 0 then .fault (0x05, ea)
    else match translate t t.cur.slot ea .write with
      | .error f => .fault f
      | .ok (t1, w) =>
        match detControl (curSlot t1) false .write ea.toNat n with
        | .error f => .late t1 f
        | .ok x =>
          .ok (settleDevice (streamWrite (setSlot t1 t1.cur.slot x) t1.cur.slot 0 ea (cellsAt w.pa (toBytes n (src t data)))
            (orderScope (order == 2) scope) []) w.device w.pa n))) s

/-- R133 for an access to scratchpad. -/
def detScratch (s : State) (a n : Nat) (kind : DetKind) : Except FCode State :=
  match spAt s s.cur.slot a with
  | none => .ok s
  | some (t, o) =>
    match detControl (curSlot s) true kind (spPlace t o) n with
    | .error f => .error f
    | .ok x => .ok (setSlot s s.cur.slot x)

/-- The releases that the last writes to bytes of scratchpad carry (R119). -/
def spReleases (s : State) (k : SlotId) (as : List Nat) : List Release :=
  as.flatMap (fun a => match spAt s k a with
    | some (t, o) => (tableGet (getSlot s t).spRels o).getD []
    | none => [])

/-- A read of scratchpad by the control stream synchronises with the stores it reads from (R119). -/
def spAcquire (s : State) (as : List Nat) (acq : Option Nat) : State :=
  let k := s.cur.slot
  let rs := spReleases s k as
  modOrder s k 0 (fun o => match acq with
    | some scope => o.acquire s (issuerOf s k 0) scope rs
    | none => { o with read := o.read ++ rs.filter (fun r => !o.read.contains r) })

/-- What a store to scratchpad by the control stream releases goes with its bytes (R119). -/
def spRelease (s : State) (as : List Nat) (rel : Option Nat) : State :=
  let k := s.cur.slot
  let o := streamOrder s k 0
  let rs := o.fences ++ (match rel with | some scope => [⟨issuerOf s k 0, scope, o.cur.memory⟩] | none => [])
  if rs = [] then s
  else as.foldl (fun s a => match spAt s k a with
    | some (t, p) => if t = k ∨ lands s k then modSlot s t (fun x => { x with spRels := tableSet x.spRels p rs }) else s
    | none => s) s

/-- Whether every byte of an access of LDSP or STSP is in range: it is one access (R95). -/
def spInRange (s : State) (a n : Nat) : Bool := (spRange a n).all (fun b => (spAt s s.cur.slot b).isSome)

/-- LDSP (R184). -/
def execLdsp (g : Guard) (sd : Reg) (a : Src) (size : BitVec 3) (order : BitVec 2) (scope : BitVec 4) (off : BitVec 22)
    (s : State) : Out :=
  control (.ldsp g sd a size order scope off) true (scopePriv scope) g [a] (consuming [a] (fun t =>
    let ea := effAddr (src t a) off
    let n := sizeBytes size
    if ea.toNat % n ≠ 0 then .fault (0x05, ea)
    else if !spInRange t ea.toNat n then .ok (put (noteOob t t.cur.slot 0 false ea.toNat) sd 0)
    else match detScratch t ea.toNat n .read with
      | .error f => .fault f
      | .ok t1 =>
        match spFirstBad t1 t1.cur.slot (spRange ea.toNat n) with
        | some f => .fault f
        | none =>
          .ok (put (spAcquire t1 (spRange ea.toNat n) (orderScope (order == 1) scope)) sd
            (loadValue size (spNat t1 t1.cur.slot ea.toNat n))))) s

/-- STSP (R184). -/
def execStsp (g : Guard) (data : Src) (a : Src) (size : BitVec 3) (order : BitVec 2) (scope : BitVec 4) (off : BitVec 22)
    (s : State) : Out :=
  control (.stsp g data a size order scope off) true (scopePriv scope) g [a, data] (consuming [a, data] (fun t =>
    let ea := effAddr (src t a) off
    let n := sizeBytes size
    if ea.toNat % n ≠ 0 then .fault (0x05, ea)
    else if !spInRange t ea.toNat n then .ok (noteOob t t.cur.slot 0 true ea.toNat)
    else match detScratch t ea.toNat n .write with
      | .error f => .fault f
      | .ok t1 =>
        .ok (spRelease (spPutBytes t1 t1.cur.slot ea.toNat (toBytes n (src t data))) (spRange ea.toNat n)
          (orderScope (order == 2) scope)))) s

/-- PREF (R186): a hint that changes nothing visible. -/
def execPref (g : Guard) (a : Src) (off : BitVec 22) (s : State) : Out := plain (.pref g a off) g [a] .ok s

/-- CHK (R185). -/
def execChk (g : Guard) (a : Src) (s : State) : Out := plain (.chk g a) g [a] .ok s

/-- The slots of the cores that CLEAN and INVAL cover (R187). -/
def coveredBy (k : SlotId) (scope : BitVec 4) (j : SlotId) : Bool :=
  match scope.toNat with
  | 3 => clusterOf j = clusterOf k
  | 4 => dieOf j = dieOf k
  | 5 => decide ((dieOf j).val / 2 = (dieOf k).val / 2)
  | n => if n ≤ 2 then coreOf j = coreOf k else true

/-- The line of R187: translated as a load translates it, with the entry that deterministic mode needs (R130). Data caches
hold nothing of their own (notes/assumptions/7). -/
def cacheLine (s : State) (ea : Word) (done : State → Nat → State) : Res :=
  match translate s s.cur.slot ea .read with
  | .error f => .fault f
  | .ok (s1, w) =>
    let x := curSlot s1
    let foot := match x.job with | some j => j.foot | none => []
    match (if x.deterministic then detEntry foot .read ea.toNat 64 else none) with
    | some f => .late s1 f
    | none => .ok (done s1 w.pa)

/-- ea rounded down to its 64-byte line. -/
def lineAddr (a : Word) (off : BitVec 22) : Word := effAddr a off &&& ~~~63

/-- CLEAN (R187). -/
def execClean (g : Guard) (a : Src) (scope : BitVec 4) (off : BitVec 22) (s : State) : Out :=
  control (.clean g a scope off) true (scopePriv scope) g [a] (consuming [a] (fun t =>
    cacheLine t (lineAddr (src t a) off) (fun u _ => u))) s

/-- A core that INVAL covers drops a line: its fetch sees no older bytes of it from now on (R188). -/
def Core.refetch (c : Core) (line : FetchLine) : Core :=
  { c with fetched := c.fetched.filter (fun l => decide (l.pa ≠ line.pa)) ++ [line] }

/-- INVAL (R187, R188): instruction fetch by the cores covered sees the line as it stands. -/
def execInval (g : Guard) (a : Src) (scope : BitVec 4) (off : BitVec 22) (s : State) : Out :=
  control (.inval g a scope off) true (scopePriv scope) g [a] (consuming [a] (fun t =>
    cacheLine t (lineAddr (src t a) off) (fun u pa =>
      { u with cores := Vector.ofFn (fun c : Fin 96 =>
          if coveredBy u.cur.slot scope ⟨2 * c.val, by omega⟩ then (u.cores[c]).refetch ⟨pa, u.writes, readBytes u pa 64⟩
          else u.cores[c]) }))) s

/-! Atomics. -/

/-- The operations of R189. -/
inductive AtomicOp where
  | add | and | or | xor | min | max | minu | maxu | swp | cas | fadd
deriving DecidableEq, Repr

/-- w of R189. -/
def atomicWidth (size : BitVec 2) : Nat := if size = 2 then 32 else 64

/-- The new value of the location, and FFLAGS bits, over w bits. -/
def AtomicOp.apply (op : AtomicOp) (w old b c : Nat) : Nat × BitVec 6 :=
  match op with
  | .add => ((old + b) % 2 ^ w, 0)
  | .and => (old &&& b, 0)
  | .or => (old ||| b, 0)
  | .xor => (old ^^^ b, 0)
  | .min => (if signedOf w old ≤ signedOf w b then old else b, 0)
  | .max => (if signedOf w old ≤ signedOf w b then b else old, 0)
  | .minu => (if old ≤ b then old else b, 0)
  | .maxu => (if old ≤ b then b else old, 0)
  | .swp => (b, 0)
  | .cas => (if old = c then b else old, 0)
  | .fadd => fpAdd (if w = 32 then fp32 else fp64) 0 0 old b

/-- PCIe AtomicOps carry FetchAdd, Swap and CAS alone (R108). -/
def AtomicOp.atHost (op : AtomicOp) : Bool :=
  match op with
  | .add | .swp | .cas => true
  | _ => false

/-- Operations that commute when their old value is discarded (R132). -/
def AtomicOp.commutes (op : AtomicOp) : Bool :=
  match op with
  | .swp | .cas | .fadd => false
  | _ => true

/-- CheckPlacement of R108: whether the placement is legal. -/
def placementOk (op : AtomicOp) (place : BitVec 2) (leaf : Leaf) : Bool :=
  let p : Nat := if place = 0 then (leaf.entry.extractLsb' 5 2).toNat else place.toNat - 1
  match p with
  | 0 => !isHost leaf.pa
  | 1 => !isHost leaf.pa
  | 2 => isHost leaf.pa && op.atHost
  | _ => false

/-- The read and the write of an atomic by the control stream, one after the other in coherence order (R115, R123 rule 5): it
reads the last write, and carries on what that write released (R119). -/
def atomicAccess (s : State) (va : Word) (pa n : Nat) (new : Nat) (order : BitVec 2) (scope : BitVec 4) : State :=
  let k := s.cur.slot
  let as := addrs pa n
  let s1 := modOrder s k 0 (fun o => o.noteRead s (issuerOf s k 0) s.writes as (orderScope (order.getLsbD 0) scope))
  streamWrite s1 k 0 va (cellsAt pa (natBytes n new)) (orderScope (order.getLsbD 1) scope) (releasesAt s s.writes as)

/-- An atomic (R189, R190): the old value goes to sd, the new one to the location, as one access. -/
def atomicWord (i : Instr) (op : AtomicOp) (g : Guard) (sd : Reg) (a b : Src) (c : Option Src) (order : BitVec 2)
    (scope : BitVec 4) (place size : BitVec 2) (s : State) : Out :=
  let srcs := [a, b] ++ c.toList
  control i true (scopePriv scope) g srcs (consuming srcs (fun t =>
    let w := atomicWidth size
    let n := w / 8
    let va := src t a
    if va.toNat % n ≠ 0 then .fault (0x05, va)
    else
      let finish (t1 : State) (pa old : Nat) : Res :=
        let r := op.apply w old ((src t b).toNat % 2 ^ w) (match c with | some c => (src t c).toNat % 2 ^ w | none => 0)
        let t2 := settleDevice (atomicAccess (modCur t1 (fun x => { x with reply := none })) va pa n r.1 order scope)
          (devicePage t1 (ctxL1 t1 (curSlot t1).ctx) va) pa n
        .ok (modCur t2 (fun x => { x with fflags := x.fflags ||| r.2 }.writeS sd (BitVec.ofNat 64 old)))
      match (curSlot t).reply with
      | some (.bytes pa (some bs)) => finish t pa (bytesVal bs % 2 ^ w)
      | some (.bytes _ none) => .fault (0x18, va)
      | _ =>
        match translate t t.cur.slot va .atomic with
        | .error f => .fault f
        | .ok (t1, leaf) =>
          if !placementOk op place leaf then .late t1 (0x18, va)
          else
            let kind : DetKind := if op.commutes && decide (sd = 0) then .commuting else .atomic
            match detControl (curSlot t1) false kind va.toNat n with
            | .error f => .late t1 f
            | .ok x =>
              let t2 := setSlot t1 t1.cur.slot x
              if !reaches t2 (dieOf t.cur.slot) (homeOf leaf.pa) then .wait id
              else if isHost leaf.pa then awaitHost t2 (.hostAtomic va leaf.pa n)
              else match poisonedIn t2 leaf.pa n with
                | some j => .late t2 (0x13, va + BitVec.ofNat 64 j)
                | none => finish t2 leaf.pa (readNat t2 leaf.pa n))) s

def execAadd (g : Guard) (sd : Reg) (a b : Src) (order : BitVec 2) (scope : BitVec 4) (place size : BitVec 2) (s : State) : Out :=
  atomicWord (.aadd g sd a b order scope place size) .add g sd a b none order scope place size s
def execAand (g : Guard) (sd : Reg) (a b : Src) (order : BitVec 2) (scope : BitVec 4) (place size : BitVec 2) (s : State) : Out :=
  atomicWord (.aand g sd a b order scope place size) .and g sd a b none order scope place size s
def execAor (g : Guard) (sd : Reg) (a b : Src) (order : BitVec 2) (scope : BitVec 4) (place size : BitVec 2) (s : State) : Out :=
  atomicWord (.aor g sd a b order scope place size) .or g sd a b none order scope place size s
def execAxor (g : Guard) (sd : Reg) (a b : Src) (order : BitVec 2) (scope : BitVec 4) (place size : BitVec 2) (s : State) : Out :=
  atomicWord (.axor g sd a b order scope place size) .xor g sd a b none order scope place size s
def execAmin (g : Guard) (sd : Reg) (a b : Src) (order : BitVec 2) (scope : BitVec 4) (place size : BitVec 2) (s : State) : Out :=
  atomicWord (.amin g sd a b order scope place size) .min g sd a b none order scope place size s
def execAmax (g : Guard) (sd : Reg) (a b : Src) (order : BitVec 2) (scope : BitVec 4) (place size : BitVec 2) (s : State) : Out :=
  atomicWord (.amax g sd a b order scope place size) .max g sd a b none order scope place size s
def execAminu (g : Guard) (sd : Reg) (a b : Src) (order : BitVec 2) (scope : BitVec 4) (place size : BitVec 2) (s : State) : Out :=
  atomicWord (.aminu g sd a b order scope place size) .minu g sd a b none order scope place size s
def execAmaxu (g : Guard) (sd : Reg) (a b : Src) (order : BitVec 2) (scope : BitVec 4) (place size : BitVec 2) (s : State) : Out :=
  atomicWord (.amaxu g sd a b order scope place size) .maxu g sd a b none order scope place size s
def execAswp (g : Guard) (sd : Reg) (a b : Src) (order : BitVec 2) (scope : BitVec 4) (place size : BitVec 2) (s : State) : Out :=
  atomicWord (.aswp g sd a b order scope place size) .swp g sd a b none order scope place size s
def execAcas (g : Guard) (sd : Reg) (a b c : Src) (order : BitVec 2) (scope : BitVec 4) (place size : BitVec 2) (s : State) : Out :=
  atomicWord (.acas g sd a b c order scope place size) .cas g sd a b (some c) order scope place size s
def execAfadd (g : Guard) (sd : Reg) (a b : Src) (order : BitVec 2) (scope : BitVec 4) (place size : BitVec 2) (s : State) : Out :=
  atomicWord (.afadd g sd a b order scope place size) .fadd g sd a b none order scope place size s

/-! Fences. -/

/-- FENCE (R191): kinds acquire, release, acquire-release and SC. -/
def execFence (g : Guard) (kind : BitVec 2) (scope : BitVec 4) (s : State) : Out :=
  control (.fence g kind scope) true (scopePriv scope) g [] (fun t => .ok (fence t t.cur.slot 0 kind.toNat scope.toNat)) s

end Sys2Proof.Machine
end

