-- ==== Sys2Proof/Machine/Sync.lean ====
section
/-! DEFINITION. Machine/Sync.lean: named barriers and completion tags (R193 to R197), engine streams, cells and the format
queue (R198 to R201), the rendezvous (R203), the random streams (R323 to R325) and the signature (R221). -/

namespace Sys2Proof.Machine

/-- The barrier that an index names for the issuing slot: 0x07 with the index when it is out of range, or when the slot does
not own it (R193). -/
def ownBarrier (s : State) (k : SlotId) (a : Word) : Except FCode Barrier :=
  if a.toNat ≥ 512 then .error (0x07, a)
  else
    let b := getBarrier s (coreOf k) a.toNat
    if b.ownedBy k then .ok b else .error (0x07, a)

/-- BARINIT (R194). -/
def execBarinit (g : Guard) (sd : Reg) (a b : Src) (scope : BitVec 4) (s : State) : Out :=
  plain (.barinit g sd a b scope) g [a, b] (fun t =>
    let i := src t a
    let n := (src t b).extractLsb' 0 16
    let k := t.cur.slot
    if i.toNat ≥ 512 then .fault (0x07, i)
    else
      let old := getBarrier t (coreOf k) i.toNat
      match old.owner with
      | some _ =>
        if !old.ownedBy k then .ok (put t sd 1)
        else if n = 0 then .ok (put (setBarrier t (coreOf k) i.toNat { old with owner := none }) sd 0)
        else .ok (put (setBarrier t (coreOf k) i.toNat ⟨some (slotBit k, (curSlot t).ctx), scope, n, 0, 0, false, false, [], []⟩) sd 0)
      | none =>
        if n = 0 then .ok (put t sd 2)
        else .ok (put (setBarrier t (coreOf k) i.toNat ⟨some (slotBit k, (curSlot t).ctx), scope, n, 0, 0, false, false, [], []⟩) sd 0)) s

/-- What BARARRIVE writes: the phase before the arrival, plus 2 when the arrival is not counted (R195). -/
def Barrier.arrival (b : Barrier) : Word := b2w b.phase + (if b.arr.toNat < b.exp.toNat then 0 else 2)

/-- BARARRIVE (R195): a release at the barrier's scope (R121). -/
def execBararrive (g : Guard) (sd : Reg) (a : Src) (s : State) : Out :=
  plain (.bararrive g sd a) g [a] (fun t =>
    let i := src t a
    let k := t.cur.slot
    match ownBarrier t k i with
    | .error f => .fault f
    | .ok b =>
      .ok (put (setBarrier t (coreOf k) i.toNat (b.arrive (releaseOf t k 0 b.scope.toNat))) sd b.arrival)) s

/-- BAREXPECT (R195). -/
def execBarexpect (g : Guard) (a b : Src) (s : State) : Out :=
  plain (.barexpect g a b) g [a, b] (fun t =>
    let i := src t a
    let k := t.cur.slot
    match ownBarrier t k i with
    | .error f => .fault f
    | .ok r => .ok (setBarrier t (coreOf k) i.toNat { r with pend := r.pend + (src t b).extractLsb' 0 48 })) s

/-- The acquire of a wait that returns (R121, R195). -/
def barrierAcquire (t : State) (k : SlotId) (e : EngId) (b : Barrier) : State :=
  modOrder t k e (fun o => o.acquire t (issuerOf t k e) b.scope.toNat b.last)

/-- BARWAIT (R195). -/
def execBarwait (g : Guard) (a b : Src) (s : State) : Out :=
  plain (.barwait g a b) g [a, b] (fun t =>
    let k := t.cur.slot
    match ownBarrier t k (src t a) with
    | .error f => .fault f
    | .ok r => if r.phase != (src t b).getLsbD 0 then .ok (barrierAcquire t k 0 r) else .wait id) s

/-- BARTEST (R195): it never waits. -/
def execBartest (g : Guard) (pd : Pred) (a b : Src) (s : State) : Out :=
  plain (.bartest g pd a b) g [a, b] (fun t =>
    let k := t.cur.slot
    match ownBarrier t k (src t a) with
    | .error f => .fault f
    | .ok r =>
      let done := r.phase != (src t b).getLsbD 0
      let t1 := if done then barrierAcquire t k 0 r else t
      .ok (modCur t1 (fun x => x.writeP pd done))) s

/-! Tags (R197). -/

def execTagwaitany (g : Guard) (sd : Reg) (a : Src) (s : State) : Out :=
  plain (.tagwaitany g sd a) g [a] (fun t =>
    let m := src t a
    let hit := (curSlot t).tags &&& m
    if m = 0 ∨ hit ≠ 0 then .ok (modCur t (fun x => (learnTags x 0 hit).writeS sd hit)) else .wait id) s
def execTagwaitall (g : Guard) (a : Src) (s : State) : Out :=
  plain (.tagwaitall g a) g [a] (fun t =>
    let m := src t a
    if (curSlot t).tags &&& m = m then .ok (modCur t (fun x => learnTags x 0 m)) else .wait id) s
/-- TAGFIRST: the lowest set bit, or 64. -/
def execTagfirst (g : Guard) (sd : Reg) (a : Src) (s : State) : Out :=
  plain (.tagfirst g sd a) g [a] (fun t =>
    let hit := (curSlot t).tags &&& src t a
    match (List.range 64).find? (fun i => hit.getLsbD i) with
    | some i => .ok (modCur t (fun x => (learnTags x 0 (1 <<< i)).writeS sd (BitVec.ofNat 64 i)))
    | none => .ok (put t sd 64)) s
/-- Clearing tags: what they stood for is forgotten. -/
def clearTags (x : Slot) (m : Word) : Slot :=
  { x with tags := x.tags &&& ~~~m, tagKnown := x.tagKnown.filter (fun p => !m.getLsbD p.1) }
def execTagclr (g : Guard) (a : Src) (s : State) : Out :=
  plain (.tagclr g a) g [a] (fun t => .ok (modCur t (fun x => clearTags x ((curSlot t).readS a.reg)))) s

/-! Engine streams (R198 to R201). -/

/-- The stream of an engine code from 1 to 4. -/
def engField (e : BitVec 3) : Option (Fin 4) :=
  if h : 1 ≤ e.toNat ∧ e.toNat ≤ 4 then some ⟨e.toNat - 1, by omega⟩ else none

/-- An engine stream starts in the state of R44: its cells keep what EPUT wrote, and a key and a counter that RNGSET has given it
start at zero again (R198, R199; notes/assumptions/10). -/
def EngStream.startAt (y : EngStream) (pc : Word) : EngStream :=
  { EngStream.reset with started := true, pc := pc, cells := y.cells }

/-- ESTART (R198), a release of the control stream towards the stream that it starts. -/
def execEstart (g : Guard) (sd : Reg) (e : BitVec 3) (a : Src) (s : State) : Out :=
  plain (.estart g sd e a) g [a] (fun t =>
    match engField e with
    | none => .fault (0x01, wordOf (.estart g sd e a))
    | some n =>
      let k := t.cur.slot
      let v := src t a
      let y := getEng t k n
      if y.started then .ok (put t sd 1)
      else if v = 0 then .ok (put t sd 2)
      else if v.getLsbD 0 then .fault (0x05, v)
      else
        .ok (put (modSlot (setEng t k n (y.startAt v)) k (fun x => x.knows (engCode n) (streamOrder t k 0).cur)) sd 0)) s

/-- EPUT (R199). -/
def execEput (g : Guard) (e : BitVec 3) (n : BitVec 4) (a : Src) (s : State) : Out :=
  plain (.eput g e n a) g [a] (fun t =>
    match engField e with
    | none => .fault (0x01, wordOf (.eput g e n a))
    | some p => .ok (modEng t t.cur.slot p (fun y => { y with cells := y.cells.set n.toNat (src t a) n.isLt }))) s
/-- EGET (R199). -/
def execEget (g : Guard) (sd : Reg) (e : BitVec 3) (n : BitVec 4) (s : State) : Out :=
  plain (.eget g sd e n) g [] (fun t =>
    match engField e with
    | none => .fault (0x01, wordOf (.eget g sd e n))
    | some p => .ok (put t sd ((getEng t t.cur.slot p).cells[n.toNat]'n.isLt))) s

/-- A value folded into JSIG (R221). -/
def foldSig (x : Slot) (v : Word) : Slot := { x with sig := sigFold x.sig v }

/-- FMTQ (R200): it waits while the queue holds 16 words. -/
def execFmtq (g : Guard) (a : Src) (s : State) : Out :=
  plain (.fmtq g a) g [a] (fun t =>
    if (curSlot t).fmtq.length ≥ 16 then .wait id
    else .ok (modCur t (fun x => foldSig { x with fmtq := x.fmtq ++ [src t a] } (src t a)))) s

/-- JOIN's condition for one stream (R201). -/
def EngStream.joined (y : EngStream) : Bool := (!y.started || y.arrived) && y.launches.isEmpty

/-- What JOIN acquires: the accesses of a stream and of its launches (R201). -/
def Slot.joins (x : Slot) (e : Fin 4) : Slot := (x.knows 0 (x.order[engCode e]).cur).knows 0 x.fin[engCode e]

/-- JOIN (R201): bit n of the mask names engine code n + 1. -/
def execJoin (g : Guard) (mask : BitVec 4) (s : State) : Out :=
  plain (.join g mask) g [] (fun t =>
    if (List.range 4).all (fun n => !mask.getLsbD n || (match (curSlot t).engs[n]? with | some y => y.joined | none => true))
    then
      .ok (modCur t (fun x => ([0, 1, 2, 3] : List (Fin 4)).foldl (fun x e => if mask.getLsbD e.val then x.joins e else x) x))
    else .wait id) s

/-- JEND (R203): the control stream arrives at the rendezvous. -/
def execJend (g : Guard) (s : State) : Out :=
  plain (.jend g) g [] (fun t => .ok (modCur t (fun x => { x with jend := true }))) s

/-! Random streams (R323 to R325). -/

def execRndc (g : Guard) (sd : Reg) (s : State) : Out :=
  plain (.rndc g sd) g [] (fun t =>
    .ok (modCur t (fun x => { x with ctr := x.ctr + 1 }.writeS sd ((rng32 x.key x.ctr).zeroExtend 64)))) s
/-- RNGSET (R324): engine code 0 is the control stream itself. -/
def execRngset (g : Guard) (e : BitVec 3) (a b : Src) (s : State) : Out :=
  plain (.rngset g e a b) g [a, b] (fun t =>
    let t1 := modCur t (fun x => foldSig x (src t a))
    match engField e with
    | none => if e = 0 then .ok (modCur t1 (fun x => { x with key := src t a, ctr := src t b }))
              else .fault (0x01, wordOf (.rngset g e a b))
    | some p => .ok (modEng t1 t.cur.slot p (fun y => { y with key := src t a, ctr := src t b }))) s
/-- RNGGET (R325): w chooses the counter. -/
def execRngget (g : Guard) (sd : Reg) (e : BitVec 3) (w : Bool) (s : State) : Out :=
  plain (.rngget g sd e w) g [] (fun t =>
    match engField e with
    | none => if e = 0 then .ok (put t sd (if w then (curSlot t).ctr else (curSlot t).key))
              else .fault (0x01, wordOf (.rngget g sd e w))
    | some p =>
      let y := getEng t t.cur.slot p
      .ok (put t sd (if w then y.ctr else y.key))) s

/-- SIGMIX (R221). -/
def execSigmix (g : Guard) (a : Src) (s : State) : Out :=
  plain (.sigmix g a) g [a] (fun t => .ok (modCur t (fun x => foldSig x (src t a)))) s
/-- CYC (R220). -/
def execCyc (g : Guard) (sd : Reg) (s : State) : Out := plain (.cyc g sd) g [] (fun t => .ok (put t sd t.dcc)) s
/-- WAITCYC (R220). -/
def execWaitcyc (g : Guard) (a : Src) (s : State) : Out :=
  plain (.waitcyc g a) g [a] (fun t => if (src t a).toNat ≤ t.dcc.toNat then .ok t else .wait id) s

end Sys2Proof.Machine
end

