-- ==== Sys2Proof/Machine/Jobs.lean ====
section
/-! DEFINITION. Machine/Jobs.lean: reading memory through a context's tables on behalf of a unit or the command processor,
job cards and their lists (R40 to R43), footprint conflicts (R48, R131), queues (R50) and SPAWN (R53, R202). -/

namespace Sys2Proof.Machine

/-! Accesses of units (R106, R299): every page is walked, no TLB is consulted. -/

/-- Pieces of a range that lie in one 64 KiB page each. -/
def segments : Nat → Word → Nat → List (Word × Nat)
  | 0, _, _ => []
  | fuel + 1, va, n =>
    if n = 0 then []
    else
      let m := min n (65536 - va.toNat % 65536)
      (va, m) :: segments fuel (va + BitVec.ofNat 64 m) (n - m)

/-- The pieces of a range of n bytes. -/
def pieces (va : Word) (n : Nat) : List (Word × Nat) := segments (n / 65536 + 2) va n

/-- One translation by a unit, with A and D set. -/
def unitTranslate (s : State) (c : Ctx) (va : Word) (acc : Access) : Except FCode (State × Nat) :=
  if va.extractLsb' 48 16 ≠ 0 then .error (0x07, va)
  else match walk s (ctxL1 s c) va with
    | .error f => .error f
    | .ok w =>
      if !permitted w.leaf.entry acc || !paOk s w.leaf.pa then .error (0x07, va)
      else .ok (setAccessed s w.leaf acc, w.leaf.pa)

/-- Translations of a whole range: the physical address of each byte's piece. -/
def unitRange (s : State) (c : Ctx) (va : Word) (n : Nat) (acc : Access) :
    Except FCode (State × List (Word × Nat × Nat)) :=
  (pieces va n).foldl (fun r p =>
    match r with
    | .error f => .error f
    | .ok (s, l) => match unitTranslate s c p.1 acc with
      | .error f => .error f
      | .ok (s1, pa) => .ok (s1, l ++ [(p.1, pa, p.2)])) (.ok (s, []))

/-- The pieces of a read, once every byte of them is good: a poisoned byte raises 0x13 with its address (R30). -/
def unitPieces (s : State) (c : Ctx) (va : Word) (n : Nat) : Except FCode (State × List (Word × Nat × Nat)) :=
  match unitRange s c va n .read with
  | .error f => .error f
  | .ok (s1, l) =>
    l.foldl (fun r p => match r with
      | .error f => .error f
      | .ok (s, l) => match readBad s p.2.1 p.2.2 with
        | (_, some i) => .error (0x13, p.1 + BitVec.ofNat 64 i)
        | (s2, none) => .ok (s2, l)) (.ok (s1, l))

/-- Reads bytes as the last write to each left them: what the device reads on its own account (notes/assumptions/6). -/
def unitRead (s : State) (c : Ctx) (va : Word) (n : Nat) : Except FCode (State × Bytes) :=
  match unitPieces s c va n with
  | .error f => .error f
  | .ok (s1, l) => .ok (s1, l.flatMap (fun p => readBytes s1 p.2.1 p.2.2))

/-- Reads bytes for an agent on a die that acts for the control stream of a slot: each at a point of its own (R113, R115). -/
def unitReadFor (s : State) (k : SlotId) (d : Die) (o : Order) (c : Ctx) (va : Word) (n : Nat) :
    Except FCode (State × Order × Bytes) :=
  match unitPieces s c va n with
  | .error f => .error f
  | .ok (s1, l) =>
    .ok (l.foldl (fun r p =>
      let q := agentReadEach r.1 k d 0 r.2.1 p.1 p.2.1 p.2.2
      (q.1, q.2.1, r.2.2 ++ q.2.2)) (s1, o, []))

/-- Translates for a later write. -/
def unitCells (s : State) (c : Ctx) (va : Word) (bs : Bytes) : Except FCode (State × List (Nat × Byte)) :=
  match unitRange s c va bs.length .write with
  | .error f => .error f
  | .ok (s1, l) =>
    .ok (s1, (l.flatMap (fun p => (List.range p.2.2).map (p.2.1 + ·))).zip bs)

/-- The n-th 64-bit word of a byte string. -/
def wordAt (bs : Bytes) (n : Nat) : Word := BitVec.ofNat 64 (bytesVal ((bs.drop (8 * n)).take 8))

/-! Cards and lists. -/

/-- Why a card is refused: a fault of R43, a feature that is not accepted (R378), or a full queue. -/
inductive JobRefusal where
  | fault (f : FCode)
  | feature
  | full
deriving DecidableEq, Repr

/-- The card in its 128 bytes (R40). -/
def cardOf (addr : Word) (bs : Bytes) : Card :=
  let w := wordAt bs
  ⟨addr, w 0, w 1, w 2, w 3, w 4, w 5, w 6, w 7, w 8, w 9, w 10, #v[w 11, w 12, w 13, w 14], w 15⟩

def Card.stage (c : Card) : Nat := (c.flags.extractLsb' 10 3).toNat
def Card.prio (c : Card) : Nat := (c.flags.extractLsb' 13 3).toNat
def Card.role (c : Card) : Nat := (c.flags.extractLsb' 0 2).toNat
def Card.det (c : Card) : Bool := c.flags.getLsbD 2

/-- A list's header and entries (R42): misaligned 0x05, unreadable 0x06 or 0x07, malformed 0x01. -/
def readList (s : State) (c : Ctx) (bad : Word) (va : Word) (most size : Nat) : Except FCode (State × List Bytes) :=
  if va = 0 then .ok (s, [])
  else if va.toNat % 16 ≠ 0 then .error (0x05, va)
  else match unitRead s c va 16 with
    | .error f => .error f
    | .ok (s1, h) =>
      let n := (wordAt h 0).toNat
      if n > most ∨ wordAt h 1 ≠ 0 then .error (0x01, bad)
      else match unitRead s1 c (va + 16) (n * size) with
        | .error f => .error f
        | .ok (s2, bs) => .ok (s2, (List.range n).map (fun i => (bs.drop (i * size)).take size))

/-- A footprint entry; none when it breaks R42. -/
def footEntry (bs : Bytes) : Option FootEntry :=
  let w := wordAt bs 0
  let len := (wordAt bs 1).toNat
  let base := (w.extractLsb' 0 48).toNat
  if w.extractLsb' 50 14 = 0 ∧ w.extractLsb' 48 2 ≠ 3 ∧ 1 ≤ len ∧ base + len ≤ 2 ^ 48 then
    some ⟨base, (w.extractLsb' 48 2).toNat, len⟩
  else none
/-- A wait-list entry. -/
def waitEntry (bs : Bytes) : Option TileName :=
  let w := wordAt bs 0
  if w.extractLsb' 24 40 = 0 then some ⟨(w.extractLsb' 0 16).toNat, (w.extractLsb' 16 8).toNat, coordsOf (wordAt bs 1)⟩ else none
/-- An after-list entry, below the job's own sequence number (R43). -/
def afterEntry (seq : Nat) (bs : Bytes) : Option Nat :=
  let w := wordAt bs 0
  if w.extractLsb' 48 16 = 0 ∧ w.toNat < seq then some w.toNat else none

/-- All entries, or none when one is malformed. -/
def allOf {α β : Type} (f : α → Option β) (l : List α) : Option (List β) := l.mapM f

/-! Pipelines (R51, R53). -/

/-- The pipeline and stage index that a queue serves. -/
def stageOf (y : Context) (q : Nat) : Option (List Stage × Nat) :=
  y.pipes.findSome? (fun p => (p.findIdx? (fun st => st.queue == q)).map (fun i => (p, i)))

/-- Jobs that count against a queue (R50). -/
def queued (s : State) (c : Ctx) (q : Nat) : Nat := (s.jobs.filter (fun j => decide (j.ctx = c ∧ j.queue = q))).length
/-- How many it may hold. -/
def queueCap (y : Context) (q : Nat) : Nat :=
  match stageOf y q with
  | some (p, i) => match p[i]? with | some st => st.depth | none => 256
  | none => 256

/-- R40, R41 and R90 for the fields that the card alone decides. -/
def cardOk (c : Card) : Bool :=
  decide (c.cpc ≠ 0) && decide (c.cpc.toNat % 8 = 0) && !c.mpc.getLsbD 0 && !c.vpc.getLsbD 0 && !c.cpypc.getLsbD 0 &&
  !c.xpc.getLsbD 0 && decide (c.flags.extractLsb' 16 48 = 0) && decide (c.role ≠ 3) &&
  (match c.pnode with | some n => decide (n ≤ 63) | none => true) &&
  decide (1 ≤ c.cost.toNat) && decide (c.cost.toNat ≤ 2 ^ 40 - 1) &&
  decide (c.partw.extractLsb' 32 32 = 0) && decide (pwRfg c.partw ≤ 24) && decide (pwAcg c.partw ≤ 32) && decide (pwCkg c.partw ≤ 64)

/-! Conflicts (R48, R131). -/

/-- Bytes that two entries share: from, up to. -/
def overlap (a b : FootEntry) : Option (Nat × Nat) :=
  let lo := max a.base b.base
  let hi := min (a.base + a.len) (b.base + b.len)
  if lo < hi then some (lo, hi) else none

/-- The conflicting bytes of two footprints; in deterministic mode two read-write entries do not conflict. -/
def conflicts (det : Bool) (f g : List FootEntry) : List (Nat × Nat) :=
  f.flatMap (fun a => g.filterMap (fun b =>
    if a.kind = 0 ∧ b.kind = 0 then none
    else if det ∧ a.kind = 2 ∧ b.kind = 2 then none
    else overlap a b))

/-- The jobs of a context that have not retired or ended. -/
def liveJobs (s : State) (c : Ctx) : List Job :=
  (s.jobs ++ s.slots.toList.filterMap Slot.job).filter (fun j => decide (j.ctx = c))

/-- The rows of a tile's bytes in memory: first address and length (R96). -/
def tileRows (r : Layout) (cs : List Nat) : List (Nat × Nat) :=
  (List.range (r.tile 1 * r.tile 2 * r.tile 3)).filterMap (fun m =>
    let w := min (r.tile 0) (r.dim 0 - cs.getD 0 0 * r.tile 0) * r.size
    (tileByteVa r cs (m * r.tile 0 * r.size)).map (fun a => (a.toNat, w)))

/-- Whether an interval lies in a union of rows. -/
def coveredRows (rows : List (Nat × Nat)) (lo hi : Nat) : Bool :=
  (rows.foldl (fun l p => if lo < p.1 + p.2 ∧ p.1 + p.2 < hi then setAdd l (p.1 + p.2) else l) [lo]).all (fun a =>
    rows.any (fun p => decide (p.1 ≤ a) && decide (a < p.1 + p.2)))

/-- Whether job m is ordered after job number n: its after-list names it, footprint order in one queue holds it behind it
(R49), or it is so ordered after a job that is. -/
def orderedAfter (jobs : List Job) : Nat → Job → Nat → Bool
  | 0, _, _ => false
  | fuel + 1, m, n =>
    m.after.contains n ||
    jobs.any (fun k => decide (k.seq < m.seq) &&
      (m.after.contains k.seq || (decide (k.queue = m.queue) && !(conflicts false k.foot m.foot).isEmpty)) &&
      (decide (k.seq = n) || orderedAfter jobs fuel k n))

/-- The job with which a new job is in unordered conflict, the lowest by number (R131). -/
def unordered (s : State) (j : Job) : Option Nat :=
  let jobs := liveJobs s j.ctx
  let rows := j.waits.flatMap (fun t => match findLayout s j.ctx t.handle with | some r => tileRows r t.coords | none => [])
  ((jobs.filter (fun k =>
    let c := conflicts true j.foot k.foot
    decide (k.seq < j.seq) && decide (k.queue ≠ j.queue) && !c.isEmpty &&
    !(j.after.any (fun n => n == k.seq || jobs.any (fun m => m.seq == n && orderedAfter jobs jobs.length m k.seq))) &&
    !(c.all (fun p => coveredRows rows p.1 p.2)))).map Job.seq).foldl
      (fun r n => match r with | some m => some (min m n) | none => some n) none

/-- The card fold of R221. -/
def cardFold (bs : Bytes) : Word := (List.range 16).foldl (fun g i => sigFold g (wordAt bs i)) 0

/-- Whether a job of a context runs in deterministic mode (R44). -/
def detMode (s : State) (y : Context) (c : Card) : Bool := effFlag s y.node 1 || c.det

/-- A job enters a queue (R37, R43): its card and lists are checked and copied. `word` is TRAPVAL of an illegal card, `edge` what
the SUBMIT or SPAWN edge orders (R127). A DESIGN CHOICE (notes/assumptions/79): where a card breaks several conditions of R43,
alignment and reading come first, the card's before those of the footprint, the wait and the after list, then the fields. -/
def enterQueue (s : State) (y : Context) (q : Nat) (addr : Word) (word : Word) (edge : View) :
    Except JobRefusal (State × Nat) :=
  if addr.toNat % 128 ≠ 0 then .error (.fault (0x05, addr))
  else match unitRead s y.id addr 128 with
    | .error f => .error (.fault f)
    | .ok (s1, bs) =>
      let c := cardOf addr bs
      match readList s1 y.id word c.foot 32 16 with
      | .error f => .error (.fault f)
      | .ok (s2, fl) =>
        match readList s2 y.id word c.waitl 64 16 with
        | .error f => .error (.fault f)
        | .ok (s3, wl) =>
          match readList s3 y.id word c.after 16 8 with
          | .error f => .error (.fault f)
          | .ok (s4, al) =>
            let stage := match stageOf y q with | some (_, i) => i | none => 0
            match allOf footEntry fl, allOf waitEntry wl, allOf (afterEntry y.nextSeq) al with
            | some foot, some waits, some after =>
              if !cardOk c || decide (c.stage ≠ stage) || (c.pnode.isSome && y.partner.isNone) ||
                  decide (pwSum c.partw > effGran s4 y.node) then .error (.fault (0x01, word))
              else if c.det && !feature s4 1 then .error .feature
              else if queued s4 y.id q ≥ queueCap y q then .error .full
              else
                let j0 : Job := ⟨y.id, q, y.nextSeq, c, foot, waits, after, none, false, 0, none, [], false, cardFold bs, s4.mem,
                  s4.writes, [], [], 0, 0, edge⟩
                let j := if detMode s4 y c then { j0 with conflict := unordered s4 j0 } else j0
                .ok (setCtx { s4 with jobs := s4.jobs ++ [j] } { y with nextSeq := (y.nextSeq + 1) % 2 ^ 48 }, j.seq)
            | _, _, _ => .error (.fault (0x01, word))

/-- The queue that SPAWN targets (R53, R202): a fault for a spawn depth, or for q ≠ 0 in a stage. -/
def spawnTarget (y : Context) (own q : Nat) (addr word : Word) : Except FCode Nat :=
  match stageOf y own with
  | some (p, i) =>
    if q ≠ 0 then .error (0x01, word)
    else if i + 1 ≥ 8 then .error (0x11, addr)
    else match p[i + 1]? with
      | some st => .ok st.queue
      | none => .error (0x11, addr)
  | none => match stageOf y q with
    | some (_, i) => if i = 0 then .ok q else .error (0x11, addr)
    | none => .ok q

/-- SPAWN (R202): a release at module scope (R127), of what its edge orders (R128). -/
def execSpawn (g : Guard) (sd : Reg) (a : Src) (q : BitVec 4) (nb : Bool) (s : State) : Out :=
  plain (.spawn g sd a q nb) g [a] (fun t =>
    let k := t.cur.slot
    let x := curSlot t
    let word := wordOf (.spawn g sd a q nb)
    match findCtx t x.ctx, x.job with
    | some y, some j =>
      match spawnTarget y j.queue q.toNat (src t a) word with
      | .error f => .fault f
      | .ok tq =>
        match enterQueue t y tq (src t a) word (viewOf (madeBefore t k)) with
        | .error (.fault f) => .fault f
        | .error .feature => .fault (0x01, word)
        | .error .full => if nb then .ok (put t sd 0) else .wait id
        | .ok (t1, seq) => .ok (put t1 sd (BitVec.ofNat 64 seq))
    | _, _ => .fault (0x01, word)) s

end Sys2Proof.Machine
end

