-- ==== Sys2Proof/Machine/TileCache.lean ====
section
/-! DEFINITION. Machine/TileCache.lean: the tile caches (R99 to R102), their quotas (R101), write-backs (R100), and what an
invalidation of translations does to TLBs and lines (R109 to R111). -/

namespace Sys2Proof.Machine

/-! Lines. -/

def findLine (s : State) (c : Ctx) (t : TileName) : Option TileLine := s.lines.find? (fun l => l.ctx = c ∧ l.tile = t)
/-- The lines without a tile's. -/
def dropLine (s : State) (c : Ctx) (t : TileName) : State := { s with lines := s.lines.filter (fun l => !(l.ctx = c ∧ l.tile = t)) }
/-- Stores a line, the most recently used. -/
def putLine (s : State) (l : TileLine) : State :=
  let n := (s.lines.map TileLine.used).foldl max 0 + 1
  let s1 := dropLine s l.ctx l.tile
  { s1 with lines := s1.lines ++ [{ l with used := n }] }

/-- Sectors of a tile's bytes. -/
def sectorCount (r : Layout) : Nat := (r.tileBytes + 1023) / 1024
/-- Every sector of a tile. -/
def allSectors (r : Layout) : BitVec 32 := BitVec.ofNat 32 (2 ^ min (sectorCount r) 32 - 1)
/-- KiB that a set of sectors takes. -/
def sectorKiB (m : BitVec 32) : Nat := (List.range 32).countP (fun i => m.getLsbD i)

/-- The home die of a tile (R27). -/
def tileHome (s : State) (c : Ctx) (r : Layout) (cs : List Nat) : Option Die :=
  (peek s (ctxL1 s c) (tileFirst r cs) .read).map homeOf

/-- The runs of a tile's bytes that lie in a set of sectors, by offset, virtual address and length; elements beyond the
tensor's edge have none (R98). -/
def tileSpans (r : Layout) (cs : List Nat) (m : BitVec 32) : List (Nat × Word × Nat) :=
  let row := r.tile 0 * r.size
  let w := min (r.tile 0) (r.dim 0 - cs.getD 0 0 * r.tile 0) * r.size
  (List.range (r.tile 1 * r.tile 2 * r.tile 3)).flatMap (fun k =>
    match tileByteVa r cs (k * row) with
    | none => []
    | some va =>
      (List.range 32).filterMap (fun i =>
        let lo := max (k * row) (i * 1024)
        let hi := min (k * row + w) (i * 1024 + 1024)
        if m.getLsbD i ∧ lo < hi then some (lo, va + BitVec.ofNat 64 (lo - k * row), hi - lo) else none))

/-- Translates the runs of a set of sectors (R106, R109). -/
def tileRuns (s : State) (c : Ctx) (r : Layout) (cs : List Nat) (m : BitVec 32) (acc : Access) :
    Except FCode (State × List TileRun) :=
  (tileSpans r cs m).foldl (fun res p =>
    match res with
    | .error f => .error f
    | .ok (s, l) =>
      match unitRange s c p.2.1 p.2.2 acc with
      | .error f => .error f
      | .ok (s1, ps) =>
        let gl (va : Word) : Bool := match walk s1 (ctxL1 s1 c) va with | .ok w => w.leaf.entry.getLsbD 9 | .error _ => false
        .ok (s1, l ++ ps.map (fun q => ⟨p.1 + (q.1 - p.2.1).toNat, q.1, q.2.1, q.2.2, gl q.1⟩))) (.ok (s, []))

/-- The bytes of runs as memory holds them, by offset in the tile. -/
def runBytes (s : State) (rs : List TileRun) : List (Nat × Byte) := rs.flatMap (fun p => cellsAt p.off (readBytes s p.pa p.len))
/-- Offsets that memory holds poisoned; a read of host memory may also fail whole (R391). -/
def runBad (s : State) (rs : List TileRun) : State × List Nat :=
  rs.foldl (fun r p =>
    let lost := isHost p.pa && Config.freeBool r.1.fresh
    ({ r.1 with fresh := r.1.fresh + 1 },
      r.2 ++ ((List.range p.len).filter (fun i => lost || s.poison.contains (p.pa + i))).map (p.off + ·))) (s, [])

/-- Whether a page of a set of sectors is a device page, which is never prefetched (R104). -/
def tileDevice (s : State) (c : Ctx) (r : Layout) (cs : List Nat) (m : BitVec 32) : Bool :=
  (tileSpans r cs m).any (fun p => (pieces p.2.1 p.2.2).any (fun q => devicePage s (ctxL1 s c) q.1))

/-! Write-backs (R100). -/

/-- What a line's dirty sectors write to memory, through the mapping the line was filled through. -/
def lineCells (l : TileLine) : List (Nat × Byte) :=
  l.runs.flatMap (fun p => (List.range p.len).filterMap (fun i =>
    if l.dirty.getLsbD ((p.off + i) / 1024) ∧ !l.bad.contains (p.off + i) then some (p.pa + i, cellGet l.data (p.off + i)) else none))
/-- Addresses that become poison at their home. -/
def lineBad (l : TileLine) : List Nat :=
  l.runs.flatMap (fun p => (List.range p.len).filterMap (fun i =>
    if l.dirty.getLsbD ((p.off + i) / 1024) ∧ l.bad.contains (p.off + i) then some (p.pa + i) else none))

/-- Writes a line's dirty sectors back at once, for every agent to see (R102, R212). -/
def writeBack (s : State) (l : TileLine) : State :=
  let s1 := writeAll s (lineCells l)
  { s1 with poison := setUnion s1.poison (lineBad l) }

/-- The write-backs that a test admits, of those on their way, land. -/
def landAll (s : State) (p : WriteBack → Bool) : State :=
  (s.writeBacks.filter p).foldl (fun s w => writeAll s w.data) { s with writeBacks := s.writeBacks.filter (fun w => !p w) }

/-- The write-backs of a tile that are on their way land. -/
def landWriteBacks (s : State) (c : Ctx) (t : TileName) : State := landAll s (fun w => decide (w.ctx = c ∧ w.tile = t))

/-- Evicts a line: a dirty one sets out for memory, and TILE_LINE_WRITE_BACK lands it. -/
def evictLine (s : State) (l : TileLine) : State :=
  let s1 := dropLine s l.ctx l.tile
  if l.dirty = 0 then s1
  else { s1 with writeBacks := s1.writeBacks ++ [⟨l.ctx, l.tile, l.die, lineCells l⟩],
                 poison := setUnion s1.poison (lineBad l) }

/-! Quotas (R101). -/

/-- KiB that the lines of a subtree hold on a die. -/
def subtreeKiB (s : State) (d : Die) (n : Nat) (pinnedOnly : Bool) : Nat :=
  ((s.lines.filter (fun l => l.die = d ∧ inSubtree s l.ctx n ∧ (!pinnedOnly || l.pinned))).map (fun l => sectorKiB l.sectors)).sum
/-- KiB that all lines hold on a die. -/
def dieKiB (s : State) (d : Die) : Nat := ((s.lines.filter (fun l => l.die = d)).map (fun l => sectorKiB l.sectors)).sum

/-- The least recently used unpinned line that a test admits. -/
def oldest (s : State) (p : TileLine → Bool) : Option TileLine :=
  (s.lines.filter (fun l => p l && !l.pinned)).foldl
    (fun r l => match r with | some m => if l.used < m.used then some l else some m | none => some l) none

/-- Makes room for `need` KiB of a context on a die; none when every line it could evict is pinned, and then nothing is
evicted (R101). `keep` is the line that grows. A DESIGN CHOICE (notes/assumptions/24): of the nodes of its path whose TCQ the
allocation would exceed, the one nearest the leaf gives up a line first. -/
def makeRoom (c : Ctx) (d : Die) (need : Nat) (keep : TileName) : Nat → State → Option State
  | 0, _ => none
  | fuel + 1, s =>
    let path := match findCtx s c with | some y => regionPath s y.node | none => []
    let mine (l : TileLine) : Bool := decide (l.die = d) && !(l.ctx = c ∧ l.tile = keep)
    match path.find? (fun n => decide (subtreeKiB s d n false + need > effTcq s n * 1024)) with
    | some n => match oldest s (fun l => mine l && inSubtree s l.ctx n) with
      | some l => makeRoom c d need keep fuel (evictLine s l)
      | none => none
    | none =>
      if dieKiB s d + need > 131072 then
        match oldest s mine with
        | some l => makeRoom c d need keep fuel (evictLine s l)
        | none => none
      else some s

/-- How an access finds a tile: a line that holds its sectors, or no line at all (R101). -/
inductive Tiled where
  | line (s : State) (l : TileLine)
  | bypass (s : State)
  | fault (f : FCode)

/-- Fills what an access needs of a tile (R99, R100): a miss takes the sectors from memory at the tile's home. -/
def fillTile (s : State) (c : Ctx) (r : Layout) (t : TileName) (m : BitVec 32) : Tiled :=
  match unitTranslate s c (tileFirst r t.coords) .read with
  | .error f => .fault f
  | .ok (s0, first) =>
    let s1 := landWriteBacks s0 c t
    let old := findLine s1 c t
    let home := match old with | some l => l.die | none => homeOf first
    let have' : BitVec 32 := match old with | some l => l.sectors | none => 0
    let miss := m &&& ~~~have' &&& allSectors r
    match tileRuns s1 c r t.coords miss .read with
    | .error f => .fault f
    | .ok (s2, rs) =>
      match (if miss = 0 then some s2 else makeRoom c home (sectorKiB miss) t (s2.lines.length + 1) s2) with
      | none => .bypass s2
      | some s3 =>
        let l0 : TileLine := old.getD ⟨home, c, t, 0, 0, false, [], [], [], 0⟩
        let (s4, bad) := runBad s3 rs
        let l1 : TileLine := { l0 with
          sectors := l0.sectors ||| miss
          data := cellsSet l0.data (runBytes s3 rs)
          bad := setUnion l0.bad bad
          runs := l0.runs ++ rs }
        let s4 := putLine s4 l1
        .line s4 ((findLine s4 c t).getD l1)

/-- One byte of a tile, through the tile path: none for an element beyond the edge, which reads zero (R98). -/
def tileRead (s : State) (c : Ctx) (r : Layout) (t : TileName) (b : Nat) : Except FCode (State × Byte) :=
  match tileByteVa r t.coords b with
  | none => .ok (s, 0)
  | some va =>
    match fillTile s c r t (1 <<< (b / 1024)) with
    | .fault f => .error f
    | .line s1 l => if l.bad.contains b then .error (0x13, va) else .ok (s1, cellGet l.data b)
    | .bypass s1 =>
      match unitRead s1 c va 1 with
      | .error f => .error f
      | .ok (s2, bs) => .ok (s2, bs.headD 0)

/-- Stores one byte of a tile, through the tile path: dropped beyond the edge, discarded after the advance point (R308). -/
def tileWrite (s : State) (k : SlotId) (c : Ctx) (r : Layout) (t : TileName) (b : Nat) (v : Byte) : Except FCode State :=
  match tileByteVa r t.coords b with
  | none => .ok s
  | some va =>
    match unitTranslate s c va .write with
    | .error f => .error f
    | .ok (s0, pa) =>
      if !lands s0 k then .ok s0
      else match fillTile s0 c r t (1 <<< (b / 1024)) with
        | .fault f => .error f
        | .line s1 l =>
          .ok (putLine s1 { l with data := cellSet l.data b v, dirty := l.dirty ||| (1 <<< (b / 1024)), bad := setClear l.bad b 1 })
        | .bypass s1 => .ok (writeAll s1 [(pa, v)])

/-! Invalidation (R109, R110). -/

/-- The kinds of TLBINV and TLB_INVALIDATE (R219). -/
inductive TlbKind where
  | all
  | asid (c : Ctx)
  | page (c : Ctx) (page : Nat)
deriving DecidableEq, Repr

/-- The kind of an operand a: ASID a[11:0], or page a[47:16] of ASID a[63:52]. -/
def tlbAsid (a : Word) : TlbKind := .asid (a.extractLsb' 0 12)
def tlbPage (a : Word) : TlbKind := .page (a.extractLsb' 52 12) (a.extractLsb' 16 32).toNat

/-- Whether a cached entry covers a 64 KiB page. -/
def TlbEntry.coversPage (t : TlbEntry) (page : Nat) : Bool :=
  decide (t.vpage = if t.level = 1 then page / 2 ^ 26 else if t.level = 2 then page / 2 ^ 13 else page)

/-- Whether an entry is removed. -/
def TlbKind.removes (q : TlbKind) (t : TlbEntry) : Bool :=
  match q with
  | .all => true
  | .asid c => decide (t.asid = c) && !t.global
  | .page c p => t.coversPage p && (decide (t.asid = c) || t.global)

/-- Whether a line is dropped: a covered page backs one of its bytes. -/
def TlbKind.drops (q : TlbKind) (l : TileLine) : Bool :=
  match q with
  | .all => true
  | .asid c => decide (l.ctx = c) && l.runs.any (fun r => !r.global)
  | .page c p => l.runs.any (fun r => decide ((r.va.toNat + r.len - 1) / 65536 % 2 ^ 32 ≥ p ∧ r.va.toNat / 65536 % 2 ^ 32 ≤ p) &&
      (decide (l.ctx = c) || r.global))

/-- Whether an invalidation is one by an ASID, or covers it. -/
def TlbKind.ofAsid (q : TlbKind) (c : Ctx) : Bool :=
  match q with
  | .all => true
  | .asid a => decide (a = c)
  | .page _ _ => false

/-- A TLB invalidation, complete: entries removed everywhere, dirty lines written back through the old mapping, lines
dropped, and a pin that is lost remembered (R109, R110). -/
def tlbInvalidate (s : State) (q : TlbKind) : State :=
  let gone := s.lines.filter q.drops
  let s1 := gone.foldl writeBack s
  let s2 := landAll s1 (fun _ => true)
  { s2 with
    cores := s2.cores.map (fun c => { c with
      tlbs := c.tlbs.map (fun l => l.filter (fun t => !q.removes t))
      walks := c.walks.filter (fun t => !q.removes t) })
    lines := s2.lines.filter (fun l => !q.drops l)
    revoked := s2.revoked ++ (gone.filter TileLine.pinned).map (fun l => (l.ctx, l.tile))
    invalidating := s2.invalidating.filter (fun c => !q.ofAsid c) }

/-- Whether an access of a context through a page may go through what is removed. -/
def TlbKind.mayCover (q : TlbKind) (c : Ctx) (va : Word) : Bool :=
  match q with
  | .all => true
  | .asid a => decide (a = c)
  | .page _ p => decide (va.toNat / 65536 % 2 ^ 32 = p)

/-- Whether an access already translated through what is removed has not landed (R109): a read or an AtomicOp that the host has not
answered. -/
def inFlight (s : State) (q : TlbKind) : Bool :=
  s.slots.toList.any (fun x => x.reply.isNone && match x.await with
    | some (.hostRead va _ _) | some (.hostAtomic va _ _) => q.mayCover x.ctx va
    | _ => false)

/-- An invalidation begins, and completes when the accesses in flight have landed: meanwhile its ASID is busy (R111). -/
def beginInvalidate (s : State) (q : TlbKind) : State :=
  match q with
  | .asid c => if s.invalidating.contains c then s else { s with invalidating := s.invalidating ++ [c] }
  | _ => s

end Sys2Proof.Machine
end

