-- ==== Sys2Proof/Machine/Tiles.lean ====
section
/-! DEFINITION. Machine/Tiles.lean: readiness (R208 to R210, R285) and the tile words (R211 to R214), with the events that
finish them. -/

namespace Sys2Proof.Machine

/-! Readiness. -/

def isReady (s : State) (d : Die) (c : Ctx) (t : TileName) : Bool := s.ready.any (fun e => decide (e.die = d ∧ e.ctx = c ∧ e.tile = t))
def findCount (s : State) (c : Ctx) (handle gen : Nat) : Option ReadyCount :=
  s.counts.find? (fun e => e.ctx = c ∧ e.handle = handle ∧ e.gen = gen)
/-- The completed-tile counter of a tensor generation (R285). -/
def tileCount (s : State) (c : Ctx) (handle gen : Nat) : Nat :=
  match findCount s c handle gen with | some e => e.count | none => 0
/-- The counter raised by 1, at the die that holds it, with what the RDYSET releases (R127). -/
def raiseCount (s : State) (d : Die) (c : Ctx) (handle gen : Nat) (rel : Release) (edge : View) : State :=
  let e := (findCount s c handle gen).getD ⟨d, c, handle, gen, 0, [], []⟩
  { s with counts := s.counts.filter (fun e => !(e.ctx = c ∧ e.handle = handle ∧ e.gen = gen)) ++
      [{ e with die := d, count := e.count + 1, rels := addRelease e.rels rel, edge := e.edge.join edge }] }
/-- Whether the table of a die takes another entry of a context (R35, R285, R286). -/
def readyRoom (s : State) (d : Die) (c : Ctx) : Bool :=
  let path := match findCtx s c with | some y => regionPath s y.node | none => []
  decide ((s.ready.filter (fun e => e.die = d)).length < 16384) &&
  path.all (fun n => decide ((s.ready.filter (fun e => e.die = d ∧ inSubtree s e.ctx n)).length < effRdyq s n))

/-- What the edge of an RDYSET orders (R128): the job's writes that happen before it, to bytes of the published tile. -/
def tileEdge (s : State) (k : SlotId) (r : Layout) (t : TileName) : View :=
  let pas := (tileRows r t.coords).flatMap (fun p => (pieces (BitVec.ofNat 64 p.1) p.2).filterMap (fun q =>
    let l1 := ctxL1 s (getSlot s k).ctx
    ((peek s l1 q.1 .read).orElse (fun _ => peek s l1 q.1 .write)).map (fun pa => (pa, q.2))))
  viewOf ((madeBefore s k).filter (fun m => pas.any (fun p => decide (p.1 ≤ m.1) && decide (m.1 < p.1 + p.2))))

/-- What RDYSET does when it reaches the home die (R209): sd, or the stale-readiness fault. -/
def publish (s : State) (k : SlotId) (home counter : Die) (a : Word) (t : TileName) (rel : Release) (edge : View) :
    Except FCode (State × Word) :=
  let c := (getSlot s k).ctx
  match findLayout s c t.handle with
  | none => .error (0x0A, a)
  | some r =>
    if t.gen ≠ r.gen then .error (0x0A, a)
    else if !lands s k then .ok (s, 2)
    else
      let s1 := raiseCount s counter c t.handle t.gen rel edge
      if isReady s1 home c t then
        .ok ({ s1 with ready := s1.ready.map (fun e => if e.die = home ∧ e.ctx = c ∧ e.tile = t then
          { e with rels := addRelease e.rels rel, edge := e.edge.join edge } else e) }, 0)
      else if readyRoom s1 home c then .ok ({ s1 with ready := s1.ready ++ [⟨home, c, t, [rel], edge⟩] }, 0)
      else .ok (s1, 1)

/-- The tile and its generation operand (R208). -/
def readyOperand (s : State) (c : Ctx) (a b : Word) : Except FCode (Layout × TileName) :=
  match tileNamed s c a b with
  | .error f => .error f
  | .ok (r, t) => .ok (r, { t with gen := (a.extractLsb' 16 8).toNat })

/-- The homes of the tile and of the tensor's counter (R208): two bytes translated as a tile fill does. -/
def readyHomes (s : State) (c : Ctx) (r : Layout) (t : TileName) : Except (State × FCode) (State × Die × Die) :=
  match unitTranslate s c (tileFirst r t.coords) .read with
  | .error f => .error (s, f)
  | .ok (s1, p1) => match unitTranslate s1 c (tileFirst r [0, 0, 0, 0]) .read with
    | .error f => .error (s1, f)
    | .ok (s2, p2) => .ok (s2, homeOf p1, homeOf p2)

/-- RDYSET (R209): at its own die it is applied at once; to another it travels, and RDYSET_APPLY completes it. -/
def execRdyset (g : Guard) (sd : Reg) (a b : Src) (s : State) : Out :=
  plain (.rdyset g sd a b) g [a, b] (fun t =>
    let k := t.cur.slot
    let c := (curSlot t).ctx
    match readyOperand t c (src t a) (src t b) with
    | .error f => .fault f
    | .ok (r, tile) =>
      match readyHomes t c r tile with
      | .error (t1, f) => .late t1 f
      | .ok (t1, home, counter) =>
        let rel : Release := { releaseOf t1 k 0 6 with known := (releaseOf t1 k 0 6).known.memory }
        let edge := tileEdge t1 k r tile
        if home = dieOf k then
          match publish t1 k home counter (src t a) tile rel edge with
          | .error f => .late t1 f
          | .ok (t2, v) => .ok (put t2 sd v)
        else .send (fun u =>
          let u1 := { t1 with slots := u.slots }
          { modCur u1 (fun x => { x with await := some (.rdyset sd) }) with
            remoteReady := u1.remoteReady ++ [⟨home, k, c, src t a, tile, counter, rel, edge⟩] })) s

/-- RDYTEST (R210): a result of 1 is an acquire at module scope of the RDYSETs that it observes. -/
def execRdytest (g : Guard) (pd : Pred) (a b : Src) (s : State) : Out :=
  plain (.rdytest g pd a b) g [a, b] (fun t =>
    let k := t.cur.slot
    let c := (curSlot t).ctx
    match readyOperand t c (src t a) (src t b) with
    | .error f => .fault f
    | .ok (r, tile) =>
      match readyHomes t c r tile with
      | .error (t1, f) => .late t1 f
      | .ok (t1, home, _) =>
        if tile.gen ≠ r.gen then .late t1 (0x0A, src t a)
        else
          let whole := decide (tileCount t1 c tile.handle tile.gen = r.tcount)
          let rels := (match t1.ready.find? (fun e => e.die = home ∧ e.ctx = c ∧ e.tile = tile) with | some e => e.rels | none => []) ++
            (if whole then (match findCount t1 c tile.handle tile.gen with | some e => e.rels | none => []) else [])
          let t2 := modOrder t1 k 0 (fun o => o.acquire t1 (issuerOf t1 k 0) 6 rels)
          .ok (modCur t2 (fun x => x.writeP pd (isReady t1 home c tile || whole)))) s

/-- RDYSET_APPLY (R209, R308): the oldest RDYSET on its way to a die is applied there, and its word completes. -/
def execRdysetApply (die : Die) (s : State) : Out :=
  match s.remoteReady.find? (fun q => q.die = die) with
  | none => .next s
  | some q =>
    let s1 := { s with remoteReady := s.remoteReady.eraseP (fun q => q.die = die) }
    let x := getSlot s1 q.slot
    match x.await with
    | some (.rdyset sd) =>
      if x.ctx ≠ q.ctx then .next s1
      else match publish s1 q.slot die q.counterDie q.a q.tile q.rel q.edge with
        | .error f =>
          .next (takeFault (modSlot s1 q.slot (fun y => { y with await := none, wait := none })) q.slot
            ⟨f.1, f.2, 0, x.pc, 0, none, none⟩)
        | .ok (s2, v) =>
          .next (modSlot s2 q.slot (fun y =>
            let srcs := match y.wait with | some (.rdyset _ _ a b) => [a, b] | _ => []
            { (y.markDead srcs).writeS sd v with await := none, wait := none, pc := y.pc + 8 }))
    | _ => .next s1

/-! Tile words. -/

/-- A fill is asked for, and not waited for (R211). -/
def askFill (s : State) (c : Ctx) (t : TileName) (m : BitVec 32) : State := { s with fills := s.fills ++ [⟨c, t, m⟩] }

/-- The tiles of TCPREF: c, then up to n further along dimension d (R211). -/
def prefTiles (r : Layout) (cs : List Nat) (d n : Nat) : List (List Nat) :=
  if d ≥ r.ndim then [cs]
  else (List.range (n + 1)).filterMap (fun i => let x := cs.getD d 0 + i; if x < r.tilesIn d then some (cs.set d x) else none)

/-- TCPREF (R211). -/
def execTcpref (g : Guard) (a b : Src) (dim : BitVec 2) (n : BitVec 4) (s : State) : Out :=
  plain (.tcpref g a b dim n) g [a, b] (fun t =>
    let c := (curSlot t).ctx
    match tileNamed t c (src t a) (src t b) with
    | .error f => .fault f
    | .ok (r, tile) =>
      .ok ((prefTiles r tile.coords dim.toNat n.toNat).foldl (fun u cs => askFill u c { tile with coords := cs } (allSectors r)) t)) s

/-- The local coordinate of byte b's element along dimension d. -/
def localCoord (r : Layout) (b d : Nat) : Nat :=
  let e := b / r.size
  match d with
  | 0 => e % r.tile 0
  | 1 => e / r.tile 0 % r.tile 1
  | 2 => e / (r.tile 0 * r.tile 1) % r.tile 2
  | _ => e / (r.tile 0 * r.tile 1 * r.tile 2)

/-- The sectors that hold elements within w of a face of a tile (R211). -/
def faceSectors (r : Layout) (d w : Nat) (high : Bool) : BitVec 32 :=
  (List.range r.tileBytes).foldl (fun m b =>
    let x := localCoord r b d
    if (high ∧ x + w ≥ r.tile d) ∨ (!high ∧ x < w) then m ||| (1 <<< (b / 1024)) else m) 0

/-- TCHALO (R211): the brim of each face neighbour that exists. -/
def execTchalo (g : Guard) (a b c : Src) (s : State) : Out :=
  plain (.tchalo g a b c) g [a, b, c] (fun t =>
    let x := (curSlot t).ctx
    match tileNamed t x (src t a) (src t b) with
    | .error f => .fault f
    | .ok (r, tile) =>
      .ok ((List.range r.ndim).foldl (fun u d =>
        let w := ((src t c).extractLsb' (8 * d) 8).toNat
        let cd := tile.coords.getD d 0
        if w = 0 then u
        else
          let u1 := if cd ≥ 1 then askFill u x { tile with coords := tile.coords.set d (cd - 1) } (faceSectors r d w true) else u
          if cd + 1 < r.tilesIn d then askFill u1 x { tile with coords := tile.coords.set d (cd + 1) } (faceSectors r d w false)
          else u1) t)) s

/-- The tiles that TCINV and TCCLEAN name (R212): every tile of the handle's current generation, or one. -/
def named (s : State) (c : Ctx) (a b : Word) (whole : Bool) : Except FCode (TileName → Bool) :=
  let h := (a.extractLsb' 0 16).toNat
  if whole then
    match findLayout s c h with
    | none => .error (0x07, a)
    | some r => .ok (fun t => decide (t.handle = h ∧ t.gen = r.gen))
  else match tileNamed s c a b with
    | .error f => .error f
    | .ok (_, t) => .ok (fun u => decide (u = t))

/-- The lines of the tiles named. -/
def affected (s : State) (c : Ctx) (p : TileName → Bool) : List TileLine := s.lines.filter (fun l => decide (l.ctx = c) && p l.tile)

/-- R214: a write entry for every byte of every line affected; for a pin, a read or write entry. -/
def detTiles (x : Slot) (kind : DetKind) (rs : List (Word × Nat)) : Option FCode :=
  if x.deterministic then
    rs.findSome? (fun p => detEntry (match x.job with | some j => j.foot | none => []) kind p.1.toNat p.2)
  else none

/-- TCINV (R212): lines dropped, dirty data discarded, a pin lost without pin-revoked; what eviction has sent to memory lands first
(R102). A DESIGN CHOICE (notes/assumptions/80): the bytes of a line are those of the sectors that it holds (R214). -/
def execTcinv (g : Guard) (a b : Src) (whole : Bool) (s : State) : Out :=
  plain (.tcinv g a b whole) g [a, b] (fun t =>
    let c := (curSlot t).ctx
    match named t c (src t a) (src t b) whole with
    | .error f => .fault f
    | .ok p =>
      let ls := affected t c p
      match detTiles (curSlot t) .write (ls.flatMap (fun l => l.runs.map (fun r => (r.va, r.len)))) with
      | some f => .fault f
      | none => .ok (ls.foldl (fun u l => dropLine u c l.tile) (landAll t (fun w => decide (w.ctx = c) && p w.tile)))) s

/-- TCCLEAN (R212): dirty sectors written back; the lines stay, clean. What eviction has sent to memory lands (R102). -/
def execTcclean (g : Guard) (a b : Src) (whole : Bool) (s : State) : Out :=
  plain (.tcclean g a b whole) g [a, b] (fun t =>
    let c := (curSlot t).ctx
    match named t c (src t a) (src t b) whole with
    | .error f => .fault f
    | .ok p =>
      let ls := affected t c p
      match detTiles (curSlot t) .write (ls.flatMap (fun l => l.runs.map (fun r => (r.va, r.len)))) with
      | some f => .fault f
      | none =>
        let u := ls.foldl writeBack (landAll t (fun w => decide (w.ctx = c) && p w.tile))
        .ok { u with lines := u.lines.map (fun l => if ls.any (fun m => m.ctx = l.ctx ∧ m.tile = l.tile) then { l with dirty := 0 } else l) }) s

/-- Whether pinning a tile keeps every subtree's pinned lines within TCQ (R101). -/
def pinFits (s : State) (d : Die) (c : Ctx) (t : TileName) (kib : Nat) : Bool :=
  let path := match findCtx s c with | some y => regionPath s y.node | none => []
  let own := match findLine s c t with | some l => if l.pinned then sectorKiB l.sectors else 0 | none => 0
  path.all (fun n => decide (subtreeKiB s d n true - own + kib ≤ effTcq s n * 1024))

/-- TCPIN (R213): filled, pinned, pin-revoked cleared; refused with 1 under R101. -/
def execTcpin (g : Guard) (sd : Reg) (a b : Src) (s : State) : Out :=
  plain (.tcpin g sd a b) g [a, b] (fun t =>
    let c := (curSlot t).ctx
    match tileNamed t c (src t a) (src t b) with
    | .error f => .fault f
    | .ok (r, tile) =>
      match detTiles (curSlot t) .read ((tileSpans r tile.coords (allSectors r)).map (fun p => (p.2.1, p.2.2))) with
      | some f => .fault f
      | none =>
        match fillTile t c r tile (allSectors r) with
        | .fault f => .fault f
        | .bypass _ => .ok (put t sd 1)
        | .line t1 l =>
          if !pinFits t1 l.die c tile (sectorKiB (allSectors r)) then .ok (put t sd 1)
          else
            let t2 := putLine t1 { l with pinned := true }
            .ok (put { t2 with revoked := t2.revoked.filter (fun p => !(p.1 = c ∧ p.2 = tile)) } sd 0)) s

/-- TCUNPIN (R213). -/
def execTcunpin (g : Guard) (a b : Src) (s : State) : Out :=
  plain (.tcunpin g a b) g [a, b] (fun t =>
    let c := (curSlot t).ctx
    match tileNamed t c (src t a) (src t b) with
    | .error f => .fault f
    | .ok (_, tile) =>
      .ok { t with lines := t.lines.map (fun l => if l.ctx = c ∧ l.tile = tile then { l with pinned := false } else l) }) s

/-- The state word of TCLOOK (R213). -/
def lookWord (s : State) (c : Ctx) (r : Layout) (t : TileName) : Word :=
  let rev := s.revoked.any (fun p => p.1 = c ∧ p.2 = t)
  match findLine s c t with
  | some l => fieldAt l.sectors 32 ||| BitVec.ofNat 64 (l.die.val * 16) ||| b2w rev <<< 3 ||| b2w l.pinned <<< 2 |||
      b2w (decide (l.dirty ≠ 0)) <<< 1 ||| 1
  | none => match tileHome s c r t.coords with
    | some h => BitVec.ofNat 64 (h.val * 16) ||| b2w rev <<< 3
    | none => 1 <<< 6 ||| b2w rev <<< 3

/-- TCLOOK (R213): it never fills and is never an access. -/
def execTclook (g : Guard) (sd : Reg) (a b : Src) (s : State) : Out :=
  plain (.tclook g sd a b) g [a, b] (fun t =>
    let c := (curSlot t).ctx
    match tileNamed t c (src t a) (src t b) with
    | .error f => .fault f
    | .ok (r, tile) => .ok (put t sd (lookWord t c r tile))) s

/-! Events. -/

/-- TILE_LINE_FILL (R99, R100): a fill asked for by a prefetch completes; one that would fault, or of a device page (R104), fetches
nothing. -/
def execTileLineFill (index : Nat) (s : State) : Out :=
  match s.fills[index]? with
  | none => .next s
  | some q =>
    let s1 := { s with fills := s.fills.eraseIdx index }
    match findLayout s1 q.ctx q.tile.handle with
    | none => .next s1
    | some r =>
      if r.gen ≠ q.tile.gen || tileDevice s1 q.ctx r q.tile.coords q.sectors then .next s1
      else match fillTile s1 q.ctx r q.tile q.sectors with
        | .line s2 _ => .next s2
        | .bypass _ => .next s1
        | .fault _ => .next s1

/-- TILE_LINE_WRITE_BACK (R100): an evicted line's dirty sectors reach memory. -/
def execTileLineWriteBack (index : Nat) (s : State) : Out :=
  match s.writeBacks[index]? with
  | none => .next s
  | some w => .next { writeAll s w.data with writeBacks := s.writeBacks.eraseIdx index }

end Sys2Proof.Machine
end

