-- ==== Sys2Proof/Machine/Copy.lean ====
section
/-! DEFINITION. Machine/Copy.lean: the copy words (R234 to R241), the bytes they move, and the copy chains (R204 to R207). -/

namespace Sys2Proof.Machine

/-- Where one byte of a copy comes from or goes to. -/
inductive Place where
  | mem (va : Word)
  | sp (a : Nat)
  | tile (r : Layout) (t : TileName) (b : Nat)
  | fixed (v : Byte)
  | drop
deriving DecidableEq, Repr

/-- A copy: how many bytes, and each byte's places in the order in which they are counted (R236 to R241). -/
structure Plan where
  total : Nat
  src   : Nat → Place
  dst   : Nat → Place

/-- An address operand in its space (R234). -/
def spaceAt (sp : Bool) (a : Word) : Place := if sp then .sp a.toNat else .mem a

def lo32 (v : Word) : Nat := v.toNat % 2 ^ 32
def hi32 (v : Word) : Nat := v.toNat / 2 ^ 32
/-- A signed 32-bit field as a 64-bit addend. -/
def sx32 (v : Nat) : Word := (BitVec.ofNat 32 v).signExtend 64

/-- The three-dimensional copy of R236, of which CPY1D and CPY2D are special cases. -/
def plan3 (ssp dsp : Bool) (dst src : Word) (len rows planes : Nat) (spitch dpitch splane dplane : Word) : Plan :=
  { total := planes * (rows * len)
    src := fun n => spaceAt ssp (src + BitVec.ofNat 64 (n / (rows * len)) * splane +
      BitVec.ofNat 64 (n / len % rows) * spitch + BitVec.ofNat 64 (n % len))
    dst := fun n => spaceAt dsp (dst + BitVec.ofNat 64 (n / (rows * len)) * dplane +
      BitVec.ofNat 64 (n / len % rows) * dpitch + BitVec.ofNat 64 (n % len)) }

/-- The scratchpad address of byte b of a box of elements (R237): extents t0, t1, t2 and element size. -/
def boxAddr (size t0 t1 t2 : Nat) (spaddr pitch : Word) (b : Nat) : Nat :=
  let e := b / size
  let x0 := e % t0
  (spaddr + BitVec.ofNat 64 (x0 * size + b % size) +
    BitVec.ofNat 64 (e / t0 % t1 + t1 * (e / (t0 * t1) % t2 + t2 * (e / (t0 * t1 * t2)))) * pitch).toNat

/-- CPYT (R237). -/
def planTile (r : Layout) (t : TileName) (toTile : Bool) (spaddr pitch : Word) : Plan :=
  let box (n : Nat) : Place := .sp (boxAddr r.size (r.tile 0) (r.tile 1) (r.tile 2) spaddr pitch n)
  if toTile then { total := r.tileBytes, src := fun n => if (tileByteVa r t.coords n).isSome then box n else .fixed 0,
                   dst := fun n => if (tileByteVa r t.coords n).isSome then .tile r t n else .drop }
  else { total := r.tileBytes, src := fun n => .tile r t n, dst := box }

/-- The extent of a brim box along dimension n: w across the face. -/
def brimExtent (r : Layout) (d w n : Nat) : Nat := if n = d then w else r.tile n

/-- The byte of the neighbour tile that byte b of the brim is (R238). -/
def brimByte (r : Layout) (d w : Nat) (side : Bool) (b : Nat) : Nat :=
  let e := b / r.size
  let x (n : Nat) : Nat :=
    let t := brimExtent r d w
    let v := if n = 0 then e % t 0 else if n = 1 then e / t 0 % t 1 else if n = 2 then e / (t 0 * t 1) % t 2
      else e / (t 0 * t 1 * t 2)
    if n = d ∧ !side then r.tile d - w + v else v
  (x 0 + r.tile 0 * (x 1 + r.tile 1 * (x 2 + r.tile 2 * x 3))) * r.size + b % r.size

/-- The face neighbour of a tile, if it exists. -/
def neighbour (r : Layout) (t : TileName) (d : Nat) (side : Bool) : Option TileName :=
  let c := t.coords.getD d 0
  if side then (if c + 1 < r.tilesIn d then some { t with coords := t.coords.set d (c + 1) } else none)
  else (if c ≥ 1 then some { t with coords := t.coords.set d (c - 1) } else none)

/-- CPYTB (R238). -/
def planBrim (r : Layout) (t : TileName) (d : Nat) (side : Bool) (w : Nat) (spaddr pitch : Word) : Plan :=
  let x := brimExtent r d w
  { total := x 0 * x 1 * x 2 * x 3 * r.size
    src := fun n => match neighbour r t d side with
      | some u => .tile r u (brimByte r d w side n)
      | none => .fixed 0
    dst := fun n => .sp (boxAddr r.size (x 0) (x 1) (x 2) spaddr pitch n) }

/-- CPYG and CPYS (R239). -/
def planIndexed (scatter ssp dsp : Bool) (dst src : Word) (idx : List Nat) (len rows : Nat) (pitch : Word) : Plan :=
  let at' (n : Nat) : Word := BitVec.ofNat 64 (idx.getD (n / len) 0)
  { total := rows * len
    src := fun n => spaceAt ssp (src + (if scatter then BitVec.ofNat 64 (n / len * len) else at' n * pitch) + BitVec.ofNat 64 (n % len))
    dst := fun n => spaceAt dsp (dst + (if scatter then at' n * pitch else BitVec.ofNat 64 (n / len * len)) + BitVec.ofNat 64 (n % len)) }

/-- CPYFILL (R240). -/
def planFill (dsp : Bool) (dst pattern : Word) (len : Nat) : Plan :=
  { total := len, src := fun n => .fixed (pattern.extractLsb' (8 * (n % 8)) 8), dst := fun n => spaceAt dsp (dst + BitVec.ofNat 64 n) }

/-- No bytes. -/
def planNone : Plan := { total := 0, src := fun _ => .drop, dst := fun _ => .drop }

/-- The index array of CPYG and CPYS. -/
def readIndices (s : State) (k : SlotId) (a : Word) (rows : Nat) : List Nat :=
  (List.range rows).map (fun i => spNat s k (a.toNat + 4 * i) 4)

/-- The copy that a launch of the copy stream makes; a tile's record is the handle's current one (R235). -/
def copyPlan (s : State) (k : SlotId) (op : Instr) (vals : List Word) (idx : List Nat) : Except FCode Plan :=
  let c := (getSlot s k).ctx
  match op, vals with
  | .cpy1d dsp ssp, [_, dst, src, len] => .ok (plan3 ssp dsp dst src len.toNat 1 1 0 0 0 0)
  | .cpy2d dsp ssp, [_, dst, src, shape, p] =>
    .ok (plan3 ssp dsp dst src (lo32 shape) (hi32 shape) 1 (sx32 (lo32 p)) (sx32 (hi32 p)) 0 0)
  | .cpy3d dsp ssp, [_, dst, src, shape, p, planes, spl, dpl] =>
    .ok (plan3 ssp dsp dst src (lo32 shape) (hi32 shape) (lo32 planes) (sx32 (lo32 p)) (sx32 (hi32 p)) spl dpl)
  | .cpyt dir, [_, a, b, sp, pitch] =>
    match tileNamed s c a b with
    | .error f => .error f
    | .ok (r, t) => .ok (planTile r t dir sp pitch)
  | .cpytb d side, [_, a, b, sp, wp] =>
    match tileNamed s c a b with
    | .error f => .error f
    | .ok (r, t) => .ok (planBrim r t d.toNat side (wp.toNat % 2 ^ 16) sp (BitVec.ofNat 64 (hi32 wp)))
  | .cpyg dsp ssp, [_, dst, src, _, shape, pitch] => .ok (planIndexed false ssp dsp dst src idx (lo32 shape) (hi32 shape) pitch)
  | .cpys dsp ssp, [_, dst, src, _, shape, pitch] => .ok (planIndexed true ssp dsp dst src idx (lo32 shape) (hi32 shape) pitch)
  | .cpyfill dsp, [_, dst, pattern, len] => .ok (planFill dsp dst pattern len.toNat)
  | _, _ => .ok planNone

/-! One byte. -/

/-- Translate(va, access) through an engine's stream TLB (R107, R234). The page after the one in use, in the direction in which the
command advances, may be prefetched. -/
def streamTranslate (s : State) (k : SlotId) (e : EngId) (va : Word) (acc : Access) (up : Bool) : Except FCode (State × Leaf) :=
  let c := (getSlot s k).ctx
  match translateAs s (coreOf k) e c (ctxL1 s c) va acc with
  | .error f => .error f
  | .ok (s1, w) =>
    let page : Word := match walk s1 (ctxL1 s1 c) va with | .ok x => if x.big then 2 ^ 29 else 65536 | .error _ => 65536
    let next := if up then va + page else va - page
    match walk s1 (ctxL1 s1 c) next with
    | .ok n =>
      if next.extractLsb' 48 16 = 0 then
        let s2 := { s1 with fresh := s1.fresh + 1 }
        .ok (if Config.freeBool s1.fresh then tlbFill s2 (coreOf k) e c next n else s2, w)
      else .ok (s1, w)
    | .error _ => .ok (s1, w)

/-- A key for a place that a copy has overwritten: physical addresses below 2^44, own and remote scratchpad above. -/
def placeKey (s : State) (k : SlotId) (pa : Option Nat) : Place → Option Nat
  | .mem _ => pa
  | .sp a => (spAt s k a).map (fun p => 2 ^ 44 + spPlace p.1 p.2)
  | _ => none

/-- What a copy carries from byte to byte: what it has overwritten, what it knows, and its holding buffer (R241, R354). -/
structure Moving where
  saved  : List (Nat × Byte)
  order  : Order
  buffer : Option (Byte × Bool)
deriving DecidableEq, Repr

/-- A byte of a copy that cannot be read or written: what translation has done stands. -/
structure CopyStop where
  s : State
  m : Moving
  f : FCode

/-- The address of a place, as accessed. -/
def Place.addr : Place → Word
  | .mem va => va
  | .sp a => BitVec.ofNat 64 a
  | .tile r t b => (tileByteVa r t.coords b).getD 0
  | .fixed _ => 0
  | .drop => 0

/-- Reads a byte of a copy's source. A byte that the same copy has overwritten reads as the new value or as it stood before
the copy (R241). -/
def readPlace (s : State) (k : SlotId) (m : Moving) (p : Place) (up : Bool) : Except CopyStop (State × Moving × Byte) :=
  let pick (s : State) (key : Option Nat) (now : Byte) : State × Byte :=
    match key.bind (fun n => m.saved.find? (fun q => q.1 = n)) with
    | some q => ({ s with fresh := s.fresh + 1 }, if Config.freeBool s.fresh then q.2 else now)
    | none => (s, now)
  match p with
  | .mem va =>
    match streamTranslate s k 3 va .read up with
    | .error f => .error ⟨s, m, f⟩
    | .ok (s1, w) =>
      match readBad s1 w.pa 1 with
      | (s2, some _) => .error ⟨s2, m, (0x13, va)⟩
      | (s2, none) =>
        let q := agentRead s2 k (dieOf k) 3 m.order va w.pa 1 none
        let (s3, v) := pick q.1 (some w.pa) (byteAt q.1 q.2.2 w.pa)
        .ok (s3, { m with order := q.2.1 }, v)
  | .sp a =>
    if spBad s k a then .error ⟨s, m, (0x13, BitVec.ofNat 64 a)⟩
    else
      let (s1, v) := pick (noteOobs s k 3 false [a]) (placeKey s k none p) (spGet s k a)
      .ok (s1, m, v)
  | .tile r t b =>
    match tileRead s (getSlot s k).ctx r t b with
    | .error f => .error ⟨s, m, f⟩
    | .ok (s1, v) => .ok (s1, m, v)
  | .fixed v => .ok (s, m, v)
  | .drop => .ok (s, m, 0)

/-- What a copy has overwritten, the first value of each place. -/
def Moving.overwrites (m : Moving) (old : List (Nat × Byte)) : Moving :=
  { m with saved := m.saved ++ old.filter (fun q => !m.saved.any (fun r => r.1 = q.1)) }

/-- Stores a byte at a copy's destination. -/
def writePlace (s : State) (k : SlotId) (m : Moving) (p : Place) (v : Byte) (up : Bool) : Except CopyStop (State × Moving) :=
  match p with
  | .mem va =>
    match streamTranslate s k 3 va .write up with
    | .error f => .error ⟨s, m, f⟩
    | .ok (s1, w) =>
      let q := agentWrite s1 k 3 m.order va [(w.pa, v)] none []
      .ok (settleDevice q.1 w.device w.pa 1, { m.overwrites [(w.pa, cellGet s1.mem w.pa)] with order := q.2 })
  | .sp a =>
    .ok (spPut (noteOobs s k 3 true [a]) k a v,
      m.overwrites (match placeKey s k none p with | some n => [(n, spGet s k a)] | none => []))
  | .tile r t b =>
    match tileWrite s k (getSlot s k).ctx r t b v with
    | .error f => .error ⟨s, m, f⟩
    | .ok s1 => .ok (s1, m)
  | .fixed _ => .ok (s, m)
  | .drop => .ok (s, m)

/-- Whether a copy advances upwards from a byte on, by the places of that byte and of the last. -/
def rises (f : Nat → Place) (n total : Nat) : Bool := decide ((f n).addr.toNat ≤ (f (total - 1)).addr.toNat)

/-- The next byte to land: the one in the holding buffer, else the next of the source (R354). A held byte that an error has made
poison raises 0x13, and is read again (R29, R30; notes/assumptions/59). -/
def nextByte (s : State) (k : SlotId) (p : Plan) (n : Nat) (m : Moving) : Except CopyStop (State × Moving × Byte) :=
  match m.buffer with
  | some (v, bad) =>
    if bad then .error ⟨s, { m with buffer := none }, (0x13, (p.src n).addr)⟩ else .ok (s, { m with buffer := none }, v)
  | none => readPlace s k m (p.src n) (rises p.src n p.total)

/-- Byte n of a plan lands, and counts into the barrier of the completion word as one event (R196). A byte read that cannot land
waits in the holding buffer (R354). -/
def landByte (s : State) (k : SlotId) (p : Plan) (n : Nat) (cw : Word) (m : Moving) : Except CopyStop (State × Moving) :=
  match nextByte s k p n m with
  | .error e => .error e
  | .ok (s1, m1, v) =>
    match writePlace s1 k m1 (p.dst n) v (rises p.dst n p.total) with
    | .error e => .error { e with m := { e.m with buffer := some (v, false) } }
    | .ok (s2, m2) => .ok (countByte s2 k cw m2.order.cur, m2)

/-- Whether a place lies in a device page (R104). -/
def Place.device (s : State) (k : SlotId) : Place → Bool
  | .mem va => devicePage s (ctxL1 s (getSlot s k).ctx) va
  | _ => false

/-! Checks at the word (R234, R235). -/

def lengthOk (v : Word) : Bool := decide (1 ≤ v.toNat) && decide (v.toNat ≤ 2 ^ 48 - 1)
def shapeOk (v : Word) : Bool := decide (1 ≤ lo32 v) && decide (1 ≤ hi32 v)
/-- A scratchpad operand has [63:32] zero. -/
def spaceOk (sp : Bool) (v : Word) : Bool := !sp || decide (hi32 v = 0)

/-- The values of a copy word; its tile faults too (R235, R237, R238). -/
def copyCheck (i : Instr) (s : State) (k : SlotId) (_ : EngStream) (vals : List Word) : Option FCode :=
  let bad : Option FCode := some (0x0D, wordOf i)
  let need (b : Bool) : Option FCode := if b then none else bad
  let c := (getSlot s k).ctx
  match i, vals with
  | .cpy1d dsp ssp, [_, dst, src, len] => need (spaceOk dsp dst && spaceOk ssp src && lengthOk len)
  | .cpy2d dsp ssp, [_, dst, src, shape, _] => need (spaceOk dsp dst && spaceOk ssp src && shapeOk shape)
  | .cpy3d dsp ssp, [_, dst, src, shape, _, planes, _, _] =>
    need (spaceOk dsp dst && spaceOk ssp src && shapeOk shape && decide (1 ≤ planes.toNat) && decide (hi32 planes = 0))
  | .cpyt _, [_, a, b, sp, pitch] =>
    match tileNamed s c a b with
    | .error f => some f
    | .ok (r, _) => need (spaceOk true sp && decide (r.tile 0 * r.size ≤ pitch.toNat))
  | .cpytb d _, [_, a, b, sp, wp] =>
    match tileNamed s c a b with
    | .error f => some f
    | .ok (r, _) =>
      let w := wp.toNat % 2 ^ 16
      need (decide (d.toNat < r.ndim) && spaceOk true sp && decide (wp.extractLsb' 16 16 = 0) && decide (1 ≤ w) &&
        decide (w ≤ r.tile d.toNat) && decide (brimExtent r d.toNat w 0 * r.size ≤ hi32 wp))
  | .cpyg dsp ssp, [_, dst, src, idx, shape, _] => need (spaceOk dsp dst && spaceOk ssp src && spaceOk true idx && shapeOk shape)
  | .cpys dsp ssp, [_, dst, src, idx, shape, _] => need (spaceOk dsp dst && spaceOk ssp src && spaceOk true idx && shapeOk shape)
  | .cpyfill dsp, [_, dst, _, len] => need (spaceOk dsp dst && lengthOk len)
  | _, _ => bad

/-! Spans (R233) and memory ranges (R133). -/

/-- The lowest and highest address of a strided box, from a base. -/
def boxSpan (base : Int) (terms : List (Int × Nat)) : Int × Int :=
  terms.foldl (fun p t => let e := t.1 * ((t.2 : Int) - 1); (p.1 + min e 0, p.2 + max e 0)) (base, base)

/-- A scratchpad span of a box. -/
def spBox (s : State) (k : SlotId) (sp : Bool) (base : Word) (terms : List (Int × Nat)) : List (Nat × Nat) :=
  if sp then let p := boxSpan base.toNat terms; spSpan s k p.1 p.2 else []

/-- The memory rows of a box. -/
def memRows (sp : Bool) (base : Word) (len rows planes : Nat) (pitch plane : Word) : List (Nat × Nat) :=
  if sp then []
  else (List.range planes).flatMap (fun p => (List.range rows).map (fun y =>
    ((base + BitVec.ofNat 64 p * plane + BitVec.ofNat 64 y * pitch).toNat, len)))

/-- The whole scratchpad that a base names (R233). -/
def wholeSp (s : State) (k : SlotId) (sp : Bool) (base : Word) : List (Nat × Nat) :=
  if sp && decide (base.toNat < 2 ^ 29) then
    match spTarget s k (base.toNat / 2 ^ 26) with
    | some t => if 0 < spSize (getSlot s t) then [(spPlace t 0, spPlace t (spSize (getSlot s t)))] else []
    | none => []
  else []

/-- What a copy launch reads and writes. -/
def copyReach (i : Instr) (s : State) (k : SlotId) (vals : List Word) : Reach :=
  let c := (getSlot s k).ctx
  let tileMem (a b : Word) (nb : Option (Nat × Bool)) : List (Nat × Nat) :=
    match tileNamed s c a b with
    | .error _ => []
    | .ok (r, t) =>
      match (match nb with | some (d, side) => neighbour r t d side | none => some t) with
      | some u => tileRows r u.coords
      | none => []
  let boxOf (a b : Word) (d w : Nat) : List (Int × Nat) × Int :=
    match tileNamed s c a b with
    | .error _ => ([], 0)
    | .ok (r, _) =>
      let x := fun n => if d < 4 then brimExtent r d w n else r.tile n
      ([((1 : Int), x 0 * r.size)], ((x 1 * x 2 * x 3 : Nat) : Int))
  match i, vals with
  | .cpy1d dsp ssp, [_, dst, src, len] =>
    ⟨spBox s k ssp src [(1, len.toNat)], spBox s k dsp dst [(1, len.toNat)], memRows ssp src len.toNat 1 1 0 0, memRows dsp dst len.toNat 1 1 0 0⟩
  | .cpy2d dsp ssp, [_, dst, src, shape, p] =>
    let sp := sx32 (lo32 p)
    let dp := sx32 (hi32 p)
    ⟨spBox s k ssp src [(1, lo32 shape), (sp.toInt, hi32 shape)], spBox s k dsp dst [(1, lo32 shape), (dp.toInt, hi32 shape)],
     memRows ssp src (lo32 shape) (hi32 shape) 1 sp 0, memRows dsp dst (lo32 shape) (hi32 shape) 1 dp 0⟩
  | .cpy3d dsp ssp, [_, dst, src, shape, p, planes, spl, dpl] =>
    let sp := sx32 (lo32 p)
    let dp := sx32 (hi32 p)
    ⟨spBox s k ssp src [(1, lo32 shape), (sp.toInt, hi32 shape), (spl.toInt, lo32 planes)],
     spBox s k dsp dst [(1, lo32 shape), (dp.toInt, hi32 shape), (dpl.toInt, lo32 planes)],
     memRows ssp src (lo32 shape) (hi32 shape) (lo32 planes) sp spl, memRows dsp dst (lo32 shape) (hi32 shape) (lo32 planes) dp dpl⟩
  | .cpyt dir, [_, a, b, sp, pitch] =>
    let (row, n) := boxOf a b 4 0
    let box := spBox s k true sp (row ++ [((pitch.toNat : Int), n.toNat)])
    let m := tileMem a b none
    if dir then ⟨box, [], [], m⟩ else ⟨[], box, m, []⟩
  | .cpytb d side, [_, a, b, sp, wp] =>
    let (row, n) := boxOf a b d.toNat (wp.toNat % 2 ^ 16)
    ⟨[], spBox s k true sp (row ++ [(((hi32 wp : Nat) : Int), n.toNat)]), tileMem a b (some (d.toNat, side)), []⟩
  | .cpyg dsp ssp, [_, dst, src, idx, shape, pitch] =>
    ⟨spBox s k true idx [(1, 4 * hi32 shape)] ++ wholeSp s k ssp src, spBox s k dsp dst [(1, lo32 shape * hi32 shape)],
     (if ssp then [] else (readIndices s k idx (hi32 shape)).map (fun j => ((src + BitVec.ofNat 64 j * pitch).toNat, lo32 shape))),
     memRows dsp dst (lo32 shape * hi32 shape) 1 1 0 0⟩
  | .cpys dsp ssp, [_, dst, src, idx, shape, pitch] =>
    ⟨spBox s k true idx [(1, 4 * hi32 shape)] ++ spBox s k ssp src [(1, lo32 shape * hi32 shape)], wholeSp s k dsp dst,
     memRows ssp src (lo32 shape * hi32 shape) 1 1 0 0,
     (if dsp then [] else (readIndices s k idx (hi32 shape)).map (fun j => ((dst + BitVec.ofNat 64 j * pitch).toNat, lo32 shape)))⟩
  | .cpyfill dsp, [_, dst, _, len] => ⟨[], spBox s k dsp dst [(1, len.toNat)], [], memRows dsp dst len.toNat 1 1 0 0⟩
  | _, _ => ⟨[], [], [], []⟩

/-- Nothing to prepare at issue. -/
def prepareNone (s : State) (_ : SlotId) (_ : Fin 4) (_ : List Word) : State × Option Word × BitVec 3 := (s, none, 0)

/-- A copy word: legal in the copy stream; its completion may name a remote barrier. -/
def copyWord (i : Instr) (pops : Nat) (s : State) : Out :=
  launchWord i (decide (s.cur.eng = 3)) pops true (copyCheck i) (copyReach i) prepareNone s

def execCpy1d (dsp ssp : Bool) (s : State) : Out := copyWord (.cpy1d dsp ssp) 4 s
def execCpy2d (dsp ssp : Bool) (s : State) : Out := copyWord (.cpy2d dsp ssp) 5 s
def execCpy3d (dsp ssp : Bool) (s : State) : Out := copyWord (.cpy3d dsp ssp) 8 s
def execCpyt (dir : Bool) (s : State) : Out := copyWord (.cpyt dir) 5 s
def execCpytb (d : BitVec 2) (side : Bool) (s : State) : Out := copyWord (.cpytb d side) 5 s
def execCpyg (dsp ssp : Bool) (s : State) : Out := copyWord (.cpyg dsp ssp) 6 s
def execCpys (dsp ssp : Bool) (s : State) : Out := copyWord (.cpys dsp ssp) 6 s
def execCpyfill (dsp : Bool) (s : State) : Out := copyWord (.cpyfill dsp) 4 s

/-! Copy chains. -/

def getChan (s : State) (k : SlotId) (c : Fin 2) : Channel := (getSlot s k).chans[c]
def setChan (s : State) (k : SlotId) (c : Fin 2) (y : Channel) : State :=
  modSlot s k (fun x => { x with chans := x.chans.set c.val y c.isLt })
/-- The channel of a ch field. -/
def chanOf (ch : Bool) : Fin 2 := if ch then 1 else 0

/-- Whether a channel is processing a record, or is halted at one (R205). -/
def Channel.busy (c : Channel) : Bool := c.bound && !c.stop && !c.idle

/-- CPCHAIN bind (R205). -/
def execCpchainBind (g : Guard) (sd : Reg) (a b : Src) (ch : Bool) (s : State) : Out :=
  plain (.cpchainBind g sd a b ch) g [a, b] (fun t =>
    let k := t.cur.slot
    let size := (src t b).toNat % 512
    if (getChan t k (chanOf ch)).busy then .ok (put t sd 1)
    else if (src t a).toNat % 64 ≠ 0 then .fault (0x05, src t a)
    else if !([1, 2, 4, 8, 16, 32, 64, 128, 256].contains size) then .ok (put t sd 2)
    else .ok (put (setChan t k (chanOf ch) { Channel.reset with
      bound := true, ring := src t a, size := size, order := { Order.empty with cur := (streamOrder t k 0).cur } }) sd 0)) s
/-- CPCHAIN kick: a release at job scope towards the channel, as bind is. -/
def execCpchainKick (g : Guard) (sd : Reg) (ch : Bool) (s : State) : Out :=
  plain (.cpchainKick g sd ch) g [] (fun t =>
    let k := t.cur.slot
    let c := getChan t k (chanOf ch)
    if !c.bound then .ok (put t sd 3)
    else .ok (put (setChan t k (chanOf ch) { c with idle := false, order := c.order.learn (streamOrder t k 0).cur }) sd 0)) s
/-- CPCHAIN stop: it waits while a record is in progress. -/
def execCpchainStop (g : Guard) (sd : Reg) (ch : Bool) (s : State) : Out :=
  plain (.cpchainStop g sd ch) g [] (fun t =>
    let k := t.cur.slot
    let n := chanOf ch
    let c := getChan t k n
    if !c.bound then .ok (put t sd 3)
    else if c.rcd.isSome ∨ c.halt.isSome then
      .wait (fun x => { x with chans := x.chans.set n.val { x.chans[n] with stopping := true } n.isLt })
    else .ok (put (setChan t k n { c with stop := true, stopping := false, idle := false }) sd 0)) s
/-- CPSTAT (R207). -/
def execCpstat (g : Guard) (sd : Reg) (ch : Bool) (s : State) : Out :=
  plain (.cpstat g sd ch) g [] (fun t => .ok (put t sd (cpstatWord (getChan t t.cur.slot (chanOf ch))))) s

/-- The virtual address of the record at HEAD. -/
def Channel.recordVa (c : Channel) : Word := c.ring + BitVec.ofNat 64 (64 * c.head)

/-- Reads n 64-bit words through the channel's stream TLB, with what the channel knows then; the first, CTL, as an acquire at job
scope when `acq` says so. -/
def chanRead (s : State) (k : SlotId) (o : Order) (va : Word) (n : Nat) (acq : Bool) :
    Except (State × FCode) (State × Order × Bytes) :=
  (List.range n).foldl (fun r i =>
    match r with
    | .error e => .error e
    | .ok (s, o, bs) =>
      let a := va + BitVec.ofNat 64 (8 * i)
      match streamTranslate s k 3 a .read true with
      | .error f => .error (s, f)
      | .ok (s1, w) =>
        match readBad s1 w.pa 8 with
        | (s2, some j) => .error (s2, 0x13, a + BitVec.ofNat 64 j)
        | (s2, none) =>
          let q := agentRead s2 k (dieOf k) 3 o a w.pa 8 (if acq && decide (i = 0) then some 1 else none)
          .ok (q.1, q.2.1, bs ++ bytesAt q.1 q.2.2 w.pa 8))
    (.ok (s, o, []))

/-- The record in its 64 bytes. -/
def recordOf (bs : Bytes) : ChainRec :=
  let w := wordAt bs
  ⟨w 0, w 1, w 2, w 3, w 4, w 5, w 6, w 7⟩
def ChainRec.kind (r : ChainRec) : Nat := (r.ctl.extractLsb' 2 2).toNat
def ChainRec.given (r : ChainRec) : Nat := (r.ctl.extractLsb' 16 48).toNat
def ChainRec.total (r : ChainRec) : Nat := r.len.toNat * lo32 r.rows

/-- Step 2 of R206. -/
def recordOk (s : State) (r : ChainRec) : Bool :=
  decide (r.kind ≠ 3) && decide (r.ctl.extractLsb' 4 4 = 0) && completionOk s true r.cmpl && lengthOk r.len &&
  decide (hi32 r.rows = 0) && decide (1 ≤ lo32 r.rows) && (decide (r.kind = 1) || decide (lo32 r.rows = 1)) &&
  decide (r.total ≤ 2 ^ 48 - 1) && decide (r.given ≤ r.total)

/-- The copy of a record (R204). -/
def recordPlan (r : ChainRec) : Plan :=
  if r.kind = 2 then planFill false r.dst r.src r.len.toNat
  else plan3 false false r.dst r.src r.len.toNat (lo32 r.rows) 1 r.spitch r.dpitch 0 0

/-- What a record reads and writes (R206). A DESIGN CHOICE (notes/assumptions/81): deterministic mode asks for entries for the bytes
that the record copies, and none for the channel's own reads of the record and writes of CTL. -/
def recordReach (r : ChainRec) : Reach :=
  let rows := lo32 r.rows
  ⟨[], [], if r.kind = 2 then [] else memRows false r.src r.len.toNat rows 1 r.spitch 0,
   memRows false r.dst r.len.toNat rows 1 r.dpitch 0⟩

/-- How step 1 and step 2 come out: idle, a record to process, or a fault that halts the channel. -/
inductive ChainStart where
  | idle (s : State) (c : Channel)
  | go (s : State) (c : Channel)
  | halt (s : State) (h : ChainHalt) (c : Channel) (f : FCode)

/-- Reads and checks the record at HEAD (R206 steps 1 and 2). -/
def chainStart (s : State) (k : SlotId) (c : Channel) : ChainStart :=
  let va := c.recordVa
  match chanRead s k c.order va 1 true with
  | .error (s1, f) => .halt s1 .read c f
  | .ok (s1, o, ctl) =>
    if !(wordAt ctl 0).getLsbD 0 then .idle s1 { c with order := o }
    else match chanRead s1 k o (va + 8) 7 false with
      | .error (s2, f) => .halt s2 .read c f
      | .ok (s2, o2, rest) =>
        let r := recordOf (ctl ++ rest)
        let c1 := { c with done := r.given, rcd := some r, order := o2 }
        if !recordOk s2 r then .halt s2 .check c1 (0x01, va)
        else
          let x := getSlot s2 k
          match detLaunch x o2.cur.accs (5 + x.checker) (fun _ => recordReach r) with
          | .error f => .halt s2 .check c1 f
          | .ok (d, ids) =>
            .go (modSlot s2 k (fun x => { x with det := d, checker := x.checker + 1 }))
              { c1 with saved := [], buffer := none, order := o2.learn ⟨[], ids⟩ }

/-- Whether a channel may act: bound, running, and the job not stopping (R354). -/
def chanRuns (s : State) (k : SlotId) (c : Channel) : Bool :=
  c.bound && !c.stop && !c.idle && c.halt.isNone && (getSlot s k).stop.isNone

/-- CHAIN_RECORD_READ (R206 steps 1 and 2). -/
def execChainRecordRead (slot : SlotId) (ch : Fin 2) (s : State) : Out :=
  let c := getChan s slot ch
  if chanRuns s slot c && c.rcd.isNone then
    match chainStart s slot c with
    | .idle s1 c1 => .next (setChan s1 slot ch { c1 with idle := true })
    | .go s1 c1 => .next (setChan s1 slot ch c1)
    | .halt _ _ _ _ => .next s
  else .next s

/-- CTL with OWN, ERR, FCODE and DONE given. -/
def ctlWord (old : Word) (own err : Bool) (code : BitVec 8) (done : Nat) : Word :=
  b2w own ||| b2w err <<< 1 ||| (old &&& 0xFC) ||| fieldAt code 8 ||| BitVec.ofNat 64 (done % 2 ^ 48 * 2 ^ 16)

/-- Writes CTL of the record at HEAD, as one release at a scope when it is one (R206). -/
def writeCtl (s : State) (k : SlotId) (c : Channel) (v : Word) (rel : Option Nat) : Except (State × FCode) (State × Channel) :=
  match streamTranslate s k 3 c.recordVa .write true with
  | .error f => .error (s, f)
  | .ok (s1, w) =>
    let q := agentWrite s1 k 3 c.order c.recordVa (cellsAt w.pa (toBytes 8 v)) rel []
    .ok (settleDevice q.1 w.device w.pa 8, { c with order := q.2 })

/-- The scope at which a record's end is released (R206). -/
def cmplScope (s : State) (k : SlotId) (w : Word) : Nat :=
  let c := completionOf w
  if c.none' || !c.isBar then 1 else (getBarrier s (completionCore k c) c.idx).scope.toNat

/-- What a copy of a channel carries. -/
def Channel.moving (c : Channel) : Moving := ⟨c.saved, c.order, c.buffer⟩
def Channel.move (c : Channel) (m : Moving) : Channel := { c with saved := m.saved, order := m.order, buffer := m.buffer }

/-- A channel that has been continued first makes CTL show no error, or makes the CTL write that is due (R206). -/
def chanFix (s : State) (k : SlotId) (c : Channel) (r : ChainRec) : Except (State × FCode) (State × Channel) :=
  if c.fix then
    match writeCtl s k c (ctlWord r.ctl true false 0 c.done) none with
    | .error e => .error e
    | .ok (s1, c1) => .ok (s1, { c1 with fix := false, code := 0 })
  else .ok (s, c)

/-- One byte of a record: the channel that halts with a fault is as given. -/
def chanByte (s : State) (k : SlotId) (ch : Fin 2) (c : Channel) (r : ChainRec) : Except (State × Channel × FCode) State :=
  match chanFix s k c r with
  | .error (s1, f) => .error (s1, c, f)
  | .ok (s1, c1) =>
    match landByte s1 k (recordPlan r) c1.done r.cmpl c1.moving with
    | .error e => .error (e.s, c1.move e.m, e.f)
    | .ok (s2, m) => .ok (setChan s2 k ch { c1.move m with done := c1.done + 1 })

/-- The channel leaves a record: HEAD advances, and a stop that was asked for takes effect (R205, R206). -/
def Channel.advance (c : Channel) (counted : Bool) : Channel :=
  { c with head := (c.head + 1) % c.size, nrec := if counted then c.nrec + 1 else c.nrec, rcd := none, halt := none,
           abandon := false, fix := false, code := 0, pending := none, saved := [], buffer := none, done := 0,
           stop := c.stopping, stopping := false }

/-- Step 4 of R206, or the abandoning of R392: CTL is written, CMPL completes, HEAD advances. -/
def chanFinish (s : State) (k : SlotId) (ch : Fin 2) (c : Channel) : Except (State × FCode) State :=
  if c.abandon then
    -- ERR, FCODE and DONE as they stand: those that the channel holds, else those of a record that it could not read
    let held : Except (State × FCode) (State × Channel × Word × Word) := match c.rcd with
      | some r => .ok (s, c, ctlWord r.ctl false true c.code c.done, r.cmpl)
      | none => match chanRead s k c.order c.recordVa 2 false with
        | .error e => .error e
        | .ok (s1, o, bs) => .ok (s1, { c with order := o }, wordAt bs 0 &&& ~~~1, wordAt bs 1)
    match held with
    | .error e => .error e
    | .ok (s1, c1, v, cmpl) =>
      match writeCtl s1 k c1 v (some (cmplScope s1 k cmpl)) with
      | .error e => .error e
      | .ok (s2, c2) =>
        let s3 := if completionOk s2 true cmpl then completeInto s2 k 3 cmpl c2.order.cur else s2
        .ok (setChan s3 k ch (c2.advance false))
  else match c.rcd with
    | none => .ok s
    | some r =>
      match writeCtl s k c (ctlWord r.ctl false false 0 r.total) (some (cmplScope s k r.cmpl)) with
      | .error e => .error e
      | .ok (s1, c1) => .ok (setChan (completeInto s1 k 3 r.cmpl c1.order.cur) k ch (c1.advance true))

/-- Whether a channel is at the end of its record. -/
def Channel.atEnd (c : Channel) : Bool := c.abandon || (match c.rcd with | some r => decide (c.done ≥ r.total) | none => false)

/-- CHAIN_RECORD_COMPLETE (R206 step 4, R392). -/
def execChainRecordComplete (slot : SlotId) (ch : Fin 2) (s : State) : Out :=
  let c := getChan s slot ch
  if c.atEnd && (chanRuns s slot c || (c.abandon && (getSlot s slot).stop.isNone)) then
    match chanFinish s slot ch c with
    | .ok s1 => .next s1
    | .error _ => .next s
  else .next s

/-- A channel halts at its record with a fault: CTL shows it when it can be written (R206, R392). -/
def chanHalt (s : State) (k : SlotId) (ch : Fin 2) (h : ChainHalt) (c : Channel) (f : FCode) : State :=
  let ctl := match c.rcd with | some r => r.ctl | none => 0
  let (s1, c1) := if h = .byte ∨ h = .check then
      (match writeCtl s k c (ctlWord ctl true true f.1 c.done) none with | .ok u => u | .error e => (e.1, c))
    else (s, c)
  chanFault (setChan s1 k ch { c1 with halt := some h, abandon := false, code := f.1 }) k ch f

/-- CHAIN_FAULT (R206, R392): the channel's next action meets a fault, and the channel halts. -/
def execChainFault (slot : SlotId) (ch : Fin 2) (s : State) : Out :=
  let c := getChan s slot ch
  let runs := chanRuns s slot c || (c.abandon && (getSlot s slot).stop.isNone)
  if !runs then .next s
  else if c.atEnd then
    match chanFinish s slot ch c with
    | .error (s1, f) => .next (chanHalt s1 slot ch .ctlWrite c f)
    | .ok _ => .next s
  else match c.rcd with
    | none => match chainStart s slot c with
      | .halt s1 h c1 f => .next (chanHalt s1 slot ch h c1 f)
      | _ => .next s
    | some r => match chanByte s slot ch c r with
      | .error (s1, c1, f) => .next (chanHalt s1 slot ch .byte c1 f)
      | .ok _ => .next s

/-! Bytes that land. -/

/-- What a copy launch carries. -/
def Launch.moving (l : Launch) : Moving := ⟨l.saved, l.order, l.buffer⟩
def Launch.move (l : Launch) (m : Moving) : Launch := { l with saved := m.saved, order := m.order, buffer := m.buffer }

/-- The next byte of a launch of the copy stream. -/
def launchByte (s : State) (k : SlotId) (l : Launch) : Except CopyStop (State × Launch) :=
  match copyPlan s k l.op l.vals (l.idx.getD []) with
  | .error f => .error ⟨s, l.moving, f⟩
  | .ok p =>
    match landByte s k p l.prog (l.vals.headD 0) l.moving with
    | .error e => .error e
    | .ok (s1, m) => .ok (s1, { l.move m with prog := l.prog + 1 })

/-- A byte from or to a device page waits for the launches of the copy stream before it: accesses of one stream to device pages take
effect in program order (R104). -/
def deviceHold (s : State) (k : SlotId) (i : Nat) (l : Launch) : Bool :=
  decide (i ≠ 0) && match copyPlan s k l.op l.vals (l.idx.getD []) with
    | .error _ => false
    | .ok p => (p.src l.prog).device s k || (p.dst l.prog).device s k

/-- Bytes of a copy launch. -/
def copyTotal (s : State) (k : SlotId) (l : Launch) : Nat :=
  match copyPlan s k l.op l.vals (l.idx.getD []) with | .ok p => p.total | .error _ => l.prog + 1

/-- COPY_BYTE_LAND (R196, R241): the next byte of a started copy, or of a channel's record, lands. -/
def execCopyByteLand (slot : SlotId) (source : LandSource) (s : State) : Out :=
  match source with
  | .launch i =>
    let y := getEng s slot 2
    match y.launches[i]? with
    | none => .next s
    | some l =>
      if !(getSlot s slot).launchRuns l.seq ∨ !l.started ∨ l.parked ∨ y.faulted = some l.seq ∨ l.prog ≥ copyTotal s slot l ∨
          deviceHold s slot i l then .next s
      else match launchByte s slot l with
        | .error _ => .next s
        | .ok (s1, l1) => .next (modEng s1 slot 2 (fun z => { z with launches := z.launches.set i l1 }))
  | .channel ch =>
    let c := getChan s slot ch
    match c.rcd with
    | none => .next s
    | some r =>
      if !chanRuns s slot c ∨ c.done ≥ r.total then .next s
      else match chanByte s slot ch c r with
        | .error _ => .next s
        | .ok s1 => .next s1

end Sys2Proof.Machine
end

