-- ==== Sys2Proof/Machine/Integer.lean ====
section
/-! DEFINITION. Machine/Integer.lean: the integer, immediate and predicate words (R162 to R172). -/

namespace Sys2Proof.Machine

/-- A word that propagates poison (R160) and writes one scalar from the slot's values. -/
def alu (i : Instr) (g : Guard) (sd : Reg) (srcs : List Src) (f : Slot → Word) (s : State) : Out :=
  control i true false g srcs (fun t =>
    if (firstPoison (curSlot t) srcs).isSome then .ok (modCur t (fun x => x.writePoison sd))
    else .ok (put t sd (f (curSlot t)))) s

/-- A word of two sources. -/
def alu2 (i : Instr) (g : Guard) (sd : Reg) (a b : Src) (f : Word → Word → Word) (s : State) : Out :=
  alu i g sd [a, b] (fun x => f (x.readS a.reg) (x.readS b.reg)) s
/-- A word of three sources. -/
def alu3 (i : Instr) (g : Guard) (sd : Reg) (a b c : Src) (f : Word → Word → Word → Word) (s : State) : Out :=
  alu i g sd [a, b, c] (fun x => f (x.readS a.reg) (x.readS b.reg) (x.readS c.reg)) s
/-- A word of one source. -/
def alu1 (i : Instr) (g : Guard) (sd : Reg) (a : Src) (f : Word → Word) (s : State) : Out :=
  alu i g sd [a] (fun x => f (x.readS a.reg)) s

/-! Results (R163 to R168). -/

/-- The high half of a signed product. -/
def mulhS (a b : Word) : Word := BitVec.ofInt 64 (a.toInt * b.toInt / 2 ^ 64)
/-- The high half of an unsigned product. -/
def mulhU (a b : Word) : Word := BitVec.ofNat 64 (a.toNat * b.toNat / 2 ^ 64)
/-- DIV (R164): toward zero; all ones for a zero divisor; −2^63 over −1 wraps. -/
def divS (a b : Word) : Word := if b = 0 then BitVec.allOnes 64 else BitVec.ofInt 64 (a.toInt.tdiv b.toInt)
/-- DIVU. -/
def divU (a b : Word) : Word := if b = 0 then BitVec.allOnes 64 else BitVec.ofNat 64 (a.toNat / b.toNat)
/-- REM: the sign of the dividend; the dividend for a zero divisor. -/
def remS (a b : Word) : Word := if b = 0 then a else BitVec.ofInt 64 (a.toInt.tmod b.toInt)
/-- REMU. -/
def remU (a b : Word) : Word := if b = 0 then a else BitVec.ofNat 64 (a.toNat % b.toNat)
/-- The low six bits of a shift count. -/
def sh6 (b : Word) : Nat := b.toNat % 64
def rotR (a b : Word) : Word := if sh6 b = 0 then a else (a >>> sh6 b) ||| (a <<< (64 - sh6 b))
def minS (a b : Word) : Word := if a.toInt ≤ b.toInt then a else b
def maxS (a b : Word) : Word := if a.toInt ≤ b.toInt then b else a
def minU (a b : Word) : Word := if a.toNat ≤ b.toNat then a else b
def maxU (a b : Word) : Word := if a.toNat ≤ b.toNat then b else a
/-- Zero bits above the highest 1 bit; 64 for zero. -/
def clz64 (a : Word) : Word := if a = 0 then 64 else BitVec.ofNat 64 (63 - a.toNat.log2)
/-- Zero bits below the lowest 1 bit; 64 for zero. -/
def ctz64 (a : Word) : Word := BitVec.ofNat 64 (((List.range 64).find? (fun i => a.getLsbD i)).getD 64)
/-- One bits. -/
def popc64 (a : Word) : Word := BitVec.ofNat 64 ((List.range 64).countP (fun i => a.getLsbD i))
/-- BEXT: the field of a at b[5:0] of length c[6:0]. -/
def bextW (a b c : Word) : Word :=
  BitVec.ofNat 64 (a.toNat / 2 ^ sh6 b % 2 ^ min (c.toNat % 128) 64)
/-- BINS: the low bits of b at c[5:0], of length c[14:8]. -/
def binsW (a b c : Word) : Word :=
  let mask : Word := BitVec.ofNat 64 ((2 ^ min (c.toNat / 256 % 128) 64 - 1) * 2 ^ sh6 c)
  (a &&& ~~~mask) ||| ((b <<< sh6 c) &&& mask)

/-- NOP (R162). -/
def execNop (g : Guard) (s : State) : Out := control (.nop g) true false g [] .ok s
def execAdd (g : Guard) (sd : Reg) (a b : Src) (s : State) : Out := alu2 (.add g sd a b) g sd a b (· + ·) s
def execSub (g : Guard) (sd : Reg) (a b : Src) (s : State) : Out := alu2 (.sub g sd a b) g sd a b (· - ·) s
def execMul (g : Guard) (sd : Reg) (a b : Src) (s : State) : Out := alu2 (.mul g sd a b) g sd a b (· * ·) s
def execMulh (g : Guard) (sd : Reg) (a b : Src) (s : State) : Out := alu2 (.mulh g sd a b) g sd a b mulhS s
def execMulhu (g : Guard) (sd : Reg) (a b : Src) (s : State) : Out := alu2 (.mulhu g sd a b) g sd a b mulhU s
def execDiv (g : Guard) (sd : Reg) (a b : Src) (s : State) : Out := alu2 (.div g sd a b) g sd a b divS s
def execDivu (g : Guard) (sd : Reg) (a b : Src) (s : State) : Out := alu2 (.divu g sd a b) g sd a b divU s
def execRem (g : Guard) (sd : Reg) (a b : Src) (s : State) : Out := alu2 (.rem g sd a b) g sd a b remS s
def execRemu (g : Guard) (sd : Reg) (a b : Src) (s : State) : Out := alu2 (.remu g sd a b) g sd a b remU s
def execAnd (g : Guard) (sd : Reg) (a b : Src) (s : State) : Out := alu2 (.and g sd a b) g sd a b (· &&& ·) s
def execOr (g : Guard) (sd : Reg) (a b : Src) (s : State) : Out := alu2 (.or g sd a b) g sd a b (· ||| ·) s
def execXor (g : Guard) (sd : Reg) (a b : Src) (s : State) : Out := alu2 (.xor g sd a b) g sd a b (· ^^^ ·) s
def execAndn (g : Guard) (sd : Reg) (a b : Src) (s : State) : Out := alu2 (.andn g sd a b) g sd a b (fun x y => x &&& ~~~y) s
def execShl (g : Guard) (sd : Reg) (a b : Src) (s : State) : Out := alu2 (.shl g sd a b) g sd a b (fun x y => x <<< sh6 y) s
def execShr (g : Guard) (sd : Reg) (a b : Src) (s : State) : Out := alu2 (.shr g sd a b) g sd a b (fun x y => x >>> sh6 y) s
def execSra (g : Guard) (sd : Reg) (a b : Src) (s : State) : Out :=
  alu2 (.sra g sd a b) g sd a b (fun x y => x.sshiftRight (sh6 y)) s
def execRor (g : Guard) (sd : Reg) (a b : Src) (s : State) : Out := alu2 (.ror g sd a b) g sd a b rotR s
def execMin (g : Guard) (sd : Reg) (a b : Src) (s : State) : Out := alu2 (.min g sd a b) g sd a b minS s
def execMax (g : Guard) (sd : Reg) (a b : Src) (s : State) : Out := alu2 (.max g sd a b) g sd a b maxS s
def execMinu (g : Guard) (sd : Reg) (a b : Src) (s : State) : Out := alu2 (.minu g sd a b) g sd a b minU s
def execMaxu (g : Guard) (sd : Reg) (a b : Src) (s : State) : Out := alu2 (.maxu g sd a b) g sd a b maxU s
def execClz (g : Guard) (sd : Reg) (a : Src) (s : State) : Out := alu1 (.clz g sd a) g sd a clz64 s
def execCtz (g : Guard) (sd : Reg) (a : Src) (s : State) : Out := alu1 (.ctz g sd a) g sd a ctz64 s
def execPopc (g : Guard) (sd : Reg) (a : Src) (s : State) : Out := alu1 (.popc g sd a) g sd a popc64 s
def execBext (g : Guard) (sd : Reg) (a b c : Src) (s : State) : Out := alu3 (.bext g sd a b c) g sd a b c bextW s
def execBins (g : Guard) (sd : Reg) (a b c : Src) (s : State) : Out := alu3 (.bins g sd a b c) g sd a b c binsW s
def execMadd (g : Guard) (sd : Reg) (a b c : Src) (s : State) : Out :=
  alu3 (.madd g sd a b c) g sd a b c (fun x y z => x * y + z) s

/-- SEL (R166): poison of the selected source alone propagates (R160). -/
def execSel (g : Guard) (sd : Reg) (p : Pred) (a b : Src) (s : State) : Out :=
  control (.sel g sd p a b) true false g [a, b] (fun t =>
    let x := curSlot t
    let r := if x.readP p then a.reg else b.reg
    if x.poisoned r then .ok (modCur t (fun y => y.writePoison sd)) else .ok (put t sd (x.readS r))) s

def execAddi (g : Guard) (sd : Reg) (a : Src) (imm : BitVec 32) (s : State) : Out :=
  alu1 (.addi g sd a imm) g sd a (fun x => x + imm.signExtend 64) s
def execAndi (g : Guard) (sd : Reg) (a : Src) (imm : BitVec 32) (s : State) : Out :=
  alu1 (.andi g sd a imm) g sd a (fun x => x &&& imm.signExtend 64) s
def execOri (g : Guard) (sd : Reg) (a : Src) (imm : BitVec 32) (s : State) : Out :=
  alu1 (.ori g sd a imm) g sd a (fun x => x ||| imm.zeroExtend 64) s
def execXori (g : Guard) (sd : Reg) (a : Src) (imm : BitVec 32) (s : State) : Out :=
  alu1 (.xori g sd a imm) g sd a (fun x => x ^^^ imm.zeroExtend 64) s
def execShli (g : Guard) (sd : Reg) (a : Src) (imm : BitVec 32) (s : State) : Out :=
  alu1 (.shli g sd a imm) g sd a (fun x => x <<< imm.toNat) s
def execShri (g : Guard) (sd : Reg) (a : Src) (imm : BitVec 32) (s : State) : Out :=
  alu1 (.shri g sd a imm) g sd a (fun x => x >>> imm.toNat) s
def execSrai (g : Guard) (sd : Reg) (a : Src) (imm : BitVec 32) (s : State) : Out :=
  alu1 (.srai g sd a imm) g sd a (fun x => x.sshiftRight imm.toNat) s
def execMuli (g : Guard) (sd : Reg) (a : Src) (imm : BitVec 32) (s : State) : Out :=
  alu1 (.muli g sd a imm) g sd a (fun x => x * imm.signExtend 64) s
def execMovi (g : Guard) (sd : Reg) (imm : BitVec 32) (s : State) : Out :=
  alu (.movi g sd imm) g sd [] (fun _ => imm.signExtend 64) s
def execMovhi (g : Guard) (sd : Reg) (a : Src) (imm : BitVec 32) (s : State) : Out :=
  alu1 (.movhi g sd a imm) g sd a (fun x => imm ++ x.extractLsb' 0 32) s
/-- LEAPC (R168): PC is the address of the word itself; the body runs with PC at the next. -/
def execLeapc (g : Guard) (sd : Reg) (imm : BitVec 32) (s : State) : Out :=
  alu (.leapc g sd imm) g sd [] (fun x => x.pc - 8 + imm.signExtend 64 <<< 3) s

/-! Predicates (R169 to R172). -/

/-- The conditions of R140 on integers. -/
def condition (cc : BitVec 4) (x y : Word) : Bool :=
  match cc.toNat with
  | 0 => x == y
  | 1 => x != y
  | 2 => decide (x.toInt < y.toInt)
  | 3 => decide (x.toInt ≥ y.toInt)
  | 4 => decide (x.toNat < y.toNat)
  | _ => decide (x.toNat ≥ y.toNat)

/-- A comparison writes pd and its complement to pe (R169). -/
def Slot.writeCmp (x : Slot) (pd pe : Pred) (t : Bool) : Slot := (x.writeP pd t).writeP pe (!t)

def execCmp (g : Guard) (pd pe : Pred) (cc : BitVec 4) (a b : Src) (s : State) : Out :=
  plain (.cmp g pd pe cc a b) g [a, b] (fun t =>
    .ok (modCur t (fun x => x.writeCmp pd pe (condition cc (x.readS a.reg) (x.readS b.reg))))) s
def execCmpi (g : Guard) (pd pe : Pred) (cc : BitVec 4) (a : Src) (imm : BitVec 21) (s : State) : Out :=
  plain (.cmpi g pd pe cc a imm) g [a] (fun t =>
    .ok (modCur t (fun x => x.writeCmp pd pe (condition cc (x.readS a.reg) (imm.signExtend 64))))) s

/-- The predicate combinations of R171. -/
def predWord (i : Instr) (g : Guard) (pd pa pb : Pred) (na nb : Bool) (op : Bool → Bool → Bool) (s : State) : Out :=
  control i true false g [] (fun t =>
    .ok (modCur t (fun x => x.writeP pd (op (x.readP pa != na) (x.readP pb != nb))))) s

def execPand (g : Guard) (pd pa pb : Pred) (na nb : Bool) (s : State) : Out :=
  predWord (.pand g pd pa pb na nb) g pd pa pb na nb (· && ·) s
def execPor (g : Guard) (pd pa pb : Pred) (na nb : Bool) (s : State) : Out :=
  predWord (.por g pd pa pb na nb) g pd pa pb na nb (· || ·) s
def execPxor (g : Guard) (pd pa pb : Pred) (na nb : Bool) (s : State) : Out :=
  predWord (.pxor g pd pa pb na nb) g pd pa pb na nb (· != ·) s

/-- The group of 64 predicates (R172): bit 0 of group 0 reads 1. -/
def Slot.predGroup (x : Slot) (grp : Bool) : Word :=
  if grp then x.preds.extractLsb' 64 64 else x.preds.extractLsb' 0 64 ||| 1

def execPget (g : Guard) (sd : Reg) (grp : Bool) (s : State) : Out :=
  control (.pget g sd grp) true false g [] (fun t => .ok (put t sd ((curSlot t).predGroup grp))) s
def execPput (g : Guard) (grp : Bool) (a : Src) (s : State) : Out :=
  plain (.pput g grp a) g [a] (fun t =>
    .ok (modCur t (fun x =>
      { x with preds := if grp then x.readS a.reg ++ x.preds.extractLsb' 0 64
                        else x.preds.extractLsb' 64 64 ++ (x.readS a.reg ||| 1) }))) s

end Sys2Proof.Machine
end

