-- ==== Sys2Proof/Machine/Vector.lean ====
section
/-! DEFINITION. Machine/Vector.lean: the vector words and the vector special words (R242 to R252): what each pops, the spans
it reads and writes, and the effect that its launch has when it completes. -/

namespace Sys2Proof.Machine

/-! The control entry (R242). -/

/-- VCTL of R242. -/
structure VCtl where
  n   : Nat
  rm  : BitVec 3
  sat : Bool
  bs  : Bool
  f2  : Nat
  sel : BitVec 4
deriving DecidableEq, Repr

def vctlOf (w : Word) : VCtl :=
  ⟨(w.extractLsb' 0 24).toNat, w.extractLsb' 24 3, w.getLsbD 27, w.getLsbD 28, (w.extractLsb' 32 4).toNat, w.extractLsb' 36 4⟩

/-- The fields that every use of VCTL checks: reserved bits, N and RM. -/
def vctlOk (w : Word) : Bool :=
  let c := vctlOf w
  decide (w.extractLsb' 40 24 = 0) && decide (w.extractLsb' 29 3 = 0) && decide (c.rm ≠ 7) && decide (1 ≤ c.n) && decide (c.n ≤ 4194304)

/-- The mode of a word: RM, or FRM.RM as it stands at issue when RM is 6 (R67). -/
def vctlMode (s : State) (k : SlotId) (w : Word) : BitVec 3 :=
  let rm := (vctlOf w).rm
  if rm = 6 then (getSlot s k).frm else rm

/-- Bytes of a bit mask of n elements (R244). -/
def maskBytes (n : Nat) : Nat := (n + 7) / 8

/-- Rows of an operand: first address and length of each. -/
abbrev Rows := List (Nat × Nat)

/-- One row of an operand. -/
def oneRow (a : Word) (n : Nat) : Rows := [(a.toNat, n)]
/-- Rows at a pitch. -/
def manyRows (a : Word) (rows pitch n : Nat) : Rows := (List.range rows).map (fun r => (a.toNat + r * pitch, n))

/-- What a vector word reads, operand by operand. -/
def vecReads (i : Instr) (vals : List Word) : List Rows :=
  let src (fmt : BitVec 4) (ctl a : Word) : Rows := oneRow a ((vctlOf ctl).n * fmtSize fmt.toNat)
  let two (fmt : BitVec 4) (ctl a b : Word) : List Rows :=
    if (vctlOf ctl).bs then [src fmt ctl a] else [src fmt ctl a, src fmt ctl b]
  match i, vals with
  | .vadd f, [_, c, _, a, b] => two f c a b
  | .vsub f, [_, c, _, a, b] => two f c a b
  | .vmul f, [_, c, _, a, b] => two f c a b
  | .vfma f, [_, c, _, a, b, d] => two f c a b ++ [src f c d]
  | .vmax f, [_, c, _, a, b] => two f c a b
  | .vmin f, [_, c, _, a, b] => two f c a b
  | .vabs f, [_, c, _, a] => [src f c a]
  | .vcmp f, [_, c, _, a, b] => two f c a b
  | .vsel f, [_, c, _, m, a, b] => oneRow m (maskBytes (vctlOf c).n) :: two f c a b
  | .vcvt f, [_, c, _, a] => [src f c a]
  | .vrcp f, [_, c, _, a] => [src f c a]
  | .vrsq f, [_, c, _, a] => [src f c a]
  | .vexp2 f, [_, c, _, a] => [src f c a]
  | .vlog2 f, [_, c, _, a] => [src f c a]
  | .vred f, [_, c, _, a] => [src f c a]
  | .vand f, [_, c, _, a, b] => two f c a b
  | .vor f, [_, c, _, a, b] => two f c a b
  | .vxor f, [_, c, _, a, b] => two f c a b
  | .vshl f, [_, c, _, a, b] => two f c a b
  | .vshr f, [_, c, _, a, b] => two f c a b
  | .vmov f, [_, c, _, a] => [src f c a]
  | .vtmask, [_, _, p, shape, _] => [oneRow p (shape.extractLsb' 0 8).toNat]
  | .vsmax false _, [_, _, a, shape, p, _] => [manyRows a (shape.extractLsb' 32 16).toNat (lo32 p) (4 * lo32 shape)]
  | .vsmax true _, [_, _, a, m, shape, p, _] =>
    [manyRows a (shape.extractLsb' 32 16).toNat (lo32 p) (4 * lo32 shape),
     manyRows m (shape.extractLsb' 32 16).toNat (hi32 p) (maskBytes (lo32 shape))]
  | .vtopk, [_, _, a, shape] => [oneRow a (4 * lo32 shape)]
  | .vargmax, [_, _, a, n] => [oneRow a (4 * n.toNat)]
  | .vscan f, [_, c, _, a] => [src f c a]
  | .vquant _, [_, c, _, _, a] => [oneRow a (4 * (vctlOf c).n)]
  | .vdeq _, [_, c, _, a, sc] => [oneRow a (vctlOf c).n, oneRow sc (3 * ((vctlOf c).n / 32))]
  | _, _ => []

/-- What a vector word writes. -/
def vecWrites (i : Instr) (vals : List Word) : List Rows :=
  let dst (fmt : Nat) (ctl d : Word) : List Rows := [oneRow d ((vctlOf ctl).n * fmtSize fmt)]
  match i, vals with
  | .vcmp _, [_, c, d, _, _] => [oneRow d (maskBytes (vctlOf c).n)]
  | .vcvt _, [_, c, d, _] => dst (vctlOf c).f2 c d
  | .vred f, [_, c, d, _] => [oneRow d (if f = 4 ∧ (vctlOf c).sel ≠ 0 then 2 else 4)]
  | .vrnd, [_, c, d] => dst 6 c d
  | .vtmask, [_, d, _, shape, p] => [manyRows d (shape.extractLsb' 0 8).toNat p.toNat p.toNat]
  | .vsmax false f, [_, d, _, shape, p, _] =>
    [manyRows d (shape.extractLsb' 32 16).toNat (lo32 p) (fmtSize f.toNat * lo32 shape)]
  | .vsmax true f, [_, d, _, _, shape, p, _] =>
    [manyRows d (shape.extractLsb' 32 16).toNat (lo32 p) (fmtSize f.toNat * lo32 shape)]
  | .vtopk, [_, d, _, shape] => [oneRow d (8 * (shape.extractLsb' 32 7).toNat)]
  | .vargmax, [_, d, _, _] => [oneRow d 8]
  | .vquant _, [_, c, d, sc, _] => [oneRow d (vctlOf c).n, oneRow sc (3 * ((vctlOf c).n / 32))]
  | .vadd f, _ :: c :: d :: _ => dst f.toNat c d
  | .vsub f, _ :: c :: d :: _ => dst f.toNat c d
  | .vmul f, _ :: c :: d :: _ => dst f.toNat c d
  | .vfma f, _ :: c :: d :: _ => dst f.toNat c d
  | .vmax f, _ :: c :: d :: _ => dst f.toNat c d
  | .vmin f, _ :: c :: d :: _ => dst f.toNat c d
  | .vabs f, _ :: c :: d :: _ => dst f.toNat c d
  | .vsel f, _ :: c :: d :: _ => dst f.toNat c d
  | .vrcp f, _ :: c :: d :: _ => dst f.toNat c d
  | .vrsq f, _ :: c :: d :: _ => dst f.toNat c d
  | .vexp2 f, _ :: c :: d :: _ => dst f.toNat c d
  | .vlog2 f, _ :: c :: d :: _ => dst f.toNat c d
  | .viota f, _ :: c :: d :: _ => dst f.toNat c d
  | .vand f, _ :: c :: d :: _ => dst f.toNat c d
  | .vor f, _ :: c :: d :: _ => dst f.toNat c d
  | .vxor f, _ :: c :: d :: _ => dst f.toNat c d
  | .vshl f, _ :: c :: d :: _ => dst f.toNat c d
  | .vshr f, _ :: c :: d :: _ => dst f.toNat c d
  | .vmov f, _ :: c :: d :: _ => dst f.toNat c d
  | .vscan f, _ :: c :: d :: _ => dst f.toNat c d
  | .vdeq f, _ :: c :: d :: _ => dst f.toNat c d
  | _, _ => []

/-- The range checker's span of an operand: from its lowest to its highest address (R233). -/
def rowsSpan (s : State) (k : SlotId) (rs : Rows) : List (Nat × Nat) :=
  match rs.head?, rs.getLast? with
  | some a, some b => if b.2 = 0 then [] else spSpan s k a.1 (b.1 + b.2 - 1 : Nat)
  | _, _ => []

/-- The spans of a vector launch. -/
def vecReach (i : Instr) (s : State) (k : SlotId) (vals : List Word) : Reach :=
  ⟨(vecReads i vals).flatMap (rowsSpan s k), (vecWrites i vals).flatMap (rowsSpan s k), [], []⟩

/-! Checks (R242 to R252). -/

/-- Whether a word takes a broadcast b (R243). -/
def hasB : Instr → Bool
  | .vadd _ => true | .vsub _ => true | .vmul _ => true | .vfma _ => true | .vmax _ => true | .vmin _ => true
  | .vcmp _ => true | .vsel _ => true | .vand _ => true | .vor _ => true | .vxor _ => true | .vshl _ => true | .vshr _ => true
  | _ => false

/-- The fields of VCTL that a word uses: SEL and F2 are zero elsewhere, and BS is legal where a source b is shown. -/
def vctlFits (i : Instr) (w : Word) : Bool :=
  let c := vctlOf w
  let selOk := match i with
    | .vcmp f => if f = 4 ∨ f = 5 then decide (8 ≤ c.sel.toNat) && decide (c.sel.toNat ≤ 12) else decide (c.sel.toNat ≤ 5)
    | .vred _ => decide (c.sel.toNat ≤ 2)
    | _ => decide (c.sel = 0)
  let f2Ok := match i with
    | .vcvt _ => decide (c.f2 ≤ 6)
    | .vdeq _ => decide (c.f2 ≤ 3)
    -- VQUANT leaves the field unused (notes/assumptions/25)
    | .vquant _ => true
    | _ => decide (c.f2 = 0)
  let nOk := match i with
    | .vquant _ => decide (c.n % 32 = 0)
    | .vdeq _ => decide (c.n % 32 = 0)
    | _ => true
  vctlOk w && selOk && f2Ok && nOk && (!c.bs || hasB i)

/-- An address operand has [63:32] zero (R242). -/
def addrOk (v : Word) : Bool := decide (hi32 v = 0)

/-- The check of a vector word's popped values (R242 to R252): bits that no field names must be zero
(notes/assumptions/25). -/
def vecCheck (i : Instr) (s : State) (k : SlotId) (_ : EngStream) (vals : List Word) : Option FCode :=
  let ok : Bool := match i, vals with
    | .vrnd, [_, c, d] => vctlOk c && decide (c.extractLsb' 24 40 = 0) && addrOk d
    | .vtmask, [_, d, p, shape, pitch] =>
      let n := (shape.extractLsb' 0 8).toNat
      addrOk d && addrOk p && decide (1 ≤ n) && decide (n ≤ 64) && decide (shape.extractLsb' 40 24 = 0) &&
        decide (maskBytes ((shape.extractLsb' 8 32).toNat + n) ≤ pitch.toNat)
    | .vsmax false _, [_, d, a, shape, p, _] =>
      addrOk d && addrOk a && decide (1 ≤ lo32 shape) && decide (lo32 shape ≤ 1048576) && decide (1 ≤ (shape.extractLsb' 32 16).toNat) &&
        decide (shape.extractLsb' 48 16 = 0) && decide (4 * lo32 shape ≤ lo32 p)
    | .vsmax true _, [_, d, a, m, shape, p, _] =>
      addrOk d && addrOk a && addrOk m && decide (1 ≤ lo32 shape) && decide (lo32 shape ≤ 1048576) &&
        decide (1 ≤ (shape.extractLsb' 32 16).toNat) && decide (shape.extractLsb' 48 16 = 0) && decide (4 * lo32 shape ≤ lo32 p)
    | .vtopk, [_, d, a, shape] =>
      addrOk d && addrOk a && decide (1 ≤ (shape.extractLsb' 32 7).toNat) && decide ((shape.extractLsb' 32 7).toNat ≤ 64) &&
        decide (shape.extractLsb' 39 25 = 0)
    | .vargmax, [_, d, a, n] => addrOk d && addrOk a && decide (hi32 n = 0)
    | .viota _, [_, c, d, _] => vctlFits i c && addrOk d
    | .vred _, [_, c, d, a] => vctlFits i c && decide (vctlMode s k c ≠ 5) && addrOk d && addrOk a
    | .vsel _, [_, c, d, m, a, b] => vctlFits i c && addrOk d && addrOk m && addrOk a && ((vctlOf c).bs || addrOk b)
    | .vfma _, [_, c, d, a, b, e] => vctlFits i c && addrOk d && addrOk a && ((vctlOf c).bs || addrOk b) && addrOk e
    | _, [_, c, d, a, b] => vctlFits i c && addrOk d && addrOk a && ((vctlOf c).bs || addrOk b)
    | _, [_, c, d, a] => vctlFits i c && addrOk d && addrOk a
    | _, _ => false
  if ok then none else some (0x0D, wordOf i)

/-- What a vector word fixes at issue: its mode, and the words of the stream that it takes (R67, R71, R247). -/
def vecPrepare (i : Instr) (s : State) (k : SlotId) (e : Fin 4) (vals : List Word) : State × Option Word × BitVec 3 :=
  let take (n : Nat) : State := modEng s k e (fun y => { y with ctr := y.ctr + BitVec.ofNat 64 n })
  let ctl := vals.getD 1 0
  match i with
  | .vrnd => (take (vctlOf ctl).n, none, 0)
  | .vtmask => (s, none, 0)
  | .vsmax _ _ => (s, none, 0)
  | .vtopk => (s, none, 0)
  | .vargmax => (s, none, 0)
  | _ =>
    let m := vctlMode s k ctl
    (if m = 5 then take (vctlOf ctl).n else s, none, m)

/-! Elements. -/

/-- The value of n bytes at an address, through a reader of bytes. -/
def elemAt (rd : Nat → Byte) (a n : Nat) : Nat := bytesVal ((List.range n).map (fun i => rd (a + i)))
/-- Bit i of a mask. -/
def bitAt (rd : Nat → Byte) (a i : Nat) : Bool := (rd (a + i / 8)).getLsbD (i % 8)
/-- The bytes of a value at an address. -/
def valueAt (a n v : Nat) : List (Nat × Byte) := cellsAt a (natBytes n v)
/-- The bytes of a row of bits, bits past n zero. -/
def bitRow (bits : Nat → Bool) (n : Nat) : Bytes :=
  (List.range (maskBytes n)).map (fun b => (List.range 8).foldl (fun v j => setBit v j (decide (8 * b + j < n) && bits (8 * b + j))) 0)

/-- An integer result of w bits: wrapped, or clamped with SAT (R243). -/
def vecIntResult (w : Nat) (sat : Bool) (v : Int) : Nat := patternOf w (if sat then (clampInt w v).1 else v)

/-- One element of an arithmetic word: its value and flags (R243). The word's number is 0 for addition, 1 subtraction,
2 multiplication, 3 maximum, 4 minimum, 5 absolute value. -/
def arithElem (op fmt : Nat) (mode : BitVec 3) (sat : Bool) (r : BitVec 32) (a b : Nat) : Nat × BitVec 6 :=
  match fmtFp fmt with
  | some t =>
    if op = 0 then fpAdd t mode r a b
    else if op = 1 then fpSub t mode r a b
    else if op = 2 then fpMul t mode r a b
    else if op = 3 then fpMinMax t true a b
    else if op = 4 then fpMinMax t false a b
    else (fpAbs t a, 0)
  | none =>
    let w := 8 * fmtSize fmt
    let x := signedOf w a
    let y := signedOf w b
    (if op = 0 then vecIntResult w sat (x + y)
     else if op = 1 then vecIntResult w sat (x - y)
     else if op = 2 then vecIntResult w sat (x * y)
     else if op = 3 then patternOf w (max x y)
     else if op = 4 then patternOf w (min x y)
     else vecIntResult w sat x.natAbs, 0)

/-- A bitwise word or a shift: 0 and, 1 or, 2 exclusive or, 3 shift left, 4 shift right. -/
def bitElem (op size a b : Nat) : Nat :=
  let w := 8 * size
  if op = 0 then Nat.land a b
  else if op = 1 then Nat.lor a b
  else if op = 2 then Nat.xor a b
  else if op = 3 then a * 2 ^ (b % w) % 2 ^ w
  else a / 2 ^ (b % w)

/-- The condition SEL on two elements (R244). -/
def cmpElem (fmt : Nat) (cc : BitVec 4) (a b : Nat) : Bool × BitVec 6 :=
  match fmtFp fmt with
  | some t => fpCond t cc a b
  | none =>
    let w := 8 * fmtSize fmt
    (condition cc (BitVec.ofInt 64 (signedOf w a)) (BitVec.ofInt 64 (signedOf w b)), 0)

/-! Words that read a whole operand. -/

/-- Op of R246: 0 sum, 1 maximum, 2 minimum, over FP32, BF16 or INT32 values. -/
def redOp (sel : Nat) (fmt : Nat) (mode : BitVec 3) (p : Option Nat × BitVec 6) (x : Option Nat) : Option Nat × BitVec 6 :=
  match p.1, x with
  | none, y => (y, p.2)
  | some a, none => (some a, p.2)
  | some a, some b =>
    let (v, f) := if sel = 0 then arithElem 0 (if fmt = 6 then 6 else 5) mode false 0 a b
      else arithElem (if sel = 1 then 3 else 4) fmt mode false 0 a b
    (some v, p.2 ||| f)

/-- One level of the tree of R246. -/
def redLevel (sel fmt : Nat) (mode : BitVec 3) (part : List (Option Nat)) (fl : BitVec 6) : List (Option Nat) × BitVec 6 :=
  (List.range (part.length / 2)).foldl (fun q l =>
    let r := redOp sel fmt mode (part.getD (2 * l) none, q.2) (part.getD (2 * l + 1) none)
    (q.1 ++ [r.1], r.2)) ([], fl)

/-- VRED of R246 over the elements. -/
def reduceAll (sel fmt : Nat) (mode : BitVec 3) (xs : List Nat) : Nat × BitVec 6 :=
  let wide := fun x => if sel = 0 ∧ fmt = 4 then x * 2 ^ 16 else x
  let lanes := (List.range 128).foldl (fun q l =>
    let r := (List.range ((xs.length + 127 - l) / 128)).foldl (fun p i => redOp sel fmt mode p (xs[l + 128 * i]?.map wide)) ((none : Option Nat), q.2)
    (q.1 ++ [r.1], r.2)) (([] : List (Option Nat)), (0 : BitVec 6))
  let done := (List.range 7).foldl (fun q _ => redLevel sel fmt mode q.1 q.2) lanes
  ((done.1.headD none).getD 0, done.2)

/-- VSCAN of R251. -/
def scanAll (fmt : Nat) (mode : BitVec 3) (sat : Bool) (key ctr : Word) (xs : List Nat) : List Nat × BitVec 6 :=
  let r := (xs.zipIdx).foldl (fun (q : List Nat × Nat × BitVec 6) x =>
    if x.2 = 0 then ([x.1], x.1, 0)
    else
      let (v, f) := arithElem 0 fmt mode sat (rng32 key (ctr + BitVec.ofNat 64 x.2)) q.2.1 x.1
      (v :: q.1, v, q.2.2 ||| f)) ([], 0, 0)
  (r.1.reverse, r.2.2)

/-- The value of a nonnegative FP32 pattern. -/
def magOf (a : Nat) : Nat × Int := match fdec fp32 a with | .fin _ m e => (m, e) | _ => (0, 0)

/-- A row of VSMAX (R249): the values of the row and its mask bits, to output elements and flags. -/
def softmaxRow (fmt : Nat) (scale : Nat) (row : List (Nat × Bool)) : List Nat × BitVec 6 :=
  let t := (fmtFp fmt).getD fp32
  let xs := row.map (fun p => (f32mul scale p.1, p.2))
  let fl0 := xs.foldl (fun f p => f ||| p.1.2) (0 : BitVec 6)
  let isPosInf := fun v => decide (v = finf fp32 false)
  let isNegInf := fun v => decide (v = finf fp32 true)
  if xs.any (fun p => p.2 && (f32nan p.1.1 || isPosInf p.1.1)) then (row.map (fun _ => canonNaN t), fl0 ||| fNV)
  else
    let live := xs.filter (fun p => p.2 && !isNegInf p.1.1)
    match live.map (fun p => p.1.1) with
    | [] => (row.map (fun _ => 0), fl0)
    | x :: rest =>
      let m := rest.foldl (fun a b => (fpMinMax fp32 true a b).1) x
      let es := xs.map (fun p =>
        if p.2 && !isNegInf p.1.1 then
          let d := f32sub p.1.1 m
          let e := fpExp2 fp32 0 0 d.1
          (e.1, d.2 ||| e.2)
        else (0, 0))
      let fl1 := es.foldl (fun f p => f ||| p.2) fl0
      let sum := es.foldl (fun (q : Nat × BitVec 6) p => let r := f32add q.1 p.1; (r.1, q.2 ||| r.2)) (0, fl1)
      let (ms, eS) := magOf sum.1
      es.foldr (fun p (q : List Nat × BitVec 6) =>
        let (me, ee) := magOf p.1
        if me = 0 then (0 :: q.1, q.2)
        else
          let (qm, qe, st) := quot me ee ms eS
          let (v, f) := roundFp t 0 false false qm qe st 0 none
          (v :: q.1, q.2 ||| f)) ([], sum.2)

/-- Candidates of VTOPK in order: descending value, ascending index (R250). -/
def topBefore (a b : Nat × Nat) : Bool :=
  match fpCmp fp32 a.1 b.1 with
  | some c => decide (c > 0) || (decide (c = 0) && decide (a.2 < b.2))
  | none => false
def topInsert (x : Nat × Nat) : List (Nat × Nat) → List (Nat × Nat)
  | [] => [x]
  | y :: rest => if topBefore x y then x :: y :: rest else y :: topInsert x rest
/-- The k best elements, padded (R250). -/
def topK (k : Nat) (xs : List Nat) : List (Nat × Nat) :=
  let best := (xs.zipIdx).foldl (fun l p => if f32nan p.1 then l else (topInsert p l).take k) []
  (best ++ List.replicate k (canonNaN fp32, 0xFFFF_FFFF)).take k

/-- The ancestors of a node, itself among them (R248). -/
def ancestors (parent : Nat → Nat) : Nat → Nat → List Nat
  | 0, j => [j]
  | fuel + 1, j => if j = 0 then [0] else j :: ancestors parent fuel (parent j)
/-- A row of VTMASK. -/
def treeRow (parent : Nat → Nat) (n len node : Nat) (x : Nat) : Bool :=
  decide (x < len) || (decide (x - len < n) && (ancestors parent 64 node).contains (x - len))

/-- VQUANT on one block of 32 FP32 elements (R252): the scale, the elements and the flags. -/
def quantBlock (fmt : Nat) (mode : BitVec 3) (word : Nat → BitVec 32) (xs : List Nat) : Nat × List Nat × BitVec 6 :=
  let special := xs.any (fun x => match fdec fp32 x with | .fin _ _ _ => false | _ => true)
  let fill : Nat := if fmt = 0 then 0x7F else if fmt = 1 then 0x7E else if fmt = 2 then 0x00 else 0x77
  if special then (255 * 2 ^ 16, xs.map (fun _ => fill), fNV)
  else
    let amax := xs.foldl (fun m x => max m (fpAbs fp32 x)) 0
    if amax = 0 then (0, xs.map (fun _ => if fmt = 3 then 0x77 else 0x00), 0)
    else
      let fmax : Nat := if fmt = 0 then 448 else if fmt = 1 then 57344 else if fmt = 2 then 127 else 2
      let (am, ae) := magOf amax
      let (qm, qe, st) := quot am ae fmax 0
      let (sc, sfl) := toBs24 3 qm qe st 0
      let (sm, se) := (bs24Val sc).getD (1, 0)
      let elems := (xs.zipIdx).map (fun p =>
        let neg := p.1 ≥ 2 ^ 31
        let (xm, xe) := magOf (fpAbs fp32 p.1)
        if fmt = 3 then
          (if xe - se ≥ 0 then toTs8 neg (xm * pow2 (xe - se)) sm else toTs8 neg xm (sm * pow2 (se - xe)))
        else
          let (m, e, t) := if xm = 0 then (0, (0 : Int), false) else quot xm xe sm se
          if fmt = 2 then
            let (v, f) := roundToInt 8 mode neg m e t (word p.2) (some 17)
            (patternOf 8 v, f)
          else if xm = 0 then (fsign ((fmtFp fmt).getD e4m3) neg, 0)
          else roundFp ((fmtFp fmt).getD e4m3) mode false neg m e t (word p.2) (some 17))
      (sc, elems.map Prod.fst, elems.foldl (fun f p => f ||| p.2) sfl)

/-- The value of an element of a scaled format (R252): none for a NaN. -/
def scaledVal (fmt x : Nat) : FVal :=
  match fmtFp fmt with
  | some t => fdec t x
  | none => if fmt = 3 then (let n := ts8Val x; .fin (decide (n < 0)) n.natAbs (-6))
    else let n := signedOf 8 x; .fin (decide (n < 0)) n.natAbs 0

/-- VDEQ on one element (R80, R252). -/
def deqElem (src dst : Nat) (mode : BitVec 3) (r : BitVec 32) (x scale : Nat) : Nat × BitVec 6 :=
  let t := (fmtFp dst).getD fp32
  match bs24Val scale with
  | none => (canonNaN t, 0)
  | some (sm, se) =>
    if sm = 0 then (0, 0)
    else match scaledVal src x with
      | .nan s => nanOut t s
      | .inf n => (finf t n, 0)
      | .fin n m e => roundFp t mode false n (m * sm) (e + se) false r (some 17)

/-! The effect of a vector launch. -/

/-- What unit j of a word writes, through a reader of scratchpad bytes: bytes and flags. -/
def vecUnit (l : Launch) (rd : Nat → Byte) (j : Nat) : List (Nat × Byte) × BitVec 6 :=
  let ctl := vctlOf (l.vals.getD 1 0)
  let word : Nat → BitVec 32 := fun i => rng32 l.key (l.ctr + BitVec.ofNat 64 i)
  -- an elementwise word with destination size zd and source size zs
  let el (fmt : BitVec 4) (a : Word) : Nat := elemAt rd (a.toNat + j * fmtSize fmt.toNat) (fmtSize fmt.toNat)
  let bv (fmt : BitVec 4) (b : Word) : Nat := if ctl.bs then b.toNat % 2 ^ (8 * fmtSize fmt.toNat) else el fmt b
  let out (fmt : Nat) (d : Word) (p : Nat × BitVec 6) : List (Nat × Byte) × BitVec 6 :=
    (valueAt (d.toNat + j * fmtSize fmt) (fmtSize fmt) p.1, p.2)
  let arith (op : Nat) (fmt : BitVec 4) (d a b : Word) := out fmt.toNat d (arithElem op fmt.toNat l.rm ctl.sat (word j) (el fmt a) (bv fmt b))
  let bits (op : Nat) (fmt : BitVec 4) (d a b : Word) := out fmt.toNat d (bitElem op (fmtSize fmt.toNat) (el fmt a) (bv fmt b), 0)
  let func (fmt : BitVec 4) (d a : Word) (f : FpFmt → BitVec 3 → BitVec 32 → Nat → Nat × BitVec 6) :=
    out fmt.toNat d (f ((fmtFp fmt.toNat).getD fp32) l.rm (word j) (el fmt a))
  match l.op, l.vals with
  | .vadd f, [_, _, d, a, b] => arith 0 f d a b
  | .vsub f, [_, _, d, a, b] => arith 1 f d a b
  | .vmul f, [_, _, d, a, b] => arith 2 f d a b
  | .vmax f, [_, _, d, a, b] => arith 3 f d a b
  | .vmin f, [_, _, d, a, b] => arith 4 f d a b
  | .vabs f, [_, _, d, a] => arith 5 f d a 0
  | .vfma f, [_, _, d, a, b, c] => out f.toNat d (fpFma ((fmtFp f.toNat).getD fp32) l.rm (word j) (el f a) (bv f b) (el f c))
  | .vcmp f, [_, _, d, a, b] =>
    -- unit j is byte j of the mask
    let z := fmtSize f.toNat
    let res (i : Nat) : Bool × BitVec 6 := cmpElem f.toNat ctl.sel (elemAt rd (a.toNat + i * z) z)
      (if ctl.bs then b.toNat % 2 ^ (8 * z) else elemAt rd (b.toNat + i * z) z)
    let idx := (List.range 8).filter (fun t => decide (8 * j + t < ctl.n))
    ([(d.toNat + j, idx.foldl (fun v t => setBit v t (res (8 * j + t)).1) 0)], idx.foldl (fun fl t => fl ||| (res (8 * j + t)).2) 0)
  | .vsel f, [_, _, d, m, a, b] => out f.toNat d (if bitAt rd m.toNat j then el f a else bv f b, 0)
  | .vcvt f, [_, _, d, a] => out ctl.f2 d (convertElem f.toNat ctl.f2 l.rm ctl.sat (word j) (el f a))
  | .vrcp f, [_, _, d, a] => func f d a fpRcp
  | .vrsq f, [_, _, d, a] => func f d a fpRsqrt
  | .vexp2 f, [_, _, d, a] => func f d a fpExp2
  | .vlog2 f, [_, _, d, a] => func f d a fpLog2
  | .vred f, [_, _, d, a] =>
    let z := fmtSize f.toNat
    let (v, fl) := reduceAll ctl.sel.toNat f.toNat l.rm ((List.range ctl.n).map (fun i => elemAt rd (a.toNat + i * z) z))
    (valueAt d.toNat (if f = 4 ∧ ctl.sel ≠ 0 then 2 else 4) v, fl)
  | .viota _, [_, _, d, a] => out 6 d ((lo32 a + j) % 2 ^ 32, 0)
  | .vand f, [_, _, d, a, b] => bits 0 f d a b
  | .vor f, [_, _, d, a, b] => bits 1 f d a b
  | .vxor f, [_, _, d, a, b] => bits 2 f d a b
  | .vshl f, [_, _, d, a, b] => bits 3 f d a b
  | .vshr f, [_, _, d, a, b] => bits 4 f d a b
  | .vmov f, [_, _, d, a] => out f.toNat d (el f a, 0)
  | .vrnd, [_, _, d] => out 6 d ((word j).toNat, 0)
  | .vtmask, [_, d, p, shape, pitch] =>
    let n := (shape.extractLsb' 0 8).toNat
    let len := (shape.extractLsb' 8 32).toNat
    (cellsAt (d.toNat + j * pitch.toNat) (bitRow (treeRow (fun i => (rd (p.toNat + i)).toNat) n len j) (8 * pitch.toNat)), 0)
  | .vsmax false f, [_, d, a, shape, p, sc] =>
    let (vs, fl) := softmaxRow f.toNat (lo32 sc) ((List.range (lo32 shape)).map (fun i => (elemAt rd (a.toNat + j * lo32 p + 4 * i) 4, true)))
    (cellsAt (d.toNat + j * lo32 p) (vs.flatMap (natBytes (fmtSize f.toNat))), fl)
  | .vsmax true f, [_, d, a, m, shape, p, sc] =>
    let (vs, fl) := softmaxRow f.toNat (lo32 sc) ((List.range (lo32 shape)).map (fun i =>
      (elemAt rd (a.toNat + j * lo32 p + 4 * i) 4, bitAt rd (m.toNat + j * hi32 p) i)))
    (cellsAt (d.toNat + j * lo32 p) (vs.flatMap (natBytes (fmtSize f.toNat))), fl)
  | .vtopk, [_, d, a, shape] =>
    let best := topK (shape.extractLsb' 32 7).toNat ((List.range (lo32 shape)).map (fun i => elemAt rd (a.toNat + 4 * i) 4))
    (cellsAt d.toNat (best.flatMap (fun p => natBytes 4 p.1 ++ natBytes 4 p.2)), 0)
  | .vargmax, [_, d, a, n] =>
    let best := topK 1 ((List.range n.toNat).map (fun i => elemAt rd (a.toNat + 4 * i) 4))
    (cellsAt d.toNat (best.flatMap (fun p => natBytes 4 p.1 ++ natBytes 4 p.2)), 0)
  | .vscan f, [_, _, d, a] =>
    let (vs, fl) := scanAll f.toNat l.rm ctl.sat l.key l.ctr ((List.range ctl.n).map (fun i => elemAt rd (a.toNat + 4 * i) 4))
    (cellsAt d.toNat (vs.flatMap (natBytes 4)), fl)
  | .vquant f, [_, _, d, sc, a] =>
    let (q, es, fl) := quantBlock f.toNat l.rm (fun i => word (32 * j + i)) ((List.range 32).map (fun i => elemAt rd (a.toNat + 128 * j + 4 * i) 4))
    (valueAt (sc.toNat + 3 * j) 3 q ++ cellsAt (d.toNat + 32 * j) (es.flatMap (natBytes 1)), fl)
  | .vdeq f, [_, _, d, a, sc] =>
    out f.toNat d (deqElem ctl.f2 f.toNat l.rm (word j) (elemAt rd (a.toNat + j) 1) (elemAt rd (sc.toNat + 3 * (j / 32)) 3))
  | _, _ => ([], 0)

/-- How many units a word has. -/
def vecCount (l : Launch) : Nat :=
  let n := (vctlOf (l.vals.getD 1 0)).n
  match l.op, l.vals with
  | .vcmp _, _ => maskBytes n
  | .vred _, _ => 1
  | .vtmask, [_, _, _, shape, _] => (shape.extractLsb' 0 8).toNat
  | .vsmax false _, [_, _, _, shape, _, _] => (shape.extractLsb' 32 16).toNat
  | .vsmax true _, [_, _, _, _, shape, _, _] => (shape.extractLsb' 32 16).toNat
  | .vtopk, _ => 1
  | .vargmax, _ => 1
  | .vscan _, _ => 1
  | .vquant _, _ => n / 32
  | _, _ => n

/-- The addresses of rows. -/
def rowBytes (rs : List Rows) : List Nat := rs.flatten.flatMap (fun p => spRange p.1 p.2)

/-- Where a row starts, by place: a scratchpad names a byte of its own twice (R93). -/
def rowPlace (s : State) (k : SlotId) (p : Nat × Nat) : Nat × Nat :=
  match spAt s k p.1 with
  | some (t, o) => (spPlace t o, p.2)
  | none => (2 ^ 40 + p.1, p.2)

/-- Whether a destination partly overlaps a source (R243). -/
def partOverlap (s : State) (k : SlotId) (i : Instr) (vals : List Word) : Bool :=
  let r := (vecReads i vals).flatten.map (rowPlace s k)
  let w := (vecWrites i vals).flatten.map (rowPlace s k)
  r.any (fun a => w.any (fun b => decide (a ≠ b) && decide (a.1 < b.1 + b.2) && decide (b.1 < a.1 + a.2)))

/-- Runs the units of a word. When a destination partly overlaps a source, each unit reads source bytes as they stood before
the word or after the units before it, in either order (R243; notes/assumptions/2). -/
def runUnits (s0 : State) (k : SlotId) (free : Bool) (n : Nat) (unit : (Nat → Byte) → Nat → List (Nat × Byte) × BitVec 6) :
    State × BitVec 6 :=
  let order := if free && Config.freeBool s0.fresh then (List.range n).reverse else List.range n
  let r := order.foldl (fun (q : State × BitVec 6) j =>
    let rd := if free && Config.freeBool (s0.fresh + 1 + j) then spGet q.1 k else spGet s0 k
    let u := unit rd j
    (u.1.foldl (fun s c => spPut s k (c.1 % 2 ^ 64) c.2) q.1, q.2 ||| u.2)) (s0, 0)
  (if free then { r.1 with fresh := s0.fresh + n + 1 } else r.1, r.2)

/-- The effect of a vector launch, and its flags (R225, R243 to R252). A DESIGN CHOICE (notes/assumptions/82): of the bytes of one launch
that are out of range, the first read, in the order of the operands, is recorded before a written one (R95). -/
def vectorEffect (s : State) (k : SlotId) (l : Launch) : Except FCode (State × BitVec 6) :=
  let reads := rowBytes (vecReads l.op l.vals)
  match spFirstBad s k reads with
  | some f => .error f
  | none =>
    let badTree := match l.op, l.vals with
      | .vtmask, [_, _, p, shape, _] =>
        (List.range (shape.extractLsb' 0 8).toNat).any (fun i => decide (1 ≤ i) && decide (i ≤ (spGet s k (p.toNat + i)).toNat))
      | _, _ => false
    if badTree then .error (0x0D, wordOf l.op)
    else
      let s1 := noteOobs s k 2 false reads
      let s2 := noteOobs s1 k 2 true (rowBytes (vecWrites l.op l.vals))
      .ok (runUnits s2 k (partOverlap s k l.op l.vals) (vecCount l) (vecUnit l))

/-! The words. -/

/-- A vector word: legal in the vector stream, VTMASK with the speculation feature. -/
def vecWord (i : Instr) (pops : Nat) (feat : State → Bool) (s : State) : Out :=
  launchWord i (decide (s.cur.eng = 2) && feat s) pops false (vecCheck i) (vecReach i) (vecPrepare i) s
def always (_ : State) : Bool := true

def execVadd (f : BitVec 4) (s : State) : Out := vecWord (.vadd f) 5 always s
def execVsub (f : BitVec 4) (s : State) : Out := vecWord (.vsub f) 5 always s
def execVmul (f : BitVec 4) (s : State) : Out := vecWord (.vmul f) 5 always s
def execVfma (f : BitVec 4) (s : State) : Out := vecWord (.vfma f) 6 always s
def execVmax (f : BitVec 4) (s : State) : Out := vecWord (.vmax f) 5 always s
def execVmin (f : BitVec 4) (s : State) : Out := vecWord (.vmin f) 5 always s
def execVabs (f : BitVec 4) (s : State) : Out := vecWord (.vabs f) 4 always s
def execVcmp (f : BitVec 4) (s : State) : Out := vecWord (.vcmp f) 5 always s
def execVsel (f : BitVec 4) (s : State) : Out := vecWord (.vsel f) 6 always s
def execVcvt (f : BitVec 4) (s : State) : Out := vecWord (.vcvt f) 4 always s
def execVrcp (f : BitVec 4) (s : State) : Out := vecWord (.vrcp f) 4 always s
def execVrsq (f : BitVec 4) (s : State) : Out := vecWord (.vrsq f) 4 always s
def execVexp2 (f : BitVec 4) (s : State) : Out := vecWord (.vexp2 f) 4 always s
def execVlog2 (f : BitVec 4) (s : State) : Out := vecWord (.vlog2 f) 4 always s
def execVred (f : BitVec 4) (s : State) : Out := vecWord (.vred f) 4 always s
def execViota (f : BitVec 4) (s : State) : Out := vecWord (.viota f) 4 always s
def execVand (f : BitVec 4) (s : State) : Out := vecWord (.vand f) 5 always s
def execVor (f : BitVec 4) (s : State) : Out := vecWord (.vor f) 5 always s
def execVxor (f : BitVec 4) (s : State) : Out := vecWord (.vxor f) 5 always s
def execVshl (f : BitVec 4) (s : State) : Out := vecWord (.vshl f) 5 always s
def execVshr (f : BitVec 4) (s : State) : Out := vecWord (.vshr f) 5 always s
def execVmov (f : BitVec 4) (s : State) : Out := vecWord (.vmov f) 4 always s
def execVrnd (s : State) : Out := vecWord .vrnd 3 always s
def execVtmask (s : State) : Out := vecWord .vtmask 5 (fun s => feature s 3) s
def execVsmax (masked : Bool) (f : BitVec 4) (s : State) : Out := vecWord (.vsmax masked f) (if masked then 7 else 6) always s
def execVtopk (s : State) : Out := vecWord .vtopk 4 always s
def execVargmax (s : State) : Out := vecWord .vargmax 4 always s
def execVscan (f : BitVec 4) (s : State) : Out := vecWord (.vscan f) 4 always s
def execVquant (f : BitVec 4) (s : State) : Out := vecWord (.vquant f) 5 always s
def execVdeq (f : BitVec 4) (s : State) : Out := vecWord (.vdeq f) 5 always s

end Sys2Proof.Machine
end

