-- ==== Sys2Proof/Machine/Traversal.lean ====
section
/-! DEFINITION. Machine/Traversal.lean: the traversal words (R253 to R258): queries over a tree of boxes and points in memory. -/

namespace Sys2Proof.Machine

/-- The kinds of query. -/
inductive QueryKind where
  | ray | radius | nearest | box
deriving DecidableEq, Repr

/-- A query: its eight FP32 slots and CAP (R254). -/
structure Query where
  kind  : QueryKind
  slots : List Nat
  cap   : Nat
deriving DecidableEq, Repr

def Query.slot (q : Query) (n : Nat) : Nat := q.slots.getD n 0

/-- What a query has found: entries (value, ID), and why it stopped. -/
structure Found where
  entries : List (Nat × Nat)
  ovf     : Bool
  tdeep   : Bool
  bad     : Bool
  stop    : Bool
deriving DecidableEq, Repr

/-- A node or a point as its 32-bit words. -/
abbrev Words32 := List Nat
def w32 (w : Words32) (n : Nat) : Nat := w.getD n 0

/-! Arithmetic (R255): FP32 in mode 0, no flags. -/

def tSub (a b : Nat) : Nat := (f32sub a b).1
def tAdd (a b : Nat) : Nat := (f32add a b).1
def tMul (a b : Nat) : Nat := (f32mul a b).1
/-- The greater and the lesser number, with R178's choice where an operand is a NaN (notes/assumptions/26). -/
def tMax (a b : Nat) : Nat := (fpMinMax fp32 true a b).1
def tMin (a b : Nat) : Nat := (fpMinMax fp32 false a b).1

/-- Dot3 of R255. -/
def dot3 (u v : List Nat) : Nat :=
  (f32fma (u.getD 2 0) (v.getD 2 0) (f32fma (u.getD 1 0) (v.getD 1 0) (tMul (u.getD 0 0) (v.getD 0 0))).1).1
/-- Component differences. -/
def diff3 (p q : List Nat) : List Nat := (List.range 3).map (fun i => tSub (p.getD i 0) (q.getD i 0))
/-- D2 of R255. -/
def dist2 (p q : List Nat) : Nat := dot3 (diff3 p q) (diff3 p q)

def plusInf : Nat := finf fp32 false

/-- The interval of t on one axis: none when the axis admits no t; (none, none) when it admits every t. -/
def axisInterval (lo hi o d : Nat) : Option (Option (Nat × Nat)) :=
  if f32zero d then (if f32le lo o && f32le o hi then some none else none)
  else
    let inv := (f32div 0x3F80_0000 d).1
    let a := tMul (tSub lo o) inv
    let b := tMul (tSub hi o) inv
    some (some (tMin a b, tMax a b))

/-- Key of a node (R255). -/
def nodeKey (q : Query) (node : Words32) : Nat :=
  let gap (lo hi : Nat → Nat) : List Nat := (List.range 3).map (fun i =>
    tMax (tMax (tSub (w32 node i) (hi i)) (tSub (lo i) (w32 node (3 + i)))) 0)
  match q.kind with
  | .box => let g := gap q.slot (fun i => q.slot (3 + i)); dot3 g g
  | .ray =>
    let r := q.slot 7
    let axes := (List.range 3).map (fun i =>
      axisInterval (tSub (w32 node i) r) (tAdd (w32 node (3 + i)) r) (q.slot i) (q.slot (3 + i)))
    if axes.any Option.isNone then plusInf
    else
      let some' := axes.filterMap (fun a => a.getD none)
      let key := some'.foldl (fun m p => tMax m p.1) 0
      let top := some'.foldl (fun m p => tMin m p.2) plusInf
      if some'.any (fun p => f32lt p.2 p.1) || f32lt top key then plusInf else key
  | _ => let g := gap q.slot q.slot; dot3 g g

/-- Bound of a query (R257). -/
def Query.bound (q : Query) (f : Found) : Nat :=
  match q.kind with
  | .ray => match f.entries.head? with | some e => e.1 | none => q.slot 6
  | .radius => tMul (q.slot 3) (q.slot 3)
  | .nearest => if f.entries.length < q.cap then tMul (q.slot 3) (q.slot 3) else (f.entries.getLast?.map Prod.fst).getD 0
  | .box => 0

/-- (value, ID) below another. -/
def entryBelow (a b : Nat × Nat) : Bool := f32lt a.1 b.1 || (f32eq a.1 b.1 && decide (a.2 < b.2))
def entryInsert (x : Nat × Nat) : List (Nat × Nat) → List (Nat × Nat)
  | [] => [x]
  | y :: rest => if entryBelow x y then x :: y :: rest else y :: entryInsert x rest

/-- An accepted point of XRAD or XBOX: kept in the order found; the first beyond CAP stops the query. -/
def Found.keep (f : Found) (cap : Nat) (e : Nat × Nat) : Found :=
  if f.entries.length < cap then { f with entries := f.entries ++ [e] } else { f with ovf := true, stop := true }

/-- Test of a point (R257). -/
def Query.test (q : Query) (f : Found) (pt : Words32) : Found :=
  let p := pt.take 3
  let id := w32 pt 3
  match q.kind with
  | .ray =>
    let w := diff3 p (q.slots.take 3)
    let t := dot3 w ((q.slots.drop 3).take 3)
    let h := tSub (dot3 w w) (tMul t t)
    if f32le 0 t && f32le t (q.bound f) && f32le h (tMul (q.slot 7) (q.slot 7)) then
      match f.entries.head? with
      | none => { f with entries := [(t, id)] }
      | some e => if entryBelow (t, id) e then { f with entries := [(t, id)] } else f
    else f
  | .radius => if f32le (dist2 p (q.slots.take 3)) (tMul (q.slot 3) (q.slot 3)) then
      f.keep q.cap (dist2 p (q.slots.take 3), id) else f
  | .nearest =>
    let d2 := dist2 p (q.slots.take 3)
    if f32le d2 (tMul (q.slot 3) (q.slot 3)) then
      if f.entries.length < q.cap then { f with entries := entryInsert (d2, id) f.entries }
      else match f.entries.getLast? with
        | some e => if entryBelow (d2, id) e then { f with entries := (entryInsert (d2, id) f.entries).take q.cap } else f
        | none => f
    else f
  | .box =>
    if (List.range 3).all (fun i => f32le (q.slot i) (p.getD i 0) && f32le (p.getD i 0) (q.slot (3 + i))) then
      f.keep q.cap (0, id) else f

/-! The walk (R256). -/

/-- The state in the course of a walk, and what the launch knows. -/
abbrev Walking := State × Order

/-- Reads n bytes of memory through the traversal engine's stream TLB (R253, R258). A DESIGN CHOICE (notes/assumptions/83): a byte that
only a read-write entry covers raises 0x08 (R258), not 0x09 (R130). -/
def travRead (k : SlotId) (w : Walking) (va : Word) (n : Nat) : Except (Walking × FCode) (Walking × Words32) :=
  let x := getSlot w.1 k
  let foot := match x.job with | some j => j.foot | none => []
  match streamTranslate w.1 k 4 va .read true with
  | .error f => .error (w, f)
  | .ok (s1, leaf) =>
    match (if x.deterministic then detEntry foot .read va.toNat n else none) with
    | some (_, a) => .error ((s1, w.2), 0x08, a)
    | none =>
      match readBad s1 leaf.pa n with
      | (s2, some i) => .error ((s2, w.2), 0x13, va + BitVec.ofNat 64 i)
      | (s2, none) =>
        .ok ((List.range (n / 4)).foldl (fun r i =>
          let q := agentRead r.1.1 k (dieOf k) 4 r.1.2 (va + BitVec.ofNat 64 (4 * i)) (leaf.pa + 4 * i) 4 none
          ((q.1, q.2.1), r.2 ++ [bytesVal (bytesAt q.1 q.2.2 (leaf.pa + 4 * i) 4)])) ((s2, w.2), []))

/-- The points of a leaf, in order, until the query stops. -/
def testPoints (k : SlotId) (pb : Word) (q : Query) (first n : Nat) (w : Walking) (f : Found) :
    Except (Walking × FCode) (Walking × Found) :=
  (List.range n).foldl (fun r i =>
    match r with
    | .error e => .error e
    | .ok (w, f) =>
      if f.stop then .ok (w, f)
      else match travRead k w (pb + BitVec.ofNat 64 (16 * (first + i))) 16 with
        | .error e => .error e
        | .ok (w1, pt) => .ok (w1, q.test f pt)) (.ok (w, f))

/-- Whether a node keeps R253. -/
def nodeOk (node : Words32) : Bool :=
  let cf := w32 node 7
  decide (cf / 2 ^ 17 = 0) && (decide (cf / 2 ^ 16 % 2 = 0) || decide (1 ≤ cf % 2 ^ 16))

/-- The walk with the stack of node indices; none when the steps allowed run out. -/
def walkTree (k : SlotId) (nb pb : Word) (q : Query) :
    Nat → Walking → List Nat → Found → Except (Walking × FCode) (Option (Walking × Found))
  | 0, _, _, _ => .ok none
  | fuel + 1, s, stack, f =>
    let at' (n : Nat) : Word := nb + BitVec.ofNat 64 (32 * n)
    match stack with
    | [] => .ok (some (s, f))
    | n :: rest =>
      match travRead k s (at' n) 32 with
      | .error e => .error e
      | .ok (s1, node) =>
        if !nodeOk node then .ok (some (s1, { f with bad := true, stop := true }))
        else if f32lt (q.bound f) (nodeKey q node) then walkTree k nb pb q fuel s1 rest f
        else if w32 node 7 / 2 ^ 16 % 2 = 1 then
          match testPoints k pb q (w32 node 6) (w32 node 7 % 2 ^ 16) s1 f with
          | .error e => .error e
          | .ok (s2, f2) => if f2.stop then .ok (some (s2, f2)) else walkTree k nb pb q fuel s2 rest f2
        else
          let left := w32 node 6
          match travRead k s1 (at' left) 32 with
          | .error e => .error e
          | .ok (s2, ln) =>
            match travRead k s2 (at' (left + 1)) 32 with
            | .error e => .error e
            | .ok (s3, rn) =>
              if rest.length + 2 > 64 then .ok (some (s3, { f with tdeep := true, stop := true }))
              else if f32lt (nodeKey q rn) (nodeKey q ln) then walkTree k nb pb q fuel s3 ((left + 1) :: left :: rest) f
              else walkTree k nb pb q fuel s3 (left :: (left + 1) :: rest) f

/-- More steps than the cycle counter can count: a walk that needs more does not end (R258). -/
def walkSteps : Nat := 2 ^ 70

/-- The result record of a query (R254). -/
def resultBytes (f : Found) : Bytes :=
  natBytes 4 (f.entries.length + (if f.ovf then 2 ^ 16 else 0) + (if f.tdeep then 2 ^ 17 else 0) + (if f.bad then 2 ^ 18 else 0))
    ++ natBytes 4 0 ++ f.entries.flatMap (fun e => natBytes 4 e.2 ++ natBytes 4 e.1)

/-! The words (R254). -/

/-- The query of a word. -/
def queryKind : Instr → QueryKind
  | .xray => .ray
  | .xrad => .radius
  | .xknn => .nearest
  | _ => .box

def travCount (param : Word) : Nat := (param.extractLsb' 0 16).toNat
def travCap (param : Word) : Nat := (param.extractLsb' 16 8).toNat

def travCheck (i : Instr) (_ : State) (_ : SlotId) (_ : EngStream) (vals : List Word) : Option FCode :=
  let ok : Bool := match vals with
    | [_, res, qry, nb, pb, param] =>
      let most := if i = .xray then 1 else if i = .xknn then 32 else 255
      addrOk res && addrOk qry && decide (nb.toNat % 32 = 0) && decide (pb.toNat % 16 = 0) && decide (1 ≤ travCount param) &&
        decide (1 ≤ travCap param) && decide (travCap param ≤ most) && decide (param.extractLsb' 24 8 = 0) &&
        decide (8 + 8 * travCap param ≤ hi32 param)
    | _ => false
  if ok then none else some (0x0D, wordOf i)

def travReach (_ : Instr) (s : State) (k : SlotId) (vals : List Word) : Reach :=
  match vals with
  | [_, res, qry, _, _, param] =>
    ⟨rowsSpan s k [(qry.toNat, 32 * travCount param)], rowsSpan s k (manyRows res (travCount param) (hi32 param) (8 + 8 * travCap param)), [], []⟩
  | _ => ⟨[], [], [], []⟩

/-- The effect of a traversal launch (R253 to R258); none while its walk does not end. After a fault, what its translations have done
stands (R13). -/
def traversalEffect (s : State) (k : SlotId) (l : Launch) : Except (Walking × FCode) (Option Walking) :=
  match l.vals with
  | [_, res, qry, nb, pb, param] =>
    let reads := spRange qry.toNat (32 * travCount param)
    match spFirstBad s k reads with
    | some f => .error ((s, l.order), f)
    | none =>
      (List.range (travCount param)).foldl (fun r j =>
        match r with
        | .error e => .error e
        | .ok none => .ok none
        | .ok (some t) =>
          let q : Query := ⟨queryKind l.op, (List.range 8).map (fun i => spNat t.1 k (qry.toNat + 32 * j + 4 * i) 4), travCap param⟩
          match walkTree k nb pb q walkSteps t [0] ⟨[], false, false, false, false⟩ with
          | .error e => .error e
          | .ok none => .ok none
          | .ok (some (t1, f)) =>
            let bs := resultBytes f
            let a := res.toNat + j * hi32 param
            .ok (some (spPutBytes (noteOobs t1.1 k 4 true (spRange a bs.length)) k a bs, t1.2)))
        (.ok (some (noteOobs s k 4 false reads, l.order)))
  | _ => .ok (some (s, l.order))

def travWord (i : Instr) (s : State) : Out :=
  launchWord i (decide (s.cur.eng = 4) && feature s 5) 6 false (travCheck i) (travReach i) prepareNone s

def execXray (s : State) : Out := travWord .xray s
def execXrad (s : State) : Out := travWord .xrad s
def execXknn (s : State) : Out := travWord .xknn s
def execXbox (s : State) : Out := travWord .xbox s

end Sys2Proof.Machine
end

