-- ==== Sys2Proof/Machine/Matrix.lean ====
section
/-! DEFINITION. Machine/Matrix.lean: the matrix words (R259 to R272, R281) and accumulation (R80 to R85). -/

namespace Sys2Proof.Machine

/-! Matrix state (R90, R259). -/

def tileExists (x : Slot) (n : Nat) : Bool := decide (n < pwRfg x.partw * 4 / 3) && decide (n < 32)
def accExists (x : Slot) (n : Nat) : Bool := decide (n < 2 * pwAcg x.partw) && decide (n < 64)
/-- Where byte b of row i of a tile register stands. -/
def tileKey (t i b : Nat) : Nat := t * 12288 + i * 384 + b

/-- An accumulator tile as exact integers: mantissa and special code of each element (R65). -/
structure AccTile where
  elems : List (Int × Nat)
  e     : Int
  rn    : Nat
  es    : Bool
deriving DecidableEq, Repr

/-- The status word of a tile, by its number. -/
def accStatus (x : Slot) (a : Nat) : AccStatus := x.accStat.toList.getD a ⟨0, 0, false⟩

def accTile (x : Slot) (a : Nat) : AccTile :=
  let st := accStatus x a
  ⟨(List.range 1024).map (fun n => let v := cellGet x.acc (a * 1024 + n); ((v.extractLsb' 0 48).toInt, (v.extractLsb' 48 2).toNat)),
   st.e.toInt, st.rn.toNat, st.es⟩

/-- An element as it is held: m in [47:0], Z in [49:48]. -/
def accCell (p : Int × Nat) : BitVec 50 := BitVec.ofNat 2 p.2 ++ BitVec.ofInt 48 p.1

def putAccTile (x : Slot) (a : Nat) (t : AccTile) : Slot :=
  { x with
    acc := cellsSet (cellsClear x.acc (a * 1024) 1024) ((t.elems.zipIdx).map (fun p => (a * 1024 + p.2, accCell p.1)))
    accStat := x.accStat.setIfInBounds a ⟨BitVec.ofInt 16 t.e, BitVec.ofNat 16 t.rn, t.es⟩
    accPoison := setClear x.accPoison (a * 1024) 1024 }

/-- A matrix word that reads a poisoned byte of a tile register, or a poisoned element, raises 0x13 (R29, R30); registers have no
address, so TRAPVAL is a free value (notes/assumptions/59). Ranges of bytes of tile registers and of elements. -/
def regFault (s : State) (x : Slot) (ts es : List (Nat × Nat)) : Option FCode :=
  let hit (l : List Nat) (rs : List (Nat × Nat)) : Bool := l.any (fun a => rs.any (fun p => decide (p.1 ≤ a) && decide (a < p.1 + p.2)))
  if hit x.tilePoison ts || hit x.accPoison es then some (0x13, BitVec.ofNat 64 (Config.freeNat s.fresh)) else none
/-- The bytes of the first rows of a tile register, and the elements of an accumulator tile. -/
def tileRange (t rows : Nat) : Nat × Nat := (tileKey t 0 0, rows * 384)
def accRange (a : Nat) : Nat × Nat := (a * 1024, 1024)

/-- To clear a tile (R265). -/
def AccTile.clear (t : AccTile) : AccTile := { t with elems := List.replicate 1024 (0, 0), rn := 0, es := false }

/-! Accumulation (R80 to R84). -/

/-- An exact value: v × 2^e, or a special by its code. -/
inductive Exact where
  | fin (v e : Int)
  | special (z : Nat)
deriving DecidableEq, Repr

/-- n / 2^k rounded to nearest, ties to even. -/
def rneShift (n : Int) (k : Nat) : Int :=
  let q := n / (2 ^ k : Int)
  let r := n % (2 ^ k : Int)
  if 2 * r > (2 ^ k : Int) ∨ (2 * r = (2 ^ k : Int) ∧ q % 2 = 1) then q + 1 else q

/-- SpecialSum of R84: the code, and whether NV is set. -/
def specialSum (z w : Nat) : Nat × Bool :=
  if z = 0 then (w, false)
  else if w = 0 then (z, false)
  else if z = 3 ∨ w = 3 then (3, false)
  else if z = w then (z, false)
  else (3, true)

/-- The sum of two finite exact values. -/
def addExact (v1 e1 v2 e2 : Int) : Int × Int :=
  let e := min e1 e2
  (v1 * (2 ^ (e1 - e).toNat : Int) + v2 * (2 ^ (e2 - e).toNat : Int), e)

/-- The products of a step combined (R84): the value, and whether NV is set (notes/assumptions/27). -/
def stepSum (ps : List Exact) : Exact × Bool :=
  let has (z : Nat) : Bool := ps.any (fun p => decide (p = .special z))
  let nv := has 1 && has 2
  if has 3 || nv then (.special 3, nv)
  else if has 1 then (.special 1, false)
  else if has 2 then (.special 2, false)
  else
    let r := ps.foldl (fun q p => match p with | .fin v e => if v = 0 then q else addExact q.1 q.2 v e | _ => q) ((0 : Int), (0 : Int))
    (.fin r.1 r.2, false)

/-- One element takes a step's value (R82). -/
def takeStep (e : Int) (p : Int × Nat) (v : Exact) : (Int × Nat) × Bool :=
  match p.2, v with
  | 0, .fin n x => if n = 0 then (p, false)
    else if x ≥ e then ((p.1 + n * (2 ^ (x - e).toNat : Int), 0), false)
    else ((rneShift (p.1 * (2 ^ (e - x).toNat : Int) + n) (e - x).toNat, 0), false)
  | z, .fin _ _ => ((p.1, z), false)
  | z, .special w => let r := specialSum z w; ((p.1, r.1), r.2)

def accFull : Int := 2 ^ 46

/-- Renormalisation of R82: the tile, and whether AS is set. -/
def renormalise : Nat → AccTile → Bool → AccTile × Bool
  | 0, t, a => (t, a)
  | fuel + 1, t, a =>
    let big := fun (p : Int × Nat) => decide (p.2 = 0) && decide (p.1.natAbs ≥ 2 ^ 46)
    if !t.elems.any big then (t, a)
    else if t.e ≤ 32763 then
      renormalise fuel { t with e := t.e + 4, rn := min (t.rn + 1) 65535,
                                elems := t.elems.map (fun p => if p.2 = 0 then (rneShift p.1 4, 0) else p) } a
    else
      ({ t with es := true, elems := t.elems.map (fun p =>
          if big p then ((if p.1 < 0 then -(accFull - 1) else accFull - 1), 0) else p) }, true)

/-- ACCNORM (R83). -/
def lowerTile : Nat → AccTile → AccTile
  | 0, t => t
  | fuel + 1, t =>
    if t.e ≥ -32764 ∧ t.elems.all (fun p => decide (p.2 ≠ 0) || decide (p.1.natAbs < 2 ^ 42)) then
      lowerTile fuel { t with e := t.e - 4, elems := t.elems.map (fun p => if p.2 = 0 then (p.1 * 16, 0) else p) }
    else t

/-- One step over the whole tile (R82): the tile and its flags. -/
def accStep (t : AccTile) (vs : List (Exact × Bool)) : AccTile × BitVec 6 :=
  let rs := (t.elems.zip vs).map (fun p => (takeStep t.e p.1 p.2.1, p.2.2))
  let nv := rs.any (fun r => r.1.2 || r.2)
  let (u, as) := renormalise 20000 { t with elems := rs.map (fun r => r.1.1) } false
  (u, (if nv then fNV else 0) ||| (if as then fAS else 0))

/-- An operand element, with an infinity replaced under SAT (R268, R271). -/
def operandVal (fmt : Nat) (sat : Bool) (x : Nat) : FVal :=
  match scaledVal fmt x, fmtFp fmt with
  | .inf n, some t => if sat then fdec t (fmax t n) else .inf n
  | v, _ => v

/-- The product of R80: two elements and the scales of their blocks. A DESIGN CHOICE (notes/assumptions/84): a block with a NaN scale sets
no NV, whatever its elements are. -/
def product (a b : FVal) (sa sb : Option (Nat × Int)) : Exact × Bool :=
  match sa, sb with
  | some (ma, ea), some (mb, eb) =>
    if ma = 0 ∨ mb = 0 then (.fin 0 0, false)
    else match a, b with
      | .nan _, _ => (.special 3, a.signals || b.signals)
      | _, .nan _ => (.special 3, a.signals || b.signals)
      | .inf n, .inf m => (.special (if n = m then 1 else 2), false)
      | .inf n, .fin m v _ => if v = 0 then (.special 3, true) else (.special (if n = m then 1 else 2), false)
      | .fin m v _, .inf n => if v = 0 then (.special 3, true) else (.special (if n = m then 1 else 2), false)
      | .fin n v e, .fin m w f => (.fin ((if n = m then 1 else -1) * ((v * w * ma * mb : Nat) : Int)) (e + f + ea + eb), false)
  | _, _ => (.special 3, false)

/-! The format word (R268). -/

/-- A format word. -/
structure FormatWord where
  af    : Nat
  bf    : Nat
  shape : Nat
  asc   : Bool
  bsc   : Bool
  sat   : Bool
  sb    : Nat
deriving DecidableEq, Repr

def formatOf (w : Word) : FormatWord :=
  ⟨(w.extractLsb' 0 4).toNat, (w.extractLsb' 4 4).toNat, (w.extractLsb' 8 2).toNat, w.getLsbD 10, w.getLsbD 11, w.getLsbD 12,
   (w.extractLsb' 16 32).toNat⟩

/-- The checks of a popped format word. -/
def formatFault (i : Instr) (w : Word) : Option FCode :=
  let f := formatOf w
  if !((decide (f.af ≤ 3) && decide (f.bf ≤ 3)) || (decide (f.af = 4) && decide (f.bf = 4))) || decide (w.extractLsb' 48 16 ≠ 0) ||
      decide (w.extractLsb' 13 3 ≠ 0) then some (0x0D, wordOf i)
  else if f.shape = 3 ∧ (f.af = 4 ∨ f.asc ∨ f.bsc) then some (0x15, w)
  else none

/-- Elements of a row, bytes of an element, and blocks of a row. -/
def FormatWord.kel (f : FormatWord) : Nat := if f.af = 4 then 192 else 384
def FormatWord.bytes (f : FormatWord) : Nat := if f.af = 4 then 2 else 1
def FormatWord.blocks (f : FormatWord) : Nat := f.kel / 32
/-- Products in one step (R81). -/
def FormatWord.step (f : FormatWord) : Nat := if f.shape = 0 then 1 else if f.shape = 1 then 8 else if f.shape = 2 then 32 else f.kel

/-! The words (R263). -/

/-- The parts of MMA's and MMAS's popped values: MW and the descriptors that are popped. -/
structure MmaArgs where
  mw : Word
  a  : Option (Word × Word)
  b  : Option (Word × Word)
deriving DecidableEq, Repr

def mmaArgs (ta tb : Bool) (vals : List Word) : Option MmaArgs :=
  match ta, tb, vals with
  | true, true, [mw] => some ⟨mw, none, none⟩
  | true, false, [mw, b0, b1] => some ⟨mw, none, some (b0, b1)⟩
  | false, true, [mw, a0, a1] => some ⟨mw, some (a0, a1), none⟩
  | false, false, [mw, a0, a1, b0, b1] => some ⟨mw, some (a0, a1), some (b0, b1)⟩
  | _, _, _ => none

def mwAcc (w : Word) : Nat := (w.extractLsb' 0 6).toNat
def mwM (w : Word) : Nat := (w.extractLsb' 9 5).toNat + 1
def mwN (w : Word) : Nat := (w.extractLsb' 14 5).toNat + 1
def mwTa (w : Word) : Nat := (w.extractLsb' 19 5).toNat
def mwTb (w : Word) : Nat := (w.extractLsb' 24 5).toNat

/-- A descriptor that is popped has its zero bits zero. -/
def pairOk : Option (Word × Word) → Bool
  | none => true
  | some (p, q) => (matOperand p q).isSome

/-- R261 and R271 for MMA and MMAS. -/
def mmaOk (x : Slot) (ta tb : Bool) (vals : List Word) : Bool :=
  match mmaArgs ta tb vals with
  | none => false
  | some g =>
    decide (g.mw.extractLsb' 6 2 = 0) && decide (g.mw.extractLsb' 29 35 = 0) && accExists x (mwAcc g.mw) &&
    (if ta then tileExists x (mwTa g.mw) else decide (mwTa g.mw = 0)) &&
    (if tb then tileExists x (mwTb g.mw) else decide (mwTb g.mw = 0)) && pairOk g.a && pairOk g.b

/-- Fields of MCTL. -/
def mctlT (w : Word) : Nat := (w.extractLsb' 0 5).toNat
def mctlCount (w : Word) : Nat := (w.extractLsb' 5 5).toNat + 1
def cwFmt (w : Word) : BitVec 4 := w.extractLsb' 6 4
def cwPitch (w : Word) : Nat := (w.extractLsb' 16 16).toNat

/-- The check of a matrix word's popped values (R261, R263, R269). -/
def matCheck (i : Instr) (s : State) (k : SlotId) (_ : EngStream) (vals : List Word) : Option FCode :=
  let x := getSlot s k
  let bad : Option FCode := some (0x0D, wordOf i)
  let need (b : Bool) : Option FCode := if b then none else bad
  let tilesOk (c p q : Word) : Bool :=
    decide (c.extractLsb' 10 54 = 0) && decide (mctlT c + mctlCount c ≤ 32) && tileExists x (mctlT c + mctlCount c - 1) &&
      (matOperand p q).isSome
  let accOk (w : Word) : Bool := decide (w.extractLsb' 6 58 = 0) && accExists x (mwAcc w)
  match i, vals with
  | .mld, [_, c, p, q] => need (tilesOk c p q)
  | .mst, [_, c, p, q] => need (tilesOk c p q)
  | .accinit, [_, w] => need (decide (w.extractLsb' 6 10 = 0) && decide (w.extractLsb' 32 32 = 0) && accExists x (mwAcc w))
  | .acczero, [_, m] => need ((List.range 64).all (fun n => !m.getLsbD n || accExists x n))
  | .acccvt, [_, w, d] =>
    need (decide (w.extractLsb' 14 2 = 0) && decide (w.extractLsb' 32 32 = 0) && accExists x (mwAcc w) &&
      ([0, 1, 2, 4, 5, 6] : List (BitVec 4)).contains (cwFmt w) && decide (w.extractLsb' 10 3 ≠ 7) &&
      decide (32 * fmtSize (cwFmt w).toNat ≤ cwPitch w) && addrOk d)
  | .accnorm, [_, w] => need (accOk w)
  | .accsnap, [_, w, a] => need (accOk w && addrOk a && decide (a.toNat % 8 = 0))
  | .accload, [_, w, a] => need (accOk w && addrOk a && decide (a.toNat % 8 = 0))
  | .mma ta tb, _ :: rest =>
    if !mmaOk x ta tb rest then bad
    else match x.fmtq with
      | [] => some (0x0B, 0)
      | f :: _ => formatFault i f
  | .mmas ta tb, _ :: stamp :: rest =>
    if !mmaOk x ta tb rest then bad
    else if s.dcc.toNat ≥ stamp.toNat then some (0x0C, stamp) else none
  | .permrd, [_, d] => need (addrOk d)
  | .growrd, [_, d] => need (addrOk d)
  | _, _ => bad

/-- A descriptor's whole span over tiles and rows, as the range checker takes it. -/
def matSpan (s : State) (k : SlotId) (p q : Word) (tiles rows : Nat) : List (Nat × Nat) :=
  match matOperand p q with
  | some m => spSpan s k (m.span 384 tiles rows).1 (m.span 384 tiles rows).2
  | none => []

/-- Where the scale of row r and block g of A or B lies (R271). -/
def scaleAddr (f : FormatWord) (isB : Bool) (r g : Nat) : Nat :=
  f.sb + (if isB then 3 * (32 * f.blocks * f.asc.toNat) else 0) + 3 * (f.blocks * r + g)

/-- The scratchpad addresses that an MMA reads: operand rows, then scales. -/
def mmaSpans (s : State) (k : SlotId) (g : MmaArgs) (fw : Option Word) : List (Nat × Nat) :=
  (match g.a with | some (p, q) => matSpan s k p q 1 (mwM g.mw) | none => []) ++
  (match g.b with | some (p, q) => matSpan s k p q 1 (mwN g.mw) | none => []) ++
  (match fw with
    | none => []
    | some w =>
      let f := formatOf w
      (if f.asc then spSpan s k (scaleAddr f false 0 0) (scaleAddr f false (mwM g.mw - 1) (f.blocks - 1) + 2 : Nat) else []) ++
      (if f.bsc then spSpan s k (scaleAddr f true 0 0) (scaleAddr f true (mwN g.mw - 1) (f.blocks - 1) + 2 : Nat) else []))

/-- The spans of a matrix launch, with the format word that it has popped or will pop (R233, R264 to R271). -/
def matReachWith (fw : Option Word) (i : Instr) (s : State) (k : SlotId) (vals : List Word) : Reach :=
  let one (a n : Nat) : List (Nat × Nat) := spSpan s k a (a + n - 1 : Nat)
  match i, vals with
  | .mld, [_, c, p, q] => ⟨matSpan s k p q (mctlCount c) 32, [], [], []⟩
  | .mst, [_, c, p, q] => ⟨[], matSpan s k p q (mctlCount c) 32, [], []⟩
  | .acccvt, [_, w, d] => ⟨[], one d.toNat (31 * cwPitch w + 32 * fmtSize (cwFmt w).toNat), [], []⟩
  | .accsnap, [_, _, a] => ⟨[], one a.toNat 8200, [], []⟩
  | .accload, [_, _, a] => ⟨one a.toNat 8200, [], [], []⟩
  | .mma ta tb, _ :: rest => match mmaArgs ta tb rest with | some g => ⟨mmaSpans s k g fw, [], [], []⟩ | none => ⟨[], [], [], []⟩
  | .mmas ta tb, _ :: _ :: rest => match mmaArgs ta tb rest with | some g => ⟨mmaSpans s k g fw, [], [], []⟩ | none => ⟨[], [], [], []⟩
  | .permrd, [_, d] => ⟨[], one d.toNat 64, [], []⟩
  | .growrd, [_, d] => ⟨[], one d.toNat 8, [], []⟩
  | _, _ => ⟨[], [], [], []⟩

/-- The spans at the word: MMA's format word is the head of the queue. -/
def matReach (i : Instr) (s : State) (k : SlotId) (vals : List Word) : Reach :=
  matReachWith ((getSlot s k).fmtq.head?) i s k vals

/-- What a matrix word fixes at issue: MMA pops its format word; ACCCVT fixes its mode and its 1,024 words. -/
def matPrepare (i : Instr) (s : State) (k : SlotId) (e : Fin 4) (vals : List Word) : State × Option Word × BitVec 3 :=
  match i with
  | .mma _ _ => (modSlot s k (fun x => { x with fmtq := x.fmtq.tail }), (getSlot s k).fmtq.head?, 0)
  | .acccvt =>
    let rm := (vals.getD 1 0).extractLsb' 10 3
    let m := if rm = 6 then (getSlot s k).frm else rm
    (if m = 5 then modEng s k e (fun y => { y with ctr := y.ctr + 1024 }) else s, none, m)
  | _ => (s, none, 0)

/-! Effects. -/

/-- Reads a launch's inputs: the first poisoned byte of scratchpad faults, then a poisoned register; the first byte out of range is
noted (R261, R262). -/
def matInputs (s : State) (k : SlotId) (as : List Nat) (ts es : List (Nat × Nat)) : Except FCode State :=
  match (spFirstBad s k as).orElse (fun _ => regFault s (getSlot s k) ts es) with
  | some f => .error f
  | none => .ok (noteOobs s k 1 false as)

/-- Stores bytes of scratchpad, noting the first out of range. -/
def matStore (s : State) (k : SlotId) (cs : List (Nat × Byte)) : State :=
  cs.foldl (fun s c => spPut s k (c.1 % 2 ^ 64) c.2) (noteOobs s k 1 true (cs.map Prod.fst))

/-- Places of the bytes of count tiles through a descriptor, in the order of R264: address and key. -/
def tilePlaces (m : MatOperand) (t count : Nat) : List (Nat × Nat) :=
  (List.range count).flatMap (fun c => (List.range 32).flatMap (fun i => (List.range 384).map (fun b =>
    (m.at 384 c i b, tileKey (t + c) i b))))

/-- An element converted by ACCCVT (R85, R266). -/
def convertAcc (fmt : Nat) (mode : BitVec 3) (sat : Bool) (r : BitVec 32) (e : Int) (p : Int × Nat) : Nat × BitVec 6 :=
  match fmtFp fmt with
  | some t =>
    if p.2 = 3 then (canonNaN t, 0)
    else if p.2 ≠ 0 then
      (if sat && decide (t.width = 8) then (fmax t (decide (p.2 = 2)), 0)
       else if t.inf then (finf t (decide (p.2 = 2)), 0) else (overflowTo t mode false (decide (p.2 = 2)), 0))
    else if p.1 = 0 then (0, 0)
    else roundFp t mode (sat && decide (t.width = 8)) (decide (p.1 < 0)) p.1.natAbs e false r none
  | none =>
    let w := 8 * fmtSize fmt
    let (v, f) : Int × BitVec 6 :=
      if p.2 = 3 then (0, fNV)
      else if p.2 = 1 then ((2 ^ (w - 1) : Int) - 1, fNV)
      else if p.2 = 2 then (-(2 ^ (w - 1) : Int), fNV)
      else roundToInt w mode (decide (p.1 < 0)) p.1.natAbs e false r none
    (patternOf w v, f)

/-- The image of a tile (R267). -/
def accImage (t : AccTile) : Bytes :=
  t.elems.flatMap (fun p => toBytes 8 ((accCell p).setWidth 64)) ++
    toBytes 8 (BitVec.ofNat 64 t.rn <<< 16 ||| (BitVec.ofInt 16 t.e).setWidth 64 ||| b2w t.es <<< 32)

/-- The tile that an image holds. -/
def imageTile (w : Nat → Word) : AccTile :=
  let st := w 1024
  ⟨(List.range 1024).map (fun n => (((w n).extractLsb' 0 48).toInt, ((w n).extractLsb' 48 2).toNat)),
   (st.extractLsb' 0 16).toInt, (st.extractLsb' 16 16).toNat, st.getLsbD 32⟩

/-- Elements of an operand row, as values. -/
def rowVals (fmt : Nat) (sat : Bool) (kel bytes : Nat) (byte : Nat → Byte) : List FVal :=
  (List.range kel).map (fun n => operandVal fmt sat (bytesVal ((List.range bytes).map (fun b => byte (n * bytes + b)))))

/-- The addresses that an MMA reads, to check and to note. -/
def mmaReads (g : MmaArgs) (f : FormatWord) : List Nat :=
  let rows (o : Option (Word × Word)) (n : Nat) : List Nat :=
    match o.bind (fun p => matOperand p.1 p.2) with
    | some m => (List.range n).flatMap (fun i => (List.range 384).map (fun b => m.at 384 0 i b))
    | none => []
  let scales (on isB : Bool) (n : Nat) : List Nat :=
    if on then (List.range n).flatMap (fun r => (List.range f.blocks).flatMap (fun c => spRange (scaleAddr f isB r c) 3)) else []
  rows g.a (mwM g.mw) ++ rows g.b (mwN g.mw) ++ scales f.asc false (mwM g.mw) ++ scales f.bsc true (mwN g.mw)

/-- MMA and MMAS (R270, R271). -/
def mmaEffect (s : State) (k : SlotId) (g : MmaArgs) (fw : Word) : Except FCode (State × BitVec 6) :=
  let f := formatOf fw
  let regs := (if g.a.isNone then [tileRange (mwTa g.mw) (mwM g.mw)] else []) ++ (if g.b.isNone then [tileRange (mwTb g.mw) (mwN g.mw)] else [])
  match matInputs s k (mmaReads g f) regs (if g.mw.getLsbD 8 then [] else [accRange (mwAcc g.mw)]) with
  | .error e => .error e
  | .ok s1 =>
    let x := getSlot s1 k
    let m := mwM g.mw
    let n := mwN g.mw
    let bytesOf (o : Option (Word × Word)) (reg i : Nat) : Nat → Byte :=
      match o.bind (fun p => matOperand p.1 p.2) with
      | some d => fun b => spGet s1 k (d.at 384 0 i b)
      | none => fun b => cellGet x.tiles (tileKey reg i b)
    let av := (List.range m).map (fun i => rowVals f.af f.sat f.kel f.bytes (bytesOf g.a (mwTa g.mw) i))
    let bv := (List.range n).map (fun j => rowVals f.bf f.sat f.kel f.bytes (bytesOf g.b (mwTb g.mw) j))
    let scales (on isB : Bool) (rows : Nat) : List (List (Option (Nat × Int))) :=
      (List.range rows).map (fun r => (List.range f.blocks).map (fun c =>
        if on then bs24Val (spNat s1 k (scaleAddr f isB r c) 3) else some (1, 0)))
    let sa := scales f.asc false m
    let sb := scales f.bsc true n
    let t0 := accTile x (mwAcc g.mw)
    let t1 := if g.mw.getLsbD 8 then t0.clear else t0
    let r := (List.range (f.kel / f.step)).foldl (fun (q : AccTile × BitVec 6) st =>
      let vs := (List.range 32).flatMap (fun i => (List.range 32).map (fun j =>
        if i < m ∧ j < n then
          let ps := (List.range f.step).map (fun c =>
            let kk := st * f.step + c
            product ((av.getD i []).getD kk (.fin false 0 0)) ((bv.getD j []).getD kk (.fin false 0 0))
              ((sa.getD i []).getD (kk / 32) none) ((sb.getD j []).getD (kk / 32) none))
          let sum := stepSum (ps.map Prod.fst)
          (sum.1, sum.2 || ps.any Prod.snd)
        else (.fin 0 0, false)))
      let u := accStep q.1 vs
      (u.1, q.2 ||| u.2)) (t1, (0 : BitVec 6))
    .ok (modSlot s1 k (fun x => putAccTile x (mwAcc g.mw) r.1), r.2)

/-- The effect of a matrix launch other than a factorisation, and its flags. -/
def matrixEffect (s : State) (k : SlotId) (l : Launch) : Except FCode (State × BitVec 6) :=
  let x := getSlot s k
  match l.op, l.vals with
  | .mld, [_, c, p, q] =>
    match matOperand p q with
    | none => .ok (s, 0)
    | some m =>
      let ps := tilePlaces m (mctlT c) (mctlCount c)
      match matInputs s k (ps.map Prod.fst) [] [] with
      | .error f => .error f
      | .ok s1 => .ok (modSlot s1 k (fun x => { x with
          tiles := cellsSet x.tiles (ps.map (fun a => (a.2, spGet s1 k a.1)))
          tilePoison := setClear x.tilePoison (tileKey (mctlT c) 0 0) (mctlCount c * 12288) }), 0)
  | .mst, [_, c, p, q] =>
    match matOperand p q with
    | none => .ok (s, 0)
    | some m =>
      match matInputs s k [] [(tileKey (mctlT c) 0 0, mctlCount c * 12288)] [] with
      | .error f => .error f
      | .ok s1 => .ok (matStore s1 k ((tilePlaces m (mctlT c) (mctlCount c)).map (fun a => (a.1, cellGet x.tiles a.2))), 0)
  | .accinit, [_, w] =>
    .ok (modSlot s k (fun x => putAccTile x (mwAcc w) { (accTile x (mwAcc w)).clear with e := (w.extractLsb' 16 16).toInt }), 0)
  | .acczero, [_, m] =>
    .ok (modSlot s k (fun x => (List.range 64).foldl (fun x n => if m.getLsbD n then putAccTile x n (accTile x n).clear else x) x), 0)
  | .acccvt, [_, w, d] =>
    let fmt := (cwFmt w).toNat
    let t := accTile x (mwAcc w)
    match regFault s x [] [accRange (mwAcc w)] with
    | some f => .error f
    | none =>
    let rs := (t.elems.zipIdx).map (fun p => (convertAcc fmt l.rm (w.getLsbD 13) (rng32 l.key (l.ctr + BitVec.ofNat 64 p.2)) t.e p.1, p.2))
    let cs := rs.flatMap (fun r => valueAt (d.toNat + r.2 / 32 * cwPitch w + r.2 % 32 * fmtSize fmt) (fmtSize fmt) r.1.1)
    .ok (matStore s k cs, rs.foldl (fun f r => f ||| r.1.2) 0)
  | .accnorm, [_, w] =>
    match regFault s x [] [accRange (mwAcc w)] with
    | some f => .error f
    | none => .ok (modSlot s k (fun x => putAccTile x (mwAcc w) (lowerTile 20000 (accTile x (mwAcc w)))), 0)
  | .accsnap, [_, w, a] =>
    match regFault s x [] [accRange (mwAcc w)] with
    | some f => .error f
    | none => .ok (matStore s k (cellsAt a.toNat (accImage (accTile x (mwAcc w)))), 0)
  | .accload, [_, w, a] =>
    match matInputs s k (spRange a.toNat 8200) [] [] with
    | .error f => .error f
    | .ok s1 => .ok (modSlot s1 k (fun x => putAccTile x (mwAcc w) (imageTile (fun n => BitVec.ofNat 64 (spNat s1 k (a.toNat + 8 * n) 8)))), 0)
  | .mma ta tb, _ :: rest => match mmaArgs ta tb rest with | some g => mmaEffect s k g (l.fmtw.getD 0) | none => .ok (s, 0)
  | .mmas ta tb, _ :: _ :: rest => match mmaArgs ta tb rest with | some g => mmaEffect s k g (l.fmtw.getD 0) | none => .ok (s, 0)
  | .permrd, [_, d] => .ok (matStore s k (cellsAt d.toNat (x.perm.toList.map (fun v => v.setWidth 8))), 0)
  | .growrd, [_, d] => .ok (matStore s k (cellsAt d.toNat (toBytes 8 (fieldAt x.fst 32 ||| x.grow.setWidth 64))), 0)
  | _, _ => .ok (s, 0)

/-- A matrix word: legal in the matrix stream, MMAS with its feature. -/
def matWord (i : Instr) (pops : Nat) (feat : State → Bool) (s : State) : Out :=
  launchWord i (decide (s.cur.eng = 1) && feat s) pops false (matCheck i) (matReach i) (matPrepare i) s

/-- Entries that MMA pops after its completion word. -/
def mmaPops (ta tb : Bool) : Nat := 1 + (if ta then 0 else 2) + (if tb then 0 else 2)

def execMld (s : State) : Out := matWord .mld 4 always s
def execMst (s : State) : Out := matWord .mst 4 always s
def execAccinit (s : State) : Out := matWord .accinit 2 always s
def execAcczero (s : State) : Out := matWord .acczero 2 always s
def execAcccvt (s : State) : Out := matWord .acccvt 3 always s
def execAccnorm (s : State) : Out := matWord .accnorm 2 always s
def execAccsnap (s : State) : Out := matWord .accsnap 3 always s
def execAccload (s : State) : Out := matWord .accload 3 always s
def execMma (ta tb : Bool) (s : State) : Out := matWord (.mma ta tb) (1 + mmaPops ta tb) always s
def execMmas (ta tb : Bool) (s : State) : Out := matWord (.mmas ta tb) (2 + mmaPops ta tb) (fun s => feature s 2) s
def execPermrd (s : State) : Out := matWord .permrd 2 always s
def execGrowrd (s : State) : Out := matWord .growrd 2 always s

end Sys2Proof.Machine
end

