-- ==== Sys2Proof/Machine/Factor.lean ====
section
/-! DEFINITION. Machine/Factor.lean: the factorisation words (R273 to R280): numbered steps over FP32 arrays in scratchpad. -/

namespace Sys2Proof.Machine

/-- FCTL of R273. -/
structure FCtl where
  n      : Nat
  rows   : Nat
  ncol   : Nat
  unit   : Bool
  trans  : Bool
  permb  : Bool
  apitch : Nat
  bpitch : Nat
deriving DecidableEq, Repr

def fctlOf (w : Word) : FCtl :=
  ⟨(w.extractLsb' 0 7).toNat, (w.extractLsb' 8 7).toNat, (w.extractLsb' 16 7).toNat, w.getLsbD 23, w.getLsbD 24, w.getLsbD 25,
   (w.extractLsb' 32 16).toNat, (w.extractLsb' 48 16).toNat⟩

/-- A factorisation with its operands. -/
structure FacArgs where
  c   : FCtl
  a   : Nat
  tau : Nat
  b   : Nat
deriving DecidableEq, Repr

def facArgs (i : Instr) (vals : List Word) : Option FacArgs :=
  match i, vals with
  | .flu _, [_, w, a] => some ⟨fctlOf w, a.toNat, 0, 0⟩
  | .fchol _, [_, w, a] => some ⟨fctlOf w, a.toNat, 0, 0⟩
  | .fqr _, [_, w, a, t] => some ⟨fctlOf w, a.toNat, t.toNat, 0⟩
  | .ftrsl _, [_, w, a, b] => some ⟨fctlOf w, a.toNat, 0, b.toNat⟩
  | .ftrsu _, [_, w, a, b] => some ⟨fctlOf w, a.toNat, 0, b.toNat⟩
  | .fapplyq _, [_, w, a, t, b] => some ⟨fctlOf w, a.toNat, t.toNat, b.toNat⟩
  | _, _ => none

/-- FX of a word. -/
def facFx : Instr → Bool
  | .flu fx => fx | .fchol fx => fx | .fqr fx => fx | .ftrsl fx => fx | .ftrsu fx => fx | .fapplyq fx => fx
  | _ => false

/-- Which fields a word uses: ROWS; NCOL, TRANS and BPITCH; UNIT; PERMB. -/
def facUses : Instr → Bool × Bool × Bool × Bool
  | .fqr _ => (true, false, false, false)
  | .ftrsl _ => (false, true, true, true)
  | .ftrsu _ => (false, true, true, false)
  | .fapplyq _ => (true, true, false, false)
  | _ => (false, false, false, false)

def wordAligned (a : Nat) : Bool := decide (a < 2 ^ 32) && decide (a % 4 = 0)

/-- The check of a factorisation word's popped values (R261, R273). -/
def facCheck (i : Instr) (_ : State) (_ : SlotId) (_ : EngStream) (vals : List Word) : Option FCode :=
  let u := facUses i
  let ok : Bool := match facArgs i vals, vals with
    | some g, _ :: w :: _ =>
      let c := g.c
      decide (w.extractLsb' 26 6 = 0) && !w.getLsbD 15 && !w.getLsbD 7 &&
      decide (1 ≤ c.n) && decide (c.n ≤ 64) && decide (c.apitch % 4 = 0) && decide (4 * c.n ≤ c.apitch) &&
      (if u.1 then decide (c.n ≤ c.rows) && decide (c.rows ≤ 64) else decide (c.rows = 0)) &&
      (if u.2.1 then decide (1 ≤ c.ncol) && decide (c.ncol ≤ 64) && decide (c.bpitch % 4 = 0) && decide (4 * c.ncol ≤ c.bpitch)
       else decide (c.ncol = 0) && decide (c.bpitch = 0) && !c.trans) &&
      (u.2.2.1 || !c.unit) && (!c.permb || (u.2.2.2 && !c.trans)) &&
      wordAligned g.a && wordAligned g.tau && wordAligned g.b
    | _, _ => false
  if ok then none else some (0x0D, wordOf i)

/-- The rows of A, tau and B (R273). -/
def facRows (i : Instr) (g : FacArgs) : List Rows :=
  let u := facUses i
  let c := g.c
  let rows := if u.1 then c.rows else c.n
  let part (base pitch count n : Nat) : Rows := (List.range count).map (fun r => (base + r * pitch, n))
  part g.a c.apitch rows (4 * c.n) ::
    ((if u.1 then [[(g.tau, 4 * c.n)]] else []) ++ (if u.2.1 then [part g.b c.bpitch rows (4 * c.ncol)] else []))

def facReach (i : Instr) (s : State) (k : SlotId) (vals : List Word) : Reach :=
  match facArgs i vals with
  | some g => let sp := (facRows i g).flatMap (rowsSpan s k); ⟨sp, sp, [], []⟩
  | none => ⟨[], [], [], []⟩

/-! A step (R274, R275). -/

/-- A step under way: how elements read, what the step has written, flags, and the registers. -/
structure Fac where
  /-- An element as the step finds it; none when one of its bytes is poisoned. -/
  base  : Nat → Option Nat
  /-- Whether an address is in range, and where it lies. -/
  key   : Nat → Option Nat
  /-- Written elements: place, address and value. -/
  ov    : List (Nat × Nat × Nat)
  fl    : BitVec 6
  perm  : List Nat
  grow  : Nat
  fst   : BitVec 32
  /-- The first poisoned element read. -/
  bad   : Option Nat
  /-- Record has raised 0x0F. -/
  fault : Bool
  /-- PERM is not a permutation (R279). -/
  badPerm : Bool
  /-- The addresses out of range, in order: write or read. -/
  oob   : List (Bool × Nat)

abbrev FacM := StateM Fac

/-- An FP32 element. -/
def fget (a : Nat) : FacM Nat := fun f =>
  match f.key a with
  | none => (0, { f with oob := f.oob ++ [(false, a)] })
  | some p =>
    match f.ov.find? (fun e => e.1 == p) with
    | some e => (e.2.2, f)
    | none => match f.base a with
      | some v => (v, f)
      | none => (0, { f with bad := f.bad.orElse (fun _ => some a) })
/-- Writes an FP32 element. -/
def fset (a v : Nat) : FacM Unit := fun f =>
  match f.key a with
  | none => ((), { f with oob := f.oob ++ [(true, a)] })
  | some p => ((), { f with ov := (p, a, v) :: f.ov })
/-- An operation with its flags. -/
def fop (r : Nat × BitVec 6) : FacM Nat := fun f => (r.1, { f with fl := f.fl ||| r.2 })
/-- Record of R274: whether it raises 0x0F. -/
def frecord (fx : Bool) (o st : Nat) : FacM Bool := fun f =>
  let g := if f.fst.extractLsb' 0 4 = 0 then { f with fst := BitVec.ofNat 32 (st * 256 + o) } else f
  (fx, if fx then { g with fault := true } else g)
def fgrow (v : Nat) : FacM Unit := fun f => ((), { f with grow := v })
def ffst : FacM Unit := fun f => ((), { f with fst := 0 })
def fident : FacM Unit := fun f => ((), { f with perm := List.range 64 })
def fperm (p : List Nat) : FacM Unit := fun f => ((), { f with perm := p })

/-- The largest or smallest magnitude, or number, of a set; NaN when it holds one (R274, R277). -/
def extreme (isMax signed : Bool) (xs : List Nat) : Nat :=
  if xs.any f32nan then canonNaN fp32
  else match xs.map (fun x => if signed then x else f32abs x) with
    | [] => 0
    | x :: rest => rest.foldl (fun a b => (fpMinMax fp32 isMax a b).1) x

/-- Numbers from a up to b − 1. -/
def span' (a b : Nat) : List Nat := (List.range (b - a)).map (a + ·)

/-- Elements of A at pairs of indices. -/
def felems (at' : Nat → Nat → Nat) (ps : List (Nat × Nat)) : FacM (List Nat) := ps.mapM (fun p => fget (at' p.1 p.2))

def one32 : Nat := 0x3F80_0000

/-- The growth after the last step of FLU and FQR. -/
def growAfter (at' : Nat → Nat → Nat) (n : Nat) : FacM Unit := do
  let f ← get
  if f32zero f.grow then fgrow one32
  else
    let xs ← felems at' ((span' 0 n).flatMap (fun i => (span' i n).map (fun j => (i, j))))
    let g ← fop (f32div (extreme true false xs) f.grow)
    fgrow g

/-- Step k of FLU (R276); the answer tells whether the word ends here. -/
def fluStep (fx : Bool) (at' : Nat → Nat → Nat) (n k : Nat) : FacM Bool := do
  if k = 0 then
    fident
    let xs ← felems at' ((span' 0 n).flatMap (fun i => (span' 0 n).map (fun j => (i, j))))
    fgrow (extreme true false xs)
    ffst
  let first ← fget (at' k k)
  let p ← (span' (k + 1) n).foldlM (fun (p : Nat × Nat) i => do
    let v ← fget (at' i k)
    pure (if f32lt (f32abs p.2) (f32abs v) then (i, v) else p)) (k, first)
  if f32zero p.2 then
    let _ ← frecord fx 1 k
  else
    if p.1 ≠ k then
      for j in span' 0 n do
        let u ← fget (at' k j)
        let v ← fget (at' p.1 j)
        fset (at' k j) v
        fset (at' p.1 j) u
      let f ← get
      fperm ((f.perm.set k (f.perm.getD p.1 0)).set p.1 (f.perm.getD k 0))
    let piv ← fget (at' k k)
    for i in span' (k + 1) n do
      let v ← fget (at' i k)
      let q ← fop (f32div v piv)
      fset (at' i k) q
    for i in span' (k + 1) n do
      let m ← fget (at' i k)
      for j in span' (k + 1) n do
        let u ← fget (at' k j)
        let v ← fget (at' i j)
        let r ← fop (f32fma (f32neg m) u v)
        fset (at' i j) r
  let f ← get
  if k + 1 = n ∧ !f.fault then growAfter at' n
  pure false

/-- Step k of FCHOL (R277). -/
def fcholStep (fx : Bool) (at' : Nat → Nat → Nat) (n k : Nat) : FacM Bool := do
  if k = 0 then
    fident
    let xs ← felems at' ((span' 0 n).map (fun i => (i, i)))
    fgrow (extreme true true xs)
    ffst
  let d ← fget (at' k k)
  if !f32lt 0 d then
    let raised ← frecord fx 2 k
    if !raised then
      let f ← get
      let g ← fop (f32div d f.grow)
      fgrow g
    pure true
  else
    let l ← fop (f32sqrt d)
    fset (at' k k) l
    for i in span' (k + 1) n do
      let v ← fget (at' i k)
      let q ← fop (f32div v l)
      fset (at' i k) q
    for j in span' (k + 1) n do
      for i in span' j n do
        let u ← fget (at' i k)
        let v ← fget (at' j k)
        let w ← fget (at' i j)
        let r ← fop (f32fma (f32neg u) v w)
        fset (at' i j) r
    if k + 1 = n then
      let xs ← felems at' ((span' 0 n).map (fun i => (i, i)))
      let lmin := extreme false true xs
      let sq ← fop (f32mul lmin lmin)
      let f ← get
      let g ← fop (f32div sq f.grow)
      fgrow g
    pure false

/-- Step k of FQR (R278). -/
def fqrStep (fx : Bool) (at' : Nat → Nat → Nat) (tau rows n k : Nat) : FacM Bool := do
  if k = 0 then
    fident
    let xs ← felems at' ((span' 0 rows).flatMap (fun i => (span' 0 n).map (fun j => (i, j))))
    fgrow (extreme true false xs)
    ffst
  let alpha ← fget (at' k k)
  let sum ← (span' (k + 1) rows).foldlM (fun q i => do
    let v ← fget (at' i k)
    fop (f32fma v v q)) 0
  if f32zero sum then
    if f32zero alpha then
      let _ ← frecord fx 3 k
    fset (tau + 4 * k) 0
  else
    let aa ← fop (f32fma alpha alpha sum)
    let nrm ← fop (f32sqrt aa)
    let beta := if alpha < 2 ^ 31 then f32neg nrm else nrm
    let num ← fop (f32sub beta alpha)
    let t ← fop (f32div num beta)
    fset (tau + 4 * k) t
    let c ← fop (f32sub alpha beta)
    for i in span' (k + 1) rows do
      let v ← fget (at' i k)
      let q ← fop (f32div v c)
      fset (at' i k) q
    fset (at' k k) beta
    for j in span' (k + 1) n do
      let w0 ← fget (at' k j)
      let w1 ← (span' (k + 1) rows).foldlM (fun w i => do
        let u ← fget (at' i k)
        let v ← fget (at' i j)
        fop (f32fma u v w)) w0
      let tk ← fget (tau + 4 * k)
      let w ← fop (f32mul tk w1)
      let akj ← fget (at' k j)
      let r ← fop (f32sub akj w)
      fset (at' k j) r
      for i in span' (k + 1) rows do
        let u ← fget (at' i k)
        let v ← fget (at' i j)
        let q ← fop (f32fma (f32neg u) w v)
        fset (at' i j) q
  let f ← get
  if k + 1 = n ∧ !f.fault then growAfter at' n
  pure false

/-- Step st of FTRSL and FTRSU (R279). -/
def ftrsStep (lower fx : Bool) (c : FCtl) (at' bt : Nat → Nat → Nat) (st : Nat) : FacM Bool := do
  let n := c.n
  let f0 ← get
  let permOk := (List.range n).all (fun v => (f0.perm.take n).contains v)
  if st = 0 ∧ c.permb ∧ !permOk then
    modify (fun f => { f with badPerm := true })
    pure true
  else
    if st = 0 then
      ffst
      if c.unit then fgrow one32
      else
        let xs ← felems at' ((span' 0 n).map (fun i => (i, i)))
        let g ← fop (f32div (extreme true false xs) (extreme false false xs))
        fgrow g
      if c.permb then
        let rows ← (span' 0 n).mapM (fun i => (span' 0 c.ncol).mapM (fun j => fget (bt (f0.perm.getD i 0) j)))
        for i in span' 0 n do
          for j in span' 0 c.ncol do
            fset (bt i j) ((rows.getD i []).getD j 0)
    let up := lower != c.trans
    let k := if up then st else n - 1 - st
    let js := if up then span' 0 k else span' (k + 1) n
    let dk ← if c.unit then pure one32 else fget (at' k k)
    let raised ← if !c.unit ∧ f32zero dk then frecord fx 4 st else pure false
    if !raised then
      for col in span' 0 c.ncol do
        let x0 ← fget (bt k col)
        let x1 ← js.foldlM (fun x j => do
          let t ← fget (if c.trans then at' j k else at' k j)
          let v ← fget (bt j col)
          fop (f32fma (f32neg t) v x)) x0
        let x2 ← if c.unit then pure x1 else fop (f32div x1 dk)
        fset (bt k col) x2
    pure false

/-- Step st of FAPPLYQ (R280). -/
def fapplyqStep (c : FCtl) (at' bt : Nat → Nat → Nat) (tau st : Nat) : FacM Bool := do
  if st = 0 then ffst
  let k := if c.trans then st else c.n - 1 - st
  let tk ← fget (tau + 4 * k)
  if !f32zero tk then
    for col in span' 0 c.ncol do
      let w0 ← fget (bt k col)
      let w1 ← (span' (k + 1) c.rows).foldlM (fun w i => do
        let u ← fget (at' i k)
        let v ← fget (bt i col)
        fop (f32fma u v w)) w0
      let w ← fop (f32mul tk w1)
      let b ← fget (bt k col)
      let r ← fop (f32sub b w)
      fset (bt k col) r
      for i in span' (k + 1) c.rows do
        let u ← fget (at' i k)
        let v ← fget (bt i col)
        let q ← fop (f32fma (f32neg u) w v)
        fset (bt i col) q
  pure false

/-- The step of a word. -/
def facStep (i : Instr) (g : FacArgs) (st : Nat) : FacM Bool :=
  let at' (r c : Nat) : Nat := g.a + r * g.c.apitch + 4 * c
  let bt (r c : Nat) : Nat := g.b + r * g.c.bpitch + 4 * c
  match i with
  | .flu fx => fluStep fx at' g.c.n st
  | .fchol fx => fcholStep fx at' g.c.n st
  | .fqr fx => fqrStep fx at' g.tau g.c.rows g.c.n st
  | .ftrsl fx => ftrsStep true fx g.c at' bt st
  | .ftrsu fx => ftrsStep false fx g.c at' bt st
  | .fapplyq _ => fapplyqStep g.c at' bt g.tau st
  | _ => pure true

/-- Whether arrays of a word overlap in memory. -/
def facOverlap (s : State) (k : SlotId) (i : Instr) (g : FacArgs) : Bool :=
  let parts := (facRows i g).zipIdx.flatMap (fun p => p.1.map (fun r => (rowPlace s k r, p.2)))
  parts.any (fun a => parts.any (fun b => decide (a.2 < b.2) && decide (a.1.1 < b.1.1 + b.1.2) && decide (b.1.1 < a.1.1 + a.1.2)))

/-- How a step of a launch comes out. -/
inductive FacOut where
  /-- The word goes on, or has ended, with its flags. -/
  | ok (s : State) (fl : BitVec 6) (last : Bool)
  /-- A fault that leaves the state as the step found it. -/
  | fault (f : FCode)
  /-- A Record with FX: the step writes no array; the registers and the flags stand (R274, R275). -/
  | recorded (s : State) (fl : BitVec 6) (f : FCode)

/-- One numbered step of a factorisation launch. Where arrays overlap, an element read holds its value from before the word,
in s0, or as the word has left it (R273; notes/assumptions/2). -/
def runStep (s0 s : State) (k : SlotId) (l : Launch) : FacOut :=
  match facArgs l.op l.vals with
  | none => .ok s 0 true
  | some g =>
    let x := getSlot s k
    let free := facOverlap s k l.op g
    let read (a : Nat) : Option Nat :=
      let from' := if free && Config.freeBool (s.fresh + a / 4 % 2 ^ 20) then s0 else s
      if (List.range 4).any (fun j => spBad from' k (a + j)) then none else some (spNat from' k a 4)
    let f0 : Fac :=
      { base := read, key := fun a => (spAt s k a).map (fun p => spPlace p.1 p.2), ov := [], fl := 0,
        perm := x.perm.toList.map BitVec.toNat, grow := x.grow.toNat, fst := x.fst, bad := none, fault := false, badPerm := false, oob := [] }
    let (ended, f) := (facStep l.op g l.prog).run f0
    let regs (s : State) : State := modSlot s k (fun x => { x with
      perm := Vector.ofFn (fun i : Fin 64 => BitVec.ofNat 6 (f.perm.getD i.val 0)), grow := BitVec.ofNat 32 f.grow, fst := f.fst })
    match f.bad with
    | some a => match spFirstBad s k (spRange a 4) with
      | some e => .fault e
      | none => .fault (0x13, BitVec.ofNat 64 a)
    | none =>
      if f.badPerm then .fault (0x0D, wordOf l.op)
      else
        let s1 := match f.oob with
          | (w, a) :: _ => noteOob s k 1 w a
          | [] => s
        let s2 := if free then { s1 with fresh := s1.fresh + 2 ^ 20 } else s1
        if f.fault then .recorded (regs s2) f.fl (0x0F, f.fst.setWidth 64)
        else
          let s3 := f.ov.reverse.foldl (fun s e => spPutBytes s k e.2.1 (natBytes 4 e.2.2)) (regs s2)
          .ok s3 f.fl (ended || decide (l.prog + 1 ≥ g.c.n))

/-- Up to n steps of a launch: the state, flags and step reached, and how it stopped. -/
structure FacRun where
  s    : State
  fl   : BitVec 6
  prog : Nat
  /-- The word has ended. -/
  done : Bool
  fault : Option FCode
  /-- The fault ends the launch (0x0F). -/
  ended : Bool

def runSteps (s0 : State) (k : SlotId) (l : Launch) : Nat → State → BitVec 6 → Nat → FacRun
  | 0, s, fl, p => ⟨s, fl, p, false, none, false⟩
  | n + 1, s, fl, p =>
    match runStep s0 s k { l with prog := p } with
    | .fault f => ⟨s, fl, p, false, some f, false⟩
    | .recorded t g f => ⟨t, fl ||| g, p, false, some f, true⟩
    | .ok t f last => if last then ⟨t, fl ||| f, p + 1, true, none, false⟩ else runSteps s0 k l n t (fl ||| f) (p + 1)

/-- Whether a launch is a factorisation. -/
def isFactor : Instr → Bool
  | .flu _ => true | .fchol _ => true | .fqr _ => true | .ftrsl _ => true | .ftrsu _ => true | .fapplyq _ => true
  | _ => false

/-- A factorisation word. -/
def facWord (i : Instr) (pops : Nat) (s : State) : Out :=
  launchWord i (decide (s.cur.eng = 1)) pops false (facCheck i) (facReach i) prepareNone s

def execFlu (fx : Bool) (s : State) : Out := facWord (.flu fx) 3 s
def execFchol (fx : Bool) (s : State) : Out := facWord (.fchol fx) 3 s
def execFqr (fx : Bool) (s : State) : Out := facWord (.fqr fx) 4 s
def execFtrsl (fx : Bool) (s : State) : Out := facWord (.ftrsl fx) 4 s
def execFtrsu (fx : Bool) (s : State) : Out := facWord (.ftrsu fx) 4 s
def execFapplyq (fx : Bool) (s : State) : Out := facWord (.fapplyq fx) 5 s

end Sys2Proof.Machine
end

