-- ==== Sys2Proof/Machine/FloatWords.lean ====
section
/-! DEFINITION. Machine/FloatWords.lean: the floating-point words of the control stream (R161, R170, R177 to R180). -/

namespace Sys2Proof.Machine

/-- The effective mode of a rounding field (R66, R67): 6 reads FRM. -/
def Slot.mode (x : Slot) (rm : BitVec 3) : BitVec 3 := if rm = 6 then x.frm else rm
/-- The random word of a control word in mode 5 (R71). -/
def Slot.randomWord (x : Slot) (m : BitVec 3) : BitVec 32 := if m = 5 then rng32 x.key x.ctr else 0
/-- Mode 5 advances the counter by 1 (R71). -/
def Slot.draw (x : Slot) (m : BitVec 3) : Slot := if m = 5 then { x with ctr := x.ctr + 1 } else x
/-- Flags are ORed into FFLAGS (R75). -/
def Slot.orFlags (x : Slot) (f : BitVec 6) : Slot := { x with fflags := x.fflags ||| f }

/-- The format of the D bit (R161). -/
def fpOf (d : Bool) : FpFmt := if d then fp64 else fp32
/-- An operand of the D bit: FP32 takes the low half. -/
def fpArg (d : Bool) (v : Word) : Nat := if d then v.toNat else v.toNat % 2 ^ 32

/-- A rounding word: poison propagates, mode 5 draws in every case (R160, R161, R71). -/
def floatWord (i : Instr) (g : Guard) (sd : Reg) (rm : BitVec 3) (srcs : List Src)
    (f : BitVec 3 → BitVec 32 → Slot → Nat × BitVec 6) (s : State) : Out :=
  control i true false g srcs (fun t =>
    .ok (modCur t (fun x =>
      let m := x.mode rm
      if (firstPoison x srcs).isSome then (x.draw m).writePoison sd
      else
        let r := f m (x.randomWord m) x
        ((x.draw m).orFlags r.2).writeS sd (BitVec.ofNat 64 r.1)))) s

def execFadd (g : Guard) (sd : Reg) (rm : BitVec 3) (d : Bool) (a b : Src) (s : State) : Out :=
  floatWord (.fadd g sd rm d a b) g sd rm [a, b] (fun m r x =>
    fpAdd (fpOf d) m r (fpArg d (x.readS a.reg)) (fpArg d (x.readS b.reg))) s
def execFsub (g : Guard) (sd : Reg) (rm : BitVec 3) (d : Bool) (a b : Src) (s : State) : Out :=
  floatWord (.fsub g sd rm d a b) g sd rm [a, b] (fun m r x =>
    fpSub (fpOf d) m r (fpArg d (x.readS a.reg)) (fpArg d (x.readS b.reg))) s
def execFmul (g : Guard) (sd : Reg) (rm : BitVec 3) (d : Bool) (a b : Src) (s : State) : Out :=
  floatWord (.fmul g sd rm d a b) g sd rm [a, b] (fun m r x =>
    fpMul (fpOf d) m r (fpArg d (x.readS a.reg)) (fpArg d (x.readS b.reg))) s
def execFfma (g : Guard) (sd : Reg) (rm : BitVec 3) (d : Bool) (a b c : Src) (s : State) : Out :=
  floatWord (.ffma g sd rm d a b c) g sd rm [a, b, c] (fun m r x =>
    fpFma (fpOf d) m r (fpArg d (x.readS a.reg)) (fpArg d (x.readS b.reg)) (fpArg d (x.readS c.reg))) s
def execFdiv (g : Guard) (sd : Reg) (rm : BitVec 3) (d : Bool) (a b : Src) (s : State) : Out :=
  floatWord (.fdiv g sd rm d a b) g sd rm [a, b] (fun m r x =>
    fpDiv (fpOf d) m r (fpArg d (x.readS a.reg)) (fpArg d (x.readS b.reg))) s
def execFsqrt (g : Guard) (sd : Reg) (rm : BitVec 3) (d : Bool) (a : Src) (s : State) : Out :=
  floatWord (.fsqrt g sd rm d a) g sd rm [a] (fun m r x => fpSqrt (fpOf d) m r (fpArg d (x.readS a.reg))) s
def execFexp2 (g : Guard) (sd : Reg) (rm : BitVec 3) (d : Bool) (a : Src) (s : State) : Out :=
  floatWord (.fexp2 g sd rm d a) g sd rm [a] (fun m r x => fpExp2 (fpOf d) m r (fpArg d (x.readS a.reg))) s
def execFlog2 (g : Guard) (sd : Reg) (rm : BitVec 3) (d : Bool) (a : Src) (s : State) : Out :=
  floatWord (.flog2 g sd rm d a) g sd rm [a] (fun m r x => fpLog2 (fpOf d) m r (fpArg d (x.readS a.reg))) s
/-- FMIN (R178): it has no rounding field. -/
def execFmin (g : Guard) (sd : Reg) (d : Bool) (a b : Src) (s : State) : Out :=
  floatWord (.fmin g sd d a b) g sd 0 [a, b] (fun _ _ x =>
    fpMinMax (fpOf d) false (fpArg d (x.readS a.reg)) (fpArg d (x.readS b.reg))) s
def execFmax (g : Guard) (sd : Reg) (d : Bool) (a b : Src) (s : State) : Out :=
  floatWord (.fmax g sd d a b) g sd 0 [a, b] (fun _ _ x =>
    fpMinMax (fpOf d) true (fpArg d (x.readS a.reg)) (fpArg d (x.readS b.reg))) s
def execFclass (g : Guard) (sd : Reg) (d : Bool) (a : Src) (s : State) : Out :=
  alu1 (.fclass g sd d a) g sd a (fun v => BitVec.ofNat 64 (fpClass (fpOf d) (fpArg d v))) s

/-- The two's complement pattern of 64 bits. -/
def intResult (p : Int × BitVec 6) : Nat × BitVec 6 := (patternOf 64 p.1, p.2)

/-- The conversions of R179. -/
def fcvtValue (code : BitVec 4) (m : BitVec 3) (r : BitVec 32) (v : Word) : Nat × BitVec 6 :=
  let lo := v.toNat % 2 ^ 32
  match code.toNat with
  | 0 => fpToFp fp32 fp64 m false r lo
  | 1 => fpToFp fp64 fp32 m false r v.toNat
  | 2 => fpToFp fp32 bf16 m false r lo
  | 3 => fpToFp bf16 fp32 m false r (v.toNat % 2 ^ 16)
  | 4 => intResult (fpToInt fp32 64 m r lo)
  | 5 => intResult (fpToInt fp64 64 m r v.toNat)
  | 6 => intToFp fp32 m false r v.toInt
  | 7 => intToFp fp64 m false r v.toInt
  | 8 => intResult (fpToInt fp32 32 m r lo)
  | _ => intToFp fp32 m false r (v.extractLsb' 0 32).toInt

def execFcvt (g : Guard) (sd : Reg) (rm : BitVec 3) (code : BitVec 4) (a : Src) (s : State) : Out :=
  floatWord (.fcvt g sd rm code a) g sd rm [a] (fun m r x => fcvtValue code m r (x.readS a.reg)) s

/-- FCMP (R170): it consumes poison and sets no flag but NV. -/
def execFcmp (g : Guard) (pd pe : Pred) (cc : BitVec 4) (d : Bool) (a b : Src) (s : State) : Out :=
  plain (.fcmp g pd pe cc d a b) g [a, b] (fun t =>
    .ok (modCur t (fun x =>
      let r := fpCond (fpOf d) cc (fpArg d (x.readS a.reg)) (fpArg d (x.readS b.reg))
      (x.orFlags r.2).writeCmp pd pe r.1))) s

end Sys2Proof.Machine
end

