-- ==== Sys2Proof/Machine/Launch.lean ====
section
/-! DEFINITION. Machine/Launch.lean: the range checker (R233), the course of a launch from its start to its completion or its
fault (R224, R225), and the stamp of MMAS (R272). -/

namespace Sys2Proof.Machine

/-! Kinds of launch. -/

def isMmas : Instr → Bool
  | .mmas _ _ => true
  | _ => false

/-- The spans of a launch in its queue. -/
def launchReach (s : State) (k : SlotId) (e : Fin 4) (l : Launch) : Reach :=
  if e = 2 then copyReach l.op s k l.vals
  else if e = 1 then vecReach l.op s k l.vals
  else if e = 3 then travReach l.op s k l.vals
  else if isFactor l.op then facReach l.op s k l.vals
  else matReachWith (l.fmtw.orElse (fun _ => (getSlot s k).fmtq.head?)) l.op s k l.vals

/-- Whether spans of two lists meet in a byte. -/
def spansMeet (l m : List (Nat × Nat)) : Bool := l.any (fun a => m.any (fun b => decide (a.1 < b.2) && decide (b.1 < a.2)))

/-- Spans of a slot's own scratchpad (R233). -/
def ownSpans (k : SlotId) (l : List (Nat × Nat)) : List (Nat × Nat) := l.filter (fun p => decide (p.1 / 2 ^ 26 = k.val))

/-- Whether the range checker of a slot orders one launch after another (R233). -/
def Reach.meets (a b : Reach) (k : SlotId) : Bool :=
  let r (x : Reach) := ownSpans k x.spReads
  let w (x : Reach) := ownSpans k x.spWrites
  spansMeet (w a) (r b) || spansMeet (r a) (w b) || spansMeet (w a) (w b)

/-- The launches of a slot that have not completed, with their streams. -/
def allLaunches (x : Slot) : List (Fin 4 × Launch) :=
  [0, 1, 2, 3].flatMap (fun e : Fin 4 => (x.engs[e]).launches.map (fun l => (e, l)))

/-- Every launch that the checker orders before this one has completed. -/
def checkerClear (s : State) (k : SlotId) (e : Fin 4) (l : Launch) : Bool :=
  (allLaunches (getSlot s k)).all (fun p =>
    !(decide (p.2.seq < l.seq) && (launchReach s k p.1 p.2).meets (launchReach s k e l) k))

/-- Where the first launch of a stream that has not started stands. -/
def nextStart (y : EngStream) : Option (Nat × Launch) := (y.launches.zipIdx.find? (fun p => !p.1.started)).map (fun p => (p.2, p.1))

/-- Replaces a launch. -/
def setLaunch (s : State) (k : SlotId) (e : Fin 4) (i : Nat) (l : Launch) : State :=
  modEng s k e (fun y => { y with launches := y.launches.set i l })

/-- LAUNCH_START (R224, R233, R260): the launches of a stream start in order, each when the checker admits it; a matrix launch
also when it is the oldest of its stream. -/
def execLaunchStart (slot : SlotId) (eng : EngId) (s : State) : Out :=
  match engIndex eng with
  | none => .next s
  | some e =>
    let y := getEng s slot e
    match nextStart y with
    | none => .next s
    | some (i, l) =>
      if !(getSlot s slot).launchRuns l.seq ∨ (getSlot s slot).job.isNone ∨ isMmas l.op ∨ l.parked ∨ y.faulted = some l.seq ∨ (e = 0 ∧ i ≠ 0) ∨
          !checkerClear s slot e l then .next s
      else
        match l.op, l.vals with
        | .cpyg _ _, [_, _, _, idx, shape, _] =>
          let as := spRange idx.toNat (4 * hi32 shape)
          let l1 := { l with started := true, idx := if (spFirstBad s slot as).isSome then none else some (readIndices s slot idx (hi32 shape)) }
          .next (setLaunch (noteOobs s slot 3 false as) slot e i l1)
        | .cpys _ _, [_, _, _, idx, shape, _] =>
          let as := spRange idx.toNat (4 * hi32 shape)
          let l1 := { l with started := true, idx := if (spFirstBad s slot as).isSome then none else some (readIndices s slot idx (hi32 shape)) }
          .next (setLaunch (noteOobs s slot 3 false as) slot e i l1)
        | _, _ => .next (setLaunch s slot e i { l with started := true })

/-- MMAS_STAMP (R272): at the stamp the launch starts, or misses; a stamp that has passed is a miss. A launch that has popped its
format word and then met poison starts again from its beginning (R262). -/
def execMmasStamp (slot : SlotId) (s : State) : Out :=
  let y := getEng s slot 0
  match y.launches.zipIdx.find? (fun p => isMmas p.1.op && !p.1.started) with
  | none => .next s
  | some (l, i) =>
    let stamp := l.vals.getD 1 0
    if !(getSlot s slot).launchRuns l.seq ∨ (getSlot s slot).job.isNone ∨ l.parked ∨ y.faulted = some l.seq ∨ s.dcc.toNat < stamp.toNat then
      .next s
    else if l.fmtw.isSome then
      .next (if i = 0 ∧ checkerClear s slot 0 l then setLaunch s slot 0 i { l with started := true } else s)
    else
      let raise' (f : FCode) : State :=
        if y.held then setLaunch s slot 0 i { l with parked := true } else engineFault s slot 0 l.pc (some l.seq) f
      let miss := raise' (0x0C, stamp)
      match (getSlot s slot).fmtq with
      | [] => .next miss
      | f :: rest =>
        if s.dcc ≠ stamp ∨ i ≠ 0 ∨ !checkerClear s slot 0 l then .next miss
        else match formatFault l.op f with
          | some e => .next (raise' e)
          | none => .next (setLaunch (modSlot s slot (fun x => { x with fmtq := rest })) slot 0 i { l with started := true, fmtw := some f })

/-- How a launch's effect comes out. -/
inductive Effect where
  /-- It completes, knowing what it has read. -/
  | done (s : State) (fl : BitVec 6) (o : Order)
  /-- It faults; what it has done stands, and the launch is as given. -/
  | fault (s : State) (fl : BitVec 6) (l : Launch) (f : FCode)
  /-- Neither yet. -/
  | not

/-- The effect of a started launch from where it stands. Bytes of a copy land one by one (COPY_BYTE_LAND); every other launch
has its effect in one step (notes/assumptions/11). -/
def launchEffect (s : State) (k : SlotId) (e : Fin 4) (l : Launch) : Effect :=
  if e = 2 then
    match l.op, l.idx, l.vals with
    | .cpyg _ _, none, [_, _, _, idx, shape, _] =>
      (match spFirstBad s k (spRange idx.toNat (4 * hi32 shape)) with | some f => .fault s 0 l f | none => .not)
    | .cpys _ _, none, [_, _, _, idx, shape, _] =>
      (match spFirstBad s k (spRange idx.toNat (4 * hi32 shape)) with | some f => .fault s 0 l f | none => .not)
    | _, _, _ =>
      match copyPlan s k l.op l.vals (l.idx.getD []) with
      | .error f => .fault s 0 l f
      | .ok p =>
        if l.prog ≥ p.total then .done s 0 l.order
        else match launchByte s k l with
          | .error e => .fault e.s 0 (l.move e.m) e.f
          | .ok _ => .not
  else if e = 1 then
    match vectorEffect s k l with
    | .error f => .fault s 0 l f
    | .ok (s1, fl) => .done s1 fl l.order
  else if e = 3 then
    match traversalEffect s k l with
    | .error (w, f) => .fault w.1 0 { l with order := w.2 } f
    | .ok (some w) => .done w.1 0 w.2
    | .ok none => .not
  else if isFactor l.op then
    if l.ended then .done s 0 l.order
    else
      let r := runSteps s k l 64 s 0 l.prog
      match r.fault with
      | some f => .fault r.s r.fl { l with prog := r.prog, ended := r.ended } f
      | none => if r.done then .done r.s r.fl l.order else .not
  else
    match matrixEffect s k l with
    | .error f => .fault s 0 l f
    | .ok (s1, fl) => .done s1 fl l.order

/-- Whether a launch may end: it has started, it has met no fault, and its job's record is not written. -/
def mayEnd (s : State) (k : SlotId) (y : EngStream) (l : Launch) : Bool :=
  l.started && !l.parked && decide (y.faulted ≠ some l.seq) && (match (getSlot s k).stop with | some st => !st.written | none => true)

/-- A launch leaves its queue: flags, completion object, and what WAITQ and JOIN will acquire (R75, R121, R196, R224, R231). -/
def finishLaunch (s : State) (k : SlotId) (e : Fin 4) (i : Nat) (l : Launch) (fl : BitVec 6) (o : Order) : State :=
  let s1 := modSlot s k (fun x => { x.orFlags fl with
    fin := x.fin.set (engCode e).val ((x.fin[(engCode e)]).join o.cur) (engCode e).isLt })
  let s2 := modEng s1 k e (fun y => { y with launches := y.launches.eraseIdx i })
  completeInto s2 k (engCode e) (l.vals.headD 0) o.cur

/-- LAUNCH_COMPLETE (R224). -/
def execLaunchComplete (slot : SlotId) (eng : EngId) (index : Nat) (s : State) : Out :=
  match engIndex eng with
  | none => .next s
  | some e =>
    let y := getEng s slot e
    match y.launches[index]? with
    | none => .next s
    | some l =>
      if !mayEnd s slot y l then .next s
      else match launchEffect s slot e l with
        | .done s1 fl o => .next (finishLaunch s1 slot e index l fl o)
        | _ => .next s

/-- LAUNCH_FAULT (R225): a fault found while a launch runs is raised for the launch's word. While its stream is held for another fault,
that one stays pending until it is taken (R351): this launch waits at its fault, and starts again with the stream. -/
def execLaunchFault (slot : SlotId) (eng : EngId) (index : Nat) (s : State) : Out :=
  match engIndex eng with
  | none => .next s
  | some e =>
    let y := getEng s slot e
    match y.launches[index]? with
    | none => .next s
    | some l =>
      if !mayEnd s slot y l then .next s
      else match launchEffect s slot e l with
        | .fault s1 fl l1 f =>
          let s2 := modSlot s1 slot (fun x => x.orFlags fl)
          .next (if y.held then setLaunch s2 slot e index { l1 with parked := true, ended := l.ended }
            else engineFault (setLaunch s2 slot e index l1) slot e l.pc (some l.seq) f)
        | _ => .next s

end Sys2Proof.Machine
end

