-- ==== Sys2Proof/Machine/Units.lean ====
section
/-! DEFINITION. Machine/Units.lean: requests to the die units (R22, R299, R332): how a unit reads and writes, how a request
is served, and how its word completes. -/

namespace Sys2Proof.Machine

/-- An access of a unit: of the requester's scratchpad or of memory, a write or a read, and its bytes. -/
structure UnitAccess where
  sp    : Bool
  write : Bool
  lo    : Nat
  n     : Nat
deriving DecidableEq, Repr

/-- A unit at work: the state it is about to leave, the state before its first write and whether that has come, its accesses so far, what the request
knows (R113), its die, and the requester's slot and context. -/
structure UnitWork where
  s     : State
  base  : State
  wrote : Bool
  accs  : List UnitAccess
  order : Order
  die   : Die
  slot  : SlotId
  ctx   : Ctx

/-- The work with a state that reading has left. -/
def UnitWork.read (w : UnitWork) (s : State) (accs : List UnitAccess) (o : Order) : UnitWork :=
  { w with s := s, base := if w.wrote then w.base else s, accs := w.accs ++ accs, order := o }

/-- How a request ends early, in the state before its first write. -/
inductive UnitStop where
  | fault (s : State) (f : FCode) (accs : List UnitAccess)
  /-- A reply that changes nothing. -/
  | status (s : State) (v : Word) (accs : List UnitAccess)
  /-- RaiseDeferred of R313. -/
  | deferred (s : State) (f : FaultInfo) (accs : List UnitAccess)

/-- A request's work. A fault or a status leaves every structure as it was (R299). -/
abbrev UnitM := StateT UnitWork (Except UnitStop)

def ufault {α : Type} (f : FCode) : UnitM α := fun w => .error (.fault w.base f w.accs)
def ustatus {α : Type} (v : Word) : UnitM α := fun w => .error (.status w.base v w.accs)

/-- Reads bytes through the requester's page tables. -/
def uRead (va : Word) (n : Nat) : UnitM Bytes := fun w =>
  match unitReadFor w.s w.slot w.die w.order w.ctx va n with
  | .error f => ufault f w
  | .ok (s1, o, bs) => .ok (bs, w.read s1 [⟨false, false, va.toNat, n⟩] o)

/-- Writes bytes through the requester's page tables; a request carries no version (R308). -/
def uWrite (va : Word) (bs : Bytes) : UnitM Unit := fun w =>
  match unitCells w.s w.ctx va bs with
  | .error f => ufault f w
  | .ok (s1, cs) =>
    let q := agentStoreEach s1 w.slot 0 w.order va cs
    .ok ((), { w with s := q.1, order := q.2, wrote := true, accs := w.accs ++ [⟨false, true, va.toNat, bs.length⟩] })

/-- An atomic OR (R327): it takes the bytes that the last writes left. -/
def uOr (va : Word) (bs : Bytes) : UnitM Unit := fun w =>
  match unitCells w.s w.ctx va bs with
  | .error f => ufault f w
  | .ok (s1, cs) =>
    let q := agentStoreEach s1 w.slot 0 w.order va (cs.map (fun p => (p.1, cellGet s1.mem p.1 ||| p.2)))
    .ok ((), { w with s := q.1, order := q.2, wrote := true, accs := w.accs ++ [⟨false, true, va.toNat, bs.length⟩] })

def uNat (va : Word) (n : Nat) : UnitM Nat := do return bytesVal (← uRead va n)
def uWord (va : Word) : UnitM Word := do return BitVec.ofNat 64 (← uNat va 8)
def uState : UnitM State := fun w => .ok (w.s, w)
def uModify (f : State → State) : UnitM Unit := fun w => .ok ((), { w with s := f w.s, wrote := true })

/-- A scratchpad range as deterministic mode keeps it. -/
def spAccess (s : State) (k : SlotId) (wr : Bool) (a n : Nat) : List UnitAccess :=
  (spSpan s k a (a + n - 1 : Nat)).map (fun p => ⟨true, wr, p.1, p.2 - p.1⟩)

/-- Reads scratchpad by its address (R93): each byte is its own access (R95); a poisoned byte faults. -/
def uSpRead (a n : Nat) : UnitM Bytes := fun w =>
  match spFirstBad w.s w.slot (spRange a n) with
  | some f => ufault f w
  | none =>
    let s1 := noteOobs w.s w.slot 0 false (spRange a n)
    .ok ((spRange a n).map (spGet w.s w.slot), w.read s1 (spAccess w.s w.slot false a n) w.order)
/-- Writes scratchpad; a request carries no version (R308). -/
def uSpWrite (a : Nat) (bs : Bytes) : UnitM Unit := fun w =>
  let s1 := noteOobs w.s w.slot 0 true (spRange a bs.length)
  let s2 := bs.zipIdx.foldl (fun s p => spStore s w.slot ((a + p.2) % 2 ^ 64) p.1) s1
  .ok ((), { w with s := s2, wrote := true, accs := w.accs ++ spAccess w.s w.slot true a bs.length })

/-- How a served request comes out. -/
inductive Served where
  | value (s : State) (v : Word)
  | fault (s : State) (f : FCode)
  | deferred (s : State) (f : FaultInfo)

/-- The accesses of a request under deterministic mode (R130, R133, R134, R299): the requester's own. -/
def detUnit (x : Slot) (accs : List UnitAccess) : Except FCode Slot :=
  if !x.deterministic then .ok x
  else
    let foot := match x.job with | some j => j.foot | none => []
    match accs.findSome? (fun a =>
        (if a.sp then none else detEntry foot (if a.write then .write else .read) a.lo a.n).orElse
          (fun _ => detConflict x.det 0 x.order[0].cur.accs a.sp a.lo a.n a.write)) with
    | some f => .error f
    | none =>
      .ok { (x.knows 0 ⟨[], (List.range accs.length).map (· + x.det.next)⟩) with
            det := accs.foldl (fun d a => d.add 0 a.sp a.lo a.n a.write) x.det }

/-- Runs a request of a slot, with what it knows, on a die's unit. The accesses that it makes are held to deterministic mode
however it ends, and the return of its word is an acquire of them (R121, R299). -/
def runUnit (s : State) (k : SlotId) (die : Die) (o : Order) (m : UnitM Word) : Served :=
  let held (base t : State) (accs : List UnitAccess) (done : State → Served) : Served :=
    match detUnit (getSlot t k) accs with
    | .error f => .fault base f
    | .ok x => done (setSlot t k x)
  match m ⟨s, s, false, [], o, die, k, (getSlot s k).ctx⟩ with
  | .ok (v, w) => held w.base w.s w.accs (fun t => .value (modSlot t k (fun x => x.knows 0 w.order.cur)) v)
  | .error (.status t v accs) => held t t accs (fun t => .value t v)
  | .error (.fault t f accs) => held t t accs (fun t => .fault t f)
  | .error (.deferred t f accs) => held t t accs (fun t => .deferred t f)

/-- The status word's ST. -/
def stWord (n : Nat) : Word := BitVec.ofNat 64 (n * 2 ^ 56)

/-- The destination and the sources of a word that a die unit serves. -/
def unitFields : Instr → Option (Reg × List Src)
  | .kvappend _ sd a b c => some (sd, [a, b, c])
  | .kvcommit _ sd a b c => some (sd, [a, b, c])
  | .kvsquash _ sd a b => some (sd, [a, b])
  | .kvtrunc _ sd a b c => some (sd, [a, b, c])
  | .kvfork _ sd a b c => some (sd, [a, b, c])
  | .kvfree _ sd a b => some (sd, [a, b])
  | .smpstart _ sd a => some (sd, [a])
  | .acctest _ sd a => some (sd, [a])
  | .txenc _ sd a b => some (sd, [a, b])
  | .txdec _ sd a b => some (sd, [a, b])
  | .txcons _ sd a b => some (sd, [a, b])
  | .txvocabOpen _ sd a b => some (sd, [a, b])
  | .txvocabRebind _ sd a b => some (sd, [a, b])
  | .txvocabClose _ sd a b => some (sd, [a, b])
  | .txmask _ sd a b => some (sd, [a, b])
  | _ => none

/-- The course of a word that a die unit serves (R299, R332). `pre` makes the checks of the word itself and finds the die, or
a status when no unit serves it; `serve` is the unit's work. At an idle unit of the issuing core's own die the request is
served at once; else it travels. What happens before the word happens before the request (R117). -/
def unitWord (i : Instr) (feat : Bool) (g : Guard) (pre : State → List Word → Except FCode (Die ⊕ Word)) (unit : UnitKind)
    (serve : Die → SlotId → List Word → UnitM Word) (s : State) : Out :=
  match unitFields i with
  | none => .next s
  | some (sd, srcs) =>
    control i feat false g srcs (consuming srcs (fun t =>
      let k := t.cur.slot
      let vals := srcs.map (src t)
      match pre t vals with
      | .error f => .fault f
      | .ok (.inr v) => .ok (put t sd v)
      | .ok (.inl die) =>
        if die = dieOf k ∧ !(t.requests.any (fun r => r.die = die ∧ r.unit = unit)) then
          match runUnit t k die (streamOrder t k 0) (serve die k vals) with
          | .value t1 v => .ok (put t1 sd v)
          | .fault t1 f => .late t1 f
          -- the word has not taken effect: it is found as it was before it
          | .deferred t1 f => .ok (takeFault { t1 with slots := s.slots } k { f with pc := (curSlot s).pc })
        else .send (fun u =>
          { modCur u (fun x => { x with await := some (.unit die unit) }) with
            requests := u.requests ++ [⟨die, unit, k, i, vals, { Order.empty with cur := (streamOrder u k 0).cur }⟩] }))) s

/-- The reply of a unit that has served a request from afar. -/
def replyTo (k : SlotId) : Served → State
  | .value s v => modSlot s k (fun x => { x with reply := some (.value v) })
  | .fault s f => modSlot s k (fun x => { x with reply := some (.fault ⟨f.1, f.2, 0, x.pc, 0, none, none⟩) })
  | .deferred s f => modSlot s k (fun x => { x with reply := some (.fault { f with pc := x.pc }) })

/-- The oldest request to a unit, and the state without it. -/
def takeRequest (s : State) (die : Die) (unit : UnitKind) : Option (UnitRequest × State) :=
  match s.requests.find? (fun r => r.die = die ∧ r.unit = unit) with
  | none => none
  | some r => some (r, { s with requests := s.requests.eraseP (fun r => r.die = die ∧ r.unit = unit) })

/-- DIE_UNIT_REPLY (R299): the reply reaches the word, which writes its destination or faults. -/
def execDieUnitReply (slot : SlotId) (s : State) : Out :=
  let x := getSlot s slot
  match x.await, x.reply, x.wait.bind unitFields with
  | some (.unit _ _), some (.value v), some (sd, srcs) =>
    .next (modSlot s slot (fun y => { (y.markDead srcs).writeS sd v with await := none, reply := none, wait := none, pc := y.pc + 8 }))
  | some (.unit _ _), some (.fault f), _ =>
    .next (takeFault (modSlot s slot (fun y => { y with await := none, reply := none, wait := none })) slot f)
  | _, _, _ => .next s

end Sys2Proof.Machine
end

