-- ==== Sys2Proof/Machine/Pools.lean ====
section
/-! DEFINITION. Machine/Pools.lean: pools, pages and block tables, live sequences and hoods, and the KV words (R300 to R317). -/

namespace Sys2Proof.Machine

/-- A pool (R301). -/
structure Pool where
  desc  : Word
  /-- The physical address of the descriptor, by which the unit knows the pool (R300). -/
  pa    : Nat
  base  : Word
  psh   : Nat
  qsh   : Nat
  nlg   : Nat
  npage : Nat
  rc    : Word
  lnk   : Word
  seq   : Word
  maxblk : Nat
  win   : List Nat
deriving DecidableEq, Repr

def noPage : Nat := 0xFFFF_FFFF
/-- Positions of a page, and bytes of a position. -/
def Pool.ppos (p : Pool) : Nat := 2 ^ p.qsh
def Pool.esize (p : Pool) : Nat := 2 ^ (p.psh - p.qsh)
/-- Layer groups. -/
def Pool.groups (p : Pool) : List Nat := List.range (p.nlg + 1)
/-- Pages that hold n positions. -/
def Pool.blocks (p : Pool) (n : Nat) : Nat := (n + p.ppos - 1) / p.ppos

/-- The pool-unit-error fault (R302). -/
def badPool {α : Type} (p : Pool) : UnitM α := ufault (0x16, p.desc)

/-- Reads and checks a pool descriptor (R301, R302). -/
def readPool (a : Word) : UnitM Pool := do
  let bs ← uRead a 128
  let w := wordAt bs
  let geom := w 1
  let p : Pool := { desc := a, pa := 0, base := w 0, psh := (geom.extractLsb' 0 5).toNat, qsh := (geom.extractLsb' 8 5).toNat,
                    nlg := (geom.extractLsb' 16 3).toNat, npage := (w 2).toNat, rc := w 3, lnk := w 4, seq := w 5, maxblk := (w 7).toNat,
                    win := (List.range 8).map (fun g => bytesVal ((bs.drop (64 + 4 * g)).take 4)) }
  let ok := decide (14 ≤ p.psh) && decide (p.psh ≤ 20) && decide (4 ≤ p.qsh) && decide (p.qsh ≤ 8) && decide (p.qsh + 6 ≤ p.psh) &&
    decide (geom.extractLsb' 5 3 = 0) && decide (geom.extractLsb' 13 3 = 0) && decide (geom.extractLsb' 19 45 = 0) &&
    decide ((w 0).extractLsb' 48 16 = 0) && decide (p.base.toNat % 2 ^ p.psh = 0) &&
    decide (1 ≤ p.npage) && decide (p.npage ≤ 0xFFFF_FFFE) && decide (p.rc.toNat % 2 = 0) && decide (p.lnk.toNat % 4 = 0) &&
    decide (p.seq.toNat % 256 = 0) && decide (1 ≤ p.maxblk) && decide (p.maxblk ≤ 2 ^ 24) &&
    [12, 13, 14, 15].all (fun n => decide (w n = 0))
  if !ok then badPool p
  let s ← uState
  let ctx ← fun st => .ok (st.ctx, st)
  return { p with pa := (peek s (ctxL1 s ctx) a .read).getD 0 }

/-- The free list: its head and its count. -/
def readFree (p : Pool) : UnitM (Nat × Nat) := do
  let v ← uNat (p.desc + 0x30) 8
  return (v % 2 ^ 32, v / 2 ^ 32)
def writeFree (p : Pool) (head count : Nat) : UnitM Unit := uWrite (p.desc + 0x30) (natBytes 4 head ++ natBytes 4 count)

def rcAddr (p : Pool) (n : Nat) : Word := p.rc + BitVec.ofNat 64 (2 * n)
def lnkAddr (p : Pool) (n : Nat) : Word := p.lnk + BitVec.ofNat 64 (4 * n)
def pageAddr (p : Pool) (n x : Nat) : Word := p.base + BitVec.ofNat 64 (n * 2 ^ p.psh + x % p.ppos * p.esize)

/-- An allocation (R302). -/
def allocPage (p : Pool) : UnitM Nat := do
  let (head, count) ← readFree p
  if head ≥ p.npage ∨ count = 0 then badPool p
  let next ← uNat (lnkAddr p head) 4
  -- a bad link, or a list that ends before FREE.count pages
  if next ≥ p.npage ∧ ¬(next = 0xFFFFFFFF ∧ count = 1) then badPool p
  writeFree p next (count - 1)
  uWrite (rcAddr p head) (natBytes 2 1)
  return head

/-- A release (R302). -/
def releasePage (p : Pool) (n : Nat) : UnitM Unit := do
  if n ≥ p.npage then badPool p
  let c ← uNat (rcAddr p n) 2
  if c = 0 then badPool p
  uWrite (rcAddr p n) (natBytes 2 (c - 1))
  if c = 1 then
    let (head, count) ← readFree p
    -- a bad head, or a list that has ended before FREE.count pages
    if head ≥ p.npage ∧ ¬(head = noPage ∧ count = 0) then badPool p
    uWrite (lnkAddr p n) (natBytes 4 head)
    writeFree p n (count + 1)

/-- The address of the record of a sequence. -/
def seqAddr (p : Pool) (n : Nat) : Word := p.seq + BitVec.ofNat 64 (256 * n)

/-- The block table of a group. -/
def blockTable (p : Pool) (n g : Nat) : UnitM Word := do
  let a ← uWord (seqAddr p n + BitVec.ofNat 64 (0x10 + 8 * g))
  if a.toNat % 4 ≠ 0 then badPool p
  return a
def readBlock (bt : Word) (j : Nat) : UnitM Nat := uNat (bt + BitVec.ofNat 64 (4 * j)) 4
def writeBlock (bt : Word) (j n : Nat) : UnitM Unit := uWrite (bt + BitVec.ofNat 64 (4 * j)) (natBytes 4 n)

/-- The live sequence of a pool (R304). -/
def findSeq (s : State) (p : Pool) (n : Nat) : Option LiveSeq := s.seqs.find? (fun q => q.pool = p.pa ∧ q.seq = n)

/-- The unit's entry of a sequence replaced; a new sequence and a new version begin a new hood (R308). -/
def storeSeq (s : State) (q : LiveSeq) : State :=
  let era := match s.seqs.find? (fun r => r.hid = q.hid) with
    | some r => if r.ver = q.ver then r.era else s.eras
    | none => s.eras
  { s with eras := if era = s.eras then s.eras + 1 else s.eras
           seqs := s.seqs.filter (fun r => r.hid ≠ q.hid) ++ [{ q with era := era }] }

/-- The unit's entry of a sequence replaced, and its mirror in memory written (R303). -/
def putSeq (p : Pool) (q : LiveSeq) : UnitM Unit := do
  uModify (fun s => storeSeq s q)
  uWrite (seqAddr p q.seq) (toBytes 8 (BitVec.ofNat 64 (q.len % 2 ^ 32) ||| fieldAt q.ver 32 ||| BitVec.ofNat 64 (q.hn * 2 ^ 48) ||| (1#64 <<< 55)))
  uWrite (seqAddr p q.seq + 8) (natBytes 8 q.hid)
  uWrite (seqAddr p q.seq + 0x50) (q.hood.toList.flatMap (fun v => natBytes 4 v.toNat))

/-- The lowest free entry of a die (R304). -/
def freeEntry (s : State) (d : Die) : Option Nat :=
  (List.range 16384).find? (fun n => !(s.seqs.any (fun q => decide (q.hid = d.val * 16384 + n))))

/-- The status word of R311 for a sequence that is live or not. -/
def kvStatus (st : Nat) (q : Option LiveSeq) (w1 w0 : Nat) : Word :=
  stWord st ||| BitVec.ofNat 64 (w1 * 256 + w0) |||
    match q with
    | some q => fieldAt q.ver 32 ||| BitVec.ofNat 64 (q.hid * 2 ^ 16)
    | none => 0

def seqOf (b : Word) : Nat := (b.extractLsb' 0 20).toNat
def verOf (b : Word) : BitVec 16 := b.extractLsb' 20 16

/-- The shared tail page of a group, if it has one: its entry and its page (R305). -/
def sharedTail (p : Pool) (q : LiveSeq) (bt : Word) : UnitM (Option (Nat × Nat)) := do
  if q.len % p.ppos = 0 then return none
  let j := q.len / p.ppos
  let n ← readBlock bt j
  if n ≥ p.npage then badPool p
  let c ← uNat (rcAddr p n) 2
  return if c > 1 then some (j, n) else none

/-- Copy on write of a group (R305). -/
def copyOnWrite (p : Pool) (q : LiveSeq) (bt : Word) : UnitM Unit := do
  match ← sharedTail p q bt with
  | none => return ()
  | some (j, old) =>
    let new ← allocPage p
    let bs ← uRead (pageAddr p old 0) (q.len % p.ppos * p.esize)
    uWrite (pageAddr p new 0) bs
    releasePage p old
    writeBlock bt j new

/-- The pages that n more positions need (R312). -/
def pagesFor (p : Pool) (q : LiveSeq) (n : Nat) : UnitM Nat := do
  let mut total := 0
  for g in p.groups do
    let bt ← blockTable p q.seq g
    let shared ← sharedTail p q bt
    total := total + (if shared.isSome then 1 else 0) + (p.blocks (q.len + n) - p.blocks q.len)
  return total

/-- Room for n more committed positions in one group. -/
def growGroup (p : Pool) (q : LiveSeq) (bt : Word) (n : Nat) : UnitM Unit := do
  copyOnWrite p q bt
  for i in List.range (p.blocks (q.len + n) - p.blocks q.len) do
    let page ← allocPage p
    writeBlock bt (p.blocks q.len + i) page

/-- A window release (R306) at length len. -/
def windowRelease (p : Pool) (n len : Nat) : UnitM Unit := do
  for g in p.groups do
    let win := p.win.getD g 0
    if win > 0 ∧ win ≤ len then
      let bt ← blockTable p n g
      for j in List.range (min (p.blocks len) ((len - win) / p.ppos)) do
        let page ← readBlock bt j
        if page ≠ noPage then
          releasePage p page
          writeBlock bt j noPage

/-- A hood with no pages. -/
def emptyHood : Vector (BitVec 32) 32 := Vector.replicate 32 0xFFFF_FFFF

/-- Releases the hood pages, groups ascending, then slots (R313). -/
def releaseHood (p : Pool) (q : LiveSeq) : UnitM Unit := do
  for v in q.hood.toList do
    if v.toNat ≠ noPage then releasePage p v.toNat

/-- KVAPPEND (R312). -/
def serveAppend (die : Die) (vals : List Word) : UnitM Word := do
  let b := vals.getD 1 0
  let c := vals.getD 2 0
  let p ← readPool (vals.headD 0)
  let s ← uState
  let ctx ← fun st => .ok (st.ctx, st)
  let before := findSeq s p (seqOf b)
  let q ← match before with
    | some q => pure q
    | none => match freeEntry s die with
      | some e => pure ⟨die.val * 16384 + e, p.pa, seqOf b, ctx, 0, 0, 0, emptyHood, [], 0⟩
      | none => ustatus (kvStatus 6 none 0 0)
  let stop (st : Nat) : UnitM Word := ustatus (kvStatus st before 0 0)
  let n := lo32 c
  if c.getLsbD 32 then
    if n = 0 ∨ n > 2 ^ 24 then return ← stop 9
    if q.hn ≠ 0 then return ← stop 2
    if p.blocks (q.len + n) > p.maxblk then return ← stop 9
    let need ← pagesFor p q n
    let (_, free) ← readFree p
    if need > free then return ← stop 1
    for g in p.groups do
      let bt ← blockTable p q.seq g
      growGroup p q bt n
    let q1 := { q with len := q.len + n }
    putSeq p q1
    windowRelease p q.seq q1.len
    return kvStatus 0 (some q1) 0 0
  else
    if n = 0 ∨ n > 64 then return ← stop 9
    if q.hn = 64 then return ← stop 2
    let (_, free) ← readFree p
    let pagesOf (k : Nat) : Nat := (p.nlg + 1) * (p.blocks (q.hn + k) - p.blocks q.hn)
    let k := (List.range (min n (64 - q.hn))).foldl (fun m i => if pagesOf (i + 1) ≤ free then i + 1 else m) 0
    if k = 0 then return ← stop 1
    let mut hood := q.hood
    for g in p.groups do
      for h in List.range (p.blocks (q.hn + k)) do
        if (hood.toList.getD (4 * g + h) 0).toNat = noPage then
          let page ← allocPage p
          hood := hood.setIfInBounds (4 * g + h) (BitVec.ofNat 32 page)
    let q1 := { q with hood := hood, hn := q.hn + k, faults := q.faults.filter (fun f => !(decide (q.hn ≤ f.1) && decide (f.1 < q.hn + k))) }
    putSeq p q1
    return kvStatus 0 (some q1) q.hn k

/-- KVCOMMIT (R313). -/
def serveCommit (vals : List Word) : UnitM Word := do
  let b := vals.getD 1 0
  let c := vals.getD 2 0
  let p ← readPool (vals.headD 0)
  let s ← uState
  match findSeq s p (seqOf b) with
  | none => ustatus (kvStatus 5 none 0 0)
  | some q =>
    let stop (st : Nat) : UnitM Word := ustatus (kvStatus st (some q) 0 0)
    if verOf b ≠ q.ver then return ← stop 3
    let first ← uWord c
    let nacc := (first.extractLsb' 0 7).toNat
    if nacc > 63 then return ← stop 4
    let path := (← uRead (c + 8) (nacc + 1)).map BitVec.toNat
    if path.headD 1 ≠ 0 ∨ path.any (fun v => decide (v ≥ q.hn)) ∨ path.eraseDups.length ≠ path.length then return ← stop 4
    match path.findSome? (fun n => (q.faults.find? (fun f => f.1 = n)).map (fun f => (n, f.2))) with
    | some (n, f) =>
      let q1 := { q with faults := q.faults.filter (fun f => f.1 ≠ n) }
      fun w => .error (.deferred { w.base with seqs := w.base.seqs.map (fun r => if r.hid = q.hid then q1 else r) }
        { f with node := some (BitVec.ofNat 6 n) } w.accs)
    | none =>
      let pn := nacc + 1
      if p.blocks (q.len + pn) > p.maxblk then return ← stop 9
      let need ← pagesFor p q pn
      let (_, free) ← readFree p
      if need > free then return ← stop 1
      for g in p.groups do
        let bt ← blockTable p q.seq g
        growGroup p q bt pn
        for x in path.zipIdx do
          let from' := (q.hood.toList.getD (4 * g + x.1 / p.ppos) 0).toNat
          let dest ← readBlock bt ((q.len + x.2) / p.ppos)
          if from' ≥ p.npage ∨ dest ≥ p.npage then badPool p
          let bs ← uRead (pageAddr p from' x.1) p.esize
          uWrite (pageAddr p dest (q.len + x.2)) bs
      let q1 := { q with ver := q.ver + 1, hn := 0, hood := emptyHood, len := q.len + pn, faults := [] }
      -- the advance point: the version changes before a hood page is released (R308)
      uModify (fun s => storeSeq s q1)
      releaseHood p q
      putSeq p q1
      windowRelease p q.seq q1.len
      return kvStatus 0 (some q1) 0 0

/-- KVSQUASH (R314). -/
def serveSquash (vals : List Word) : UnitM Word := do
  let b := vals.getD 1 0
  let p ← readPool (vals.headD 0)
  let s ← uState
  match findSeq s p (seqOf b) with
  | none => ustatus (kvStatus 5 none 0 0)
  | some q =>
    if verOf b ≠ q.ver then return ← ustatus (kvStatus 3 (some q) 0 0)
    let q1 := { q with ver := q.ver + 1, hn := 0, hood := emptyHood, faults := [] }
    releaseHood p q
    putSeq p q1
    return kvStatus 0 (some q1) 0 0

/-- Releases entries of every group from one up to another, and clears them. -/
def releaseEntries (p : Pool) (n from' upto : Nat) : UnitM Unit := do
  for g in p.groups do
    let bt ← blockTable p n g
    for i in List.range (upto - from') do
      let page ← readBlock bt (from' + i)
      if page ≠ noPage then
        releasePage p page
        writeBlock bt (from' + i) noPage

/-- KVTRUNC (R315). -/
def serveTrunc (vals : List Word) : UnitM Word := do
  let b := vals.getD 1 0
  let len := lo32 (vals.getD 2 0)
  let p ← readPool (vals.headD 0)
  let s ← uState
  match findSeq s p (seqOf b) with
  | none => ustatus (kvStatus 5 none 0 0)
  | some q =>
    if q.hn ≠ 0 then return ← ustatus (kvStatus 2 (some q) 0 0)
    if len > q.len then return ← ustatus (kvStatus 9 (some q) 0 0)
    releaseEntries p q.seq (p.blocks len) (p.blocks q.len)
    let q1 := { q with len := len }
    putSeq p q1
    return kvStatus 0 (some q1) 0 0

/-- KVFORK (R316): the status word describes the destination. -/
def serveFork (die : Die) (vals : List Word) : UnitM Word := do
  let b := vals.getD 1 0
  let c := vals.getD 2 0
  let p ← readPool (vals.headD 0)
  let s ← uState
  let ctx ← fun st => .ok (st.ctx, st)
  let dest := findSeq s p (seqOf c)
  let stop (st : Nat) : UnitM Word := ustatus (kvStatus st dest 0 0)
  match findSeq s p (seqOf b) with
  | none => stop 5
  | some q =>
    if q.hn ≠ 0 then return ← stop 2
    if dest.isSome then return ← stop 7
    match freeEntry s die with
    | none => stop 6
    | some e =>
      let n := p.blocks q.len
      let mut pages : List (Nat × List Nat) := []
      for g in p.groups do
        let bt ← blockTable p q.seq g
        let l ← (List.range n).mapM (fun j => readBlock bt j)
        if l.any (fun v => decide (v ≥ p.npage) && decide (v ≠ noPage)) then badPool p
        pages := pages ++ [(g, l)]
      let held := (pages.flatMap Prod.snd).filter (fun v => v ≠ noPage)
      for v in held.eraseDups do
        let r ← uNat (rcAddr p v) 2
        if r + held.count v > 65535 then return ← stop 8
      for gl in pages do
        let bt ← blockTable p (seqOf c) gl.1
        for x in gl.2.zipIdx do
          writeBlock bt x.2 x.1
      for v in held do
        let r ← uNat (rcAddr p v) 2
        uWrite (rcAddr p v) (natBytes 2 (r + 1))
      let q1 : LiveSeq := ⟨die.val * 16384 + e, p.pa, seqOf c, ctx, q.len, 0, 0, emptyHood, [], 0⟩
      putSeq p q1
      return kvStatus 0 (some q1) 0 0

/-- KVFREE (R317). -/
def serveFree (vals : List Word) : UnitM Word := do
  let b := vals.getD 1 0
  let p ← readPool (vals.headD 0)
  let s ← uState
  match findSeq s p (seqOf b) with
  | none => ustatus (kvStatus 5 none 0 0)
  | some q =>
    uModify (fun s => { s with seqs := s.seqs.filter (fun r => r.hid ≠ q.hid) })
    releaseHood p q
    releaseEntries p q.seq 0 (p.blocks q.len)
    uWrite (seqAddr p q.seq) (natBytes 16 0)
    uWrite (seqAddr p q.seq + 0x50) (emptyHood.toList.flatMap (fun v => natBytes 4 v.toNat))
    return kvStatus 0 none 0 0

/-! The words. -/

/-- The checks of a KV word itself: alignment, and the home die of the pool (R299, R310, R313). -/
def kvPre (commit : Bool) (s : State) (vals : List Word) : Except FCode (Die ⊕ Word) :=
  let a := vals.headD 0
  let c := vals.getD 2 0
  let x := curSlot s
  if a.toNat % 128 ≠ 0 then .error (0x05, a)
  else if commit && decide (c.toNat % 8 ≠ 0) then .error (0x05, c)
  else match unitTranslate s x.ctx a .read with
    | .error f => .error f
    | .ok (_, pa) => .ok (.inl (homeOf pa))

def kvWord (i : Instr) (g : Guard) (commit : Bool) (serve : Die → SlotId → List Word → UnitM Word) (s : State) : Out :=
  unitWord i (feature s 3) g (kvPre commit) .speculation serve s

def execKvappend (g : Guard) (sd : Reg) (a b c : Src) (s : State) : Out :=
  kvWord (.kvappend g sd a b c) g false (fun d _ v => serveAppend d v) s
def execKvcommit (g : Guard) (sd : Reg) (a b c : Src) (s : State) : Out :=
  kvWord (.kvcommit g sd a b c) g true (fun _ _ v => serveCommit v) s
def execKvsquash (g : Guard) (sd : Reg) (a b : Src) (s : State) : Out :=
  kvWord (.kvsquash g sd a b) g false (fun _ _ v => serveSquash v) s
def execKvtrunc (g : Guard) (sd : Reg) (a b c : Src) (s : State) : Out :=
  kvWord (.kvtrunc g sd a b c) g false (fun _ _ v => serveTrunc v) s
def execKvfork (g : Guard) (sd : Reg) (a b c : Src) (s : State) : Out :=
  kvWord (.kvfork g sd a b c) g false (fun d _ v => serveFork d v) s
def execKvfree (g : Guard) (sd : Reg) (a b : Src) (s : State) : Out :=
  kvWord (.kvfree g sd a b) g false (fun _ _ v => serveFree v) s

end Sys2Proof.Machine
end

