-- ==== Sys2Proof/Machine/Sampling.lean ====
section
/-! DEFINITION. Machine/Sampling.lean: checkpoints (R318 to R321), the sampling unit (R326, R327) and the acceptance test
(R329 to R331). -/

namespace Sys2Proof.Machine

/-! Checkpoints. -/

/-- Units of 256 bytes in a slot's checkpoint storage. -/
def ckUnits (x : Slot) : Nat := pwCkg x.partw * 64

/-- Whether a run of units is free once a node's own snapshot counts as free. -/
def ckFree (x : Slot) (node off n : Nat) : Bool :=
  (x.snaps.toList.zipIdx).all (fun r =>
    !r.1.valid || decide (r.2 = node) || decide (off + n ≤ r.1.off) || decide (r.1.off + r.1.len / 256 ≤ off))

/-- The lowest-numbered free run of n units. -/
def ckRun (x : Slot) (node n : Nat) : Option Nat :=
  (List.range (ckUnits x + 1 - n)).find? (fun off => decide (off + n ≤ ckUnits x) && ckFree x node off n)

/-- CKSNAP (R319). -/
def execCksnap (g : Guard) (sd : Reg) (a b : Src) (s : State) : Out :=
  control (.cksnap g sd a b) (feature s 3) false g [a, b] (consuming [a, b] (fun t =>
    let k := t.cur.slot
    let x := curSlot t
    let va := (src t a).toNat
    let vb := src t b
    let node := (vb.extractLsb' 0 6).toNat
    let len := hi32 vb
    let core := va / 2 ^ 26
    let off := va % 2 ^ 26
    if vb.extractLsb' 6 26 ≠ 0 ∨ len % 256 ≠ 0 ∨ len = 0 ∨ len > 262144 ∨ va ≥ 2 ^ 29 ∨ !(core = 7 ∨ core = coreInCluster k) ∨
        off + len > spSize x then .ok (put t sd 2)
    else match ckRun x node (len / 256) with
      | none => .ok (put t sd 1)
      | some run =>
        match spFirstBad t k (spRange va len) with
        | some f => .fault f
        | none =>
          match detControl x true .read (spPlace k off) len with
          | .error f => .fault f
          | .ok y =>
            let cells := (List.range len).map (fun i => (run * 256 + i, cellGet y.scratch (off + i)))
            .ok (put (setSlot t k { y with
              ckpt := cellsSet y.ckpt cells, ckPoison := setClear y.ckPoison (run * 256) len,
              snaps := y.snaps.setIfInBounds node ⟨true, run, len, BitVec.ofNat 32 va⟩ }) sd 0))) s

/-- A row freed. -/
def freeRow (r : Snapshot) : Snapshot := { r with valid := false }

/-- CKSEL (R320): the restoration is one access under R95 (notes/assumptions/28). -/
def execCksel (g : Guard) (sd : Reg) (a : Src) (s : State) : Out :=
  control (.cksel g sd a) (feature s 3) false g [a] (consuming [a] (fun t =>
    let k := t.cur.slot
    let x := curSlot t
    let v := src t a
    let node := (v.extractLsb' 0 6).toNat
    if v.extractLsb' 6 58 ≠ 0 then .ok (put t sd 3)
    else
      let r := x.snaps.toList.getD node ⟨false, 0, 0, 0⟩
      if r.valid then
        let va := r.src.toNat
        let off := va % 2 ^ 26
        match detControl x true .write (spPlace k off) r.len with
        | .error f => .fault f
        | .ok y =>
          let y1 := { y with snaps := Vector.ofFn (fun i : Fin 64 => if i.val = node then y.snaps[i] else freeRow y.snaps[i]), lost := false }
          let t1 := setSlot t k y1
          if (spRange va r.len).any (fun b => (spAt t k b).isNone) then .ok (put (noteOob t1 k 0 true va) sd 0)
          else
            let bytes := (List.range r.len).map (fun i => (off + i, cellGet y.ckpt (r.off * 256 + i)))
            let bad := (List.range r.len).filter (fun i => y.ckPoison.contains (r.off * 256 + i))
            .ok (put (modSlot t1 k (fun z => { z with scratch := cellsSet z.scratch bytes,
                                                      spPoison := setUnion (setClear z.spPoison off r.len) (bad.map (off + ·))
                                                      spRels := z.spRels.filter (fun p => !(decide (off ≤ p.1) && decide (p.1 < off + r.len))) })) sd 0)
      else if x.lost then
        .ok (put (modSlot t k (fun y => { y with snaps := y.snaps.map freeRow, lost := false })) sd 2)
      else .ok (put t sd 1))) s

/-- CKDROP (R321). -/
def execCkdrop (g : Guard) (a : Src) (s : State) : Out :=
  control (.ckdrop g a) (feature s 3) false g [a] (consuming [a] (fun t =>
    let v := src t a
    .ok (modCur t (fun x =>
      if v.getLsbD 6 then { x with snaps := x.snaps.map freeRow }
      else { x with snaps := x.snaps.setIfInBounds (v.extractLsb' 0 6).toNat (freeRow (x.snaps.toList.getD (v.extractLsb' 0 6).toNat ⟨false, 0, 0, 0⟩)) })))) s

/-! The sampling unit. -/

def negInf : Nat := finf fp32 true
def fexp2 (a : Nat) : Nat := (fpExp2 fp32 0 0 a).1

/-- FP32 elements of a row. -/
def rowOf (bs : Bytes) (n : Nat) : List Nat := (List.range n).map (fun i => bytesVal ((bs.drop (4 * i)).take 4))

/-- The outcome of SMPSTART over a row (R327): token, ST, and whether SLOW is set. -/
def sample (logits : List Nat) (allowedBit : Nat → Bool) (k theta temp : Nat) (w : BitVec 32) : Nat × Nat × Bool :=
  let cold := f32zero temp
  let scale := (f32div 0x3FB8_AA3B temp).1
  let cand := ((logits.map (fun l => if cold then l else tMul32 l scale)).zipIdx).filter (fun p => allowedBit p.2 && !f32nan p.1)
  if cand.isEmpty then (0xFFFF_FFFF, 2, false)
  else match cand.find? (fun p => decide (p.1 = finf fp32 false)) with
    | some p => (p.2, 0, false)
    | none =>
      if cold then
        ((cand.foldl (fun (b : Option (Nat × Nat)) p => match b with
          | none => some p
          | some q => if f32lt q.1 p.1 then some p else b) none).getD (0, 0) |>.2, 0, false)
      else
        let ms := cand.foldl (fun (q : Nat × Nat) p =>
          let q1 := if f32lt q.1 p.1 then (p.1, tMul32 q.2 (fexp2 (f32sub q.1 p.1).1)) else q
          (q1.1, (f32add q1.2 (fexp2 (f32sub p.1 q1.1).1)).1)) (negInf, 0)
        let m := ms.1
        let list := cand.foldl (fun l p => (topInsert p l).take k) []
        let wt (p : Nat × Nat) : Nat := fexp2 (f32sub p.1 m).1
        let total := list.foldl (fun c p => (f32add c (wt p)).1) 0
        if f32lt (f32div total ms.2).1 theta then (0xFFFF_FFFF, 1, true)
        else
          let x := u24Mul w total
          let r := list.foldl (fun (q : Nat × Option Nat) p =>
            if q.2.isSome then q
            else let c := (f32add q.1 (wt p)).1; (c, if f32lt x c then some p.2 else none)) (0, none)
          (r.2.getD ((list.getLast?.map Prod.snd).getD 0), 0, false)
where
  tMul32 (a b : Nat) : Nat := (f32mul a b).1

/-- SMPSTART's work (R326, R327). -/
def serveSample (op : Instr) (k : SlotId) (vals : List Word) : UnitM Word := do
  let a := vals.headD 0
  let bs ← uRead a 64
  let w := wordAt bs
  let v := ((w 1).extractLsb' 0 19).toNat
  let kk := ((w 1).extractLsb' 24 7).toNat
  let theta := hi32 (w 1)
  let temp := lo32 (w 2)
  let ok := decide ((w 0).extractLsb' 48 16 = 0) && decide ((w 0).toNat % 4 = 0) && decide (1 ≤ v) && decide (v ≤ 262144) &&
    decide ((w 1).extractLsb' 19 5 = 0) && decide (1 ≤ kk) && decide (kk ≤ 64) && !(w 1).getLsbD 31 &&
    (f32zero theta || (f32le 0 theta && f32le theta 0x3F80_0000)) &&
    decide (hi32 (w 2) = 0) && (f32zero temp || decide (temp < 0x7F80_0000)) && decide ((w 3).extractLsb' 33 31 = 0) &&
    decide ((w 4).toNat % 8 = 0) && decide ((w 5).extractLsb' 1 63 = 0)
  if !ok then ufault (0x01, wordOf op)
  let row ← uRead (w 0) (4 * v)
  let mask ← if (w 3).getLsbD 32 then uSpRead (lo32 (w 3)) (maskBytes v) else pure []
  let allowed (n : Nat) : Bool := !(w 3).getLsbD 32 || (mask.getD (n / 8) 0).getLsbD (n % 8)
  let s ← uState
  let x := getSlot s k
  let (token, st, slow) := sample (rowOf row v) allowed kk (if f32zero theta then 0 else theta) temp (rng32 x.key x.ctr)
  uModify (fun s => modSlot s k (fun x => { x with ctr := x.ctr + 1 }))
  if slow then uOr (a + 0x28) (natBytes 8 1)
  let result := BitVec.ofNat 64 (token + st * 2 ^ 32)
  if w 4 ≠ 0 then uWrite (w 4) (toBytes 8 result)
  return result

/-! The acceptance test. -/

/-- The descriptor of ACCTEST (R329). -/
structure Accept where
  par   : Word
  tok   : Word
  prow  : Word
  qrow  : Word
  pitch : Nat
  v     : Nat
  n     : Nat
  mode  : Nat
  lo    : Nat
  hi    : Nat
  unode : Nat
  resid : Bool
  res   : Word
deriving DecidableEq, Repr

/-- Row u of a family of rows. -/
def acceptRow (base : Word) (d : Accept) (u : Nat) : UnitM (List Nat) := do
  return rowOf (← uRead (base + BitVec.ofNat 64 (u * d.pitch)) (4 * d.v)) d.v

/-- Test of R330. -/
def acceptTest (key base : Word) (v t c : Nat) (q p : List Nat) : Bool :=
  decide (t < v) && f32le (u24Mul (rng32 key (base + BitVec.ofNat 64 c)) (q.getD t 0)) (p.getD t 0)

/-- Residual of R330. -/
def residual (p q : List Nat) : List Nat :=
  let r := (p.zip q).map (fun x => let d := (f32sub x.1 x.2).1; if f32lt 0 d then d else 0)
  let total := r.foldl (fun s x => (f32add s x).1) 0
  if f32lt 0 total && decide (total ≠ finf fp32 false) then r.map (fun x => (f32div x total).1) else p

/-- Sample of R330. -/
def sampleRow (p : List Nat) (w : BitVec 32) : Option Nat :=
  let d := p.map (fun x => if f32lt 0 x then x else 0)
  let total := d.foldl (fun s x => (f32add s x).1) 0
  if !f32lt 0 total || decide (total = finf fp32 false) then none
  else
    let x := u24Mul w total
    let live := (d.zipIdx).filter (fun e => f32lt 0 e.1)
    let r := live.foldl (fun (q : Nat × Option Nat) e =>
      if q.2.isSome then q
      else let c := (f32add q.1 e.1).1; (c, if f32lt x c then some e.2 else none)) (0, none)
    match r.2 with
    | some v => some v
    | none => live.getLast?.map Prod.snd

/-- The children of a node tested in turn against P: the one accepted, and P. -/
def testKids (d : Accept) (key base : Word) (tok : Nat → Nat) (q : List Nat) : List Nat → List Nat → Option Nat × List Nat
  | [], p => (none, p)
  | c :: rest, p => if acceptTest key base d.v (tok c) c q p then (some c, p) else testKids d key base tok q rest (residual p q)

/-- The walk of mode 0: the path below the root, and the last P. -/
def acceptWalk (d : Accept) (key base : Word) (par tok : Nat → Nat) : Nat → Nat → List Nat → UnitM (List Nat × List Nat)
  | 0, _, p => pure ([], p)
  | fuel + 1, u, p => do
    let kids := (List.range (d.n + 1)).filter (fun c => decide (1 ≤ c) && decide (par c = u))
    if kids.isEmpty then return ([], p)
    let q ← acceptRow d.qrow d u
    match testKids d key base tok q kids p with
    | (none, p1) => return ([], p1)
    | (some c, _) =>
      let p1 ← acceptRow d.prow d c
      let (path, last) ← acceptWalk d key base par tok fuel c p1
      return (c :: path, last)

/-- ACCTEST's work (R329 to R331). -/
def serveAccept (op : Instr) (k : SlotId) (vals : List Word) : UnitM Word := do
  let bs ← uRead (vals.headD 0) 64
  let w := wordAt bs
  let ctl := w 5
  let d : Accept := ⟨w 0, w 1, w 2, w 3, lo32 (w 4), ((w 4).extractLsb' 32 19).toNat, (ctl.extractLsb' 0 6).toNat,
    (ctl.extractLsb' 8 2).toNat, (ctl.extractLsb' 16 6).toNat, (ctl.extractLsb' 24 6).toNat, (ctl.extractLsb' 32 6).toNat, ctl.getLsbD 40, w 6⟩
  let ok := decide ((w 4).extractLsb' 51 13 = 0) && decide (1 ≤ d.v) && decide (d.v ≤ 262144) && decide (d.pitch % 4 = 0) && decide (4 * d.v ≤ d.pitch) &&
    decide (ctl.extractLsb' 6 2 = 0) && decide (ctl.extractLsb' 10 6 = 0) && decide (ctl.extractLsb' 22 2 = 0) && decide (ctl.extractLsb' 30 2 = 0) &&
    decide (ctl.extractLsb' 38 2 = 0) && decide (ctl.extractLsb' 41 23 = 0) && decide (d.mode ≠ 3) &&
    decide (d.prow.toNat % 4 = 0) && decide (d.qrow.toNat % 4 = 0) && decide (d.res.toNat % 8 = 0) &&
    (if d.mode = 1 then decide (1 ≤ d.lo) && decide (d.lo ≤ d.hi) && decide (d.hi ≤ d.n) else decide (d.lo = 0) && decide (d.hi = 0)) &&
    (if d.mode = 2 then decide (d.unode ≤ d.n) else decide (d.unode = 0) && !d.resid)
  if !ok then ufault (0x01, wordOf op)
  let parents ← if d.mode = 2 then pure [] else uRead d.par (d.n + 1)
  let par (c : Nat) : Nat := (parents.getD c 0).toNat
  if d.mode ≠ 2 ∧ (List.range (d.n + 1)).any (fun c => decide (1 ≤ c) && decide (c ≤ par c)) then ufault (0x01, wordOf op)
  let tokens ← if d.mode = 2 then pure [] else uRead d.tok (4 * (d.n + 1))
  let tok (c : Nat) : Nat := bytesVal ((tokens.drop (4 * c)).take 4)
  let s ← uState
  let key := (getSlot s k).key
  let base := (getSlot s k).ctr
  let firstWord (nacc : Nat) (bonus : Option Nat) : Word :=
    BitVec.ofNat 64 (nacc + (if bonus.isNone then 2 ^ 8 else 0) + bonus.getD 0xFFFF_FFFF * 2 ^ 32)
  let result ←
    if d.mode = 0 then do
      let p0 ← acceptRow d.prow d 0
      let (path, p) ← acceptWalk d key base par tok 64 0 p0
      let first := firstWord path.length (sampleRow p (rng32 key base))
      uWrite d.res (toBytes 8 first ++ ((0 :: path ++ List.replicate 64 0).take 64).map (BitVec.ofNat 8))
      pure first
    else if d.mode = 1 then do
      let bits ← ((List.range (d.hi + 1)).filter (fun c => decide (d.lo ≤ c))).filterMapM (fun c => do
        let p ← acceptRow d.prow d (par c)
        let q ← acceptRow d.qrow d (par c)
        pure (if acceptTest key base d.v (tok c) c q p then some c else none))
      let acc : Word := bits.foldl (fun v c => setBit v c true) 0
      uWrite d.res (toBytes 8 acc)
      pure acc
    else do
      let p ← acceptRow d.prow d d.unode
      let p1 ← if d.resid then do
          let q ← acceptRow d.qrow d d.unode
          pure (residual p q)
        else pure p
      let first := firstWord 0 (sampleRow p1 (rng32 key base))
      uWrite d.res (toBytes 8 first)
      pure first
  uModify (fun s => modSlot s k (fun x => { x with ctr := base + BitVec.ofNat 64 (d.n + 1) }))
  return result

/-! The words. -/

/-- The check of a word with a 64-byte descriptor, served on its own die. -/
def ownPre (s : State) (vals : List Word) : Except FCode (Die ⊕ Word) :=
  let a := vals.headD 0
  if a.toNat % 64 ≠ 0 then .error (0x05, a) else .ok (.inl (dieOf s.cur.slot))

def execSmpstart (g : Guard) (sd : Reg) (a : Src) (s : State) : Out :=
  unitWord (.smpstart g sd a) true g ownPre .sampling (fun _ k v => serveSample (.smpstart g sd a) k v) s
def execAcctest (g : Guard) (sd : Reg) (a : Src) (s : State) : Out :=
  unitWord (.acctest g sd a) (feature s 3) g ownPre .speculation (fun _ k v => serveAccept (.acctest g sd a) k v) s

end Sys2Proof.Machine
end

