-- ==== Sys2Proof/Machine/Schedule.lean ====
section
/-! DEFINITION. Machine/Schedule.lean: the scheduler's events: admission (R282 to R284, R298), placement (R287 to R289, R39,
R92, R297), job start (R44), retirement (R45, R46, R375), the allocator of pipelines (R52), the plank (R293, R294) and the
watchdog (R295). -/

namespace Sys2Proof.Machine

/-! Contexts that are served. -/

/-- The fault domain of a context: the lowest node on its path whose own FDOM is 1 (R360). -/
def domainOf (s : State) (c : Ctx) : Option Nat :=
  match findCtx s c with
  | none => none
  | some y =>
    if effFlag s y.node 0 then
      (regionPath s y.node).find? (fun n => (findRegion s n).bind (fun r => ownFlag r 0) == some true)
    else none

/-- Whether a slot's job has stopped for a fatal fault and waits for its domain to drain. -/
def Slot.drains (x : Slot) : Bool :=
  match x.stop with | some st => st.fatal | none => false

/-- Whether a context lies in a domain that drains (R360 step 1). -/
def draining (s : State) (c : Ctx) : Bool :=
  s.slots.toList.any (fun x => x.drains && (match domainOf s x.ctx with | some n => inSubtree s c n | none => false))

/-- Whether jobs of a context are admitted, placed and started (R360, R362, R365, R111). -/
def served (s : State) (c : Ctx) : Bool :=
  !s.paused && (match findCtx s c with | some y => !y.halted && !y.dying | none => false) && !draining s c

/-! Words that the device keeps in memory. -/

/-- A word of memory as the device's own records are read. -/
def memWord (s : State) (a : Nat) : Word := BitVec.ofNat 64 (bytesVal (cellsGet s.mem a 8))
/-- A plain store of the device at system scope. -/
def deviceStore (s : State) (a : Nat) (v : Word) : State := if paOk s a then writeAll s (cellsAt a (toBytes 8 v)) else s

/-! Admission. -/

/-- A job's priority (R41). -/
def jobPrio (s : State) (j : Job) : Nat :=
  let p := match findCtx s j.ctx with | some y => effPrio s y.node | none => 3
  if j.card.prio = 0 then p else min j.card.prio p

/-- The place of a job in the order of R284 and R289: the lower key goes first. -/
def admitKey (s : State) (j : Job) : Nat :=
  (((7 - jobPrio s j) * 4096 + j.ctx.toNat) * 16 + j.queue % 16) * 2 ^ 48 + j.seq % 2 ^ 48

/-- The element with the least key, the first among equals. -/
def leastBy {α : Type} (key : α → Nat) : List α → Option α
  | [] => none
  | a :: rest => match leastBy key rest with
    | none => some a
    | some b => if key a ≤ key b then some a else some b

/-- Inserts by key, after equals. -/
def insertBy {α : Type} (key : α → Nat) (a : α) : List α → List α
  | [] => [a]
  | b :: rest => if key a < key b then a :: b :: rest else b :: insertBy key a rest
/-- The elements in the order of their keys. -/
def sortBy {α : Type} (key : α → Nat) (l : List α) : List α := l.foldl (fun r a => insertBy key a r) []

/-- How an admission test comes out (R282): the job waits, or is admitted, with a fault to raise. -/
inductive Verdict where
  | wait
  | accept (fault : Option (BitVec 8 × Word))
deriving DecidableEq, Repr

/-- Whether a wait-list tile is ready (R285). -/
def tileReady (s : State) (c : Ctx) (r : Layout) (t : TileName) : Bool :=
  s.ready.any (fun e => decide (e.ctx = c ∧ e.tile = t)) || decide (tileCount s c t.handle t.gen ≥ r.tcount)

/-- The tensor operand of a wait-list entry. -/
def waitOperand (t : TileName) : Word := BitVec.ofNat 64 (t.handle + t.gen * 2 ^ 16)

/-- Order 5 for one entry. -/
def waitFault (y : Context) (t : TileName) : Option (BitVec 8 × Word) :=
  match tableGet y.layouts t.handle with
  | none => some (0x07, waitOperand t)
  | some r =>
    if !coordsOk r t.coords then some (0x07, waitOperand t)
    else if t.gen ≠ Layout.gen r then some (0x0A, waitOperand t)
    else none

/-- Whether a provisional job may start (R308). -/
def hoodAdmits (s : State) (y : Context) (j : Job) : Bool :=
  match j.card.pnode with
  | none => true
  | some n =>
    let w := j.card.init[3]
    decide (w.extractLsb' 32 32 = 0) &&
    (match hoodSeq s w with
      | none => false
      | some q => (decide (q.owner = j.ctx) || y.partner == some q.owner) && decide (n < q.hn))

/-- Orders 1 to 7 of R282. -/
def admitTest (s : State) (j : Job) : Verdict :=
  match findCtx s j.ctx with
  | none => .wait
  | some y =>
    let live := liveJobs s j.ctx
    let earlier := live.filter (fun k => decide (k.queue = j.queue) && decide (k.seq < j.seq))
    if !served s j.ctx ∨ earlier.any (fun k => !k.admitted) ∨ earlier.any (fun k => decide (k.card.carry ≠ 0)) ∨
        earlier.any (fun k => !(conflicts false k.foot j.foot).isEmpty) ∨
        j.after.any (fun n => live.any (fun k => decide (k.seq = n))) then .wait
    else match j.waits.findSome? (waitFault y) with
      | some f => .accept (some f)
      | none =>
        if !(j.waits.all (fun t => match tableGet y.layouts t.handle with | some r => tileReady s j.ctx r t | none => false)) then .wait
        else .accept (j.conflict.map (fun n => (0x09, BitVec.ofNat 64 n)))

/-! Dispatch traces (R296 to R298): flag 2 records, flag 3 replays. A trace belongs to a node whose own flag is set, and its
subtree is traced (notes/assumptions/54). -/

/-- Whether a node's own flag is set. -/
def setsFlag (s : State) (n flag : Nat) : Bool := (findRegion s n).bind (fun r => ownFlag r flag) == some true
/-- Whether a node records: TREP governs where both are set (R297). -/
def recordsAt (s : State) (n : Nat) : Bool := setsFlag s n 2 && !effFlag s n 3
/-- The nodes of a context's path that a test admits. -/
def pathNodes (s : State) (c : Ctx) (p : Nat → Bool) : List Nat :=
  match findCtx s c with | some y => (regionPath s y.node).filter p | none => []
/-- The nodes whose traces record a context's admissions, and those whose traces it replays. -/
def recordNodes (s : State) (c : Ctx) : List Nat := pathNodes s c (recordsAt s)
def replayNodes (s : State) (c : Ctx) : List Nat := pathNodes s c (fun n => setsFlag s n 3)

/-- The address of entry i of a trace. -/
def traceEntry (s : State) (n i : Nat) : Nat := effTrbase s n + 64 + 16 * i

/-- What a replayed trace makes of a job that meets orders 1 to 7 (R298). -/
inductive Replay where
  | wait
  /-- It is the next one, for the slot named. -/
  | here (k : SlotId)
  /-- It is the next one, and its CSUM differs. -/
  | differs (k : SlotId)
  /-- It is the next one, and cannot take part where the trace names. -/
  | nowhere
  /-- The trace cannot go on: the first admissible job raises the fault. -/
  | stuck

/-- Whether a job that a trace names has entered its queue, and waits there no more. -/
def jobGone (s : State) (c : Ctx) (seq : Nat) : Bool :=
  match findCtx s c with
  | some y => decide (1 ≤ seq) && decide (seq < y.nextSeq) && !s.jobs.any (fun m => decide (m.ctx = c ∧ m.seq = seq))
  | none => false

/-- The test of one trace. -/
def replayTest (s : State) (n : Nat) (j : Job) : Replay :=
  let base := effTrbase s n
  let next := (memWord s (base + 8)).extractLsb' 0 48
  let cnt := (memWord s base).extractLsb' 0 48
  if next = cnt then .stuck
  else
    let a := traceEntry s n next.toNat
    let w0 := memWord s a
    let w1 := memWord s (a + 8)
    let ctx : Ctx := w0.extractLsb' 48 12
    let seq := (w0.extractLsb' 0 48).toNat
    let matched (m : Job) : Bool := decide (m.ctx = ctx) && decide (m.queue = (w0.extractLsb' 60 4).toNat) && decide (m.seq = seq)
    if matched j then
      match slotAt (w1.extractLsb' 0 7).toNat (w1.getLsbD 7) with
      | none => .nowhere
      | some k =>
        if !dieLive s (dieOf k).val ∨ pwSum j.card.partw > 256 then .nowhere
        else if j.sig0.extractLsb' 0 32 ≠ w1.extractLsb' 32 32 then .differs k
        else .here k
    else if s.jobs.any matched then
      (if s.jobs.any (fun m => matched m && !m.admitted && decide (admitTest s m = .wait)) then .stuck else .wait)
    else if jobGone s ctx seq then .stuck
    else .wait

/-- What the traces of some nodes make of a job together: none when it waits; else the slots that it may take, the fault that it
raises, and whether one of them is stuck. A fault found at order 5 or 7 comes before that of a CSUM or of a slot (R282). -/
def replayAll (s : State) (j : Job) (fault : Option FCode) : List Nat → Option (List SlotId × Option FCode × Bool)
  | [] => some ([], fault, false)
  | n :: rest =>
    let diverge : FCode := (0x14, ((memWord s (effTrbase s n + 8)).extractLsb' 0 48).setWidth 64)
    match replayAll s j fault rest, replayTest s n j with
    | none, _ => none
    | _, .wait => none
    | some (ks, f, st), .here k => some (k :: ks, f, st)
    | some (ks, f, st), .differs k => some (k :: ks, f.or diverge, st)
    | some (_, f, st), .nowhere => some ([], f.or diverge, st)
    | some _, .stuck => some ([], some diverge, true)

/-- Where a recorded admission stands in a node's trace, and the state with it counted; a full buffer sets OVF (R297). -/
def recordAdmission (s : State) (n : Nat) : State × List (Nat × Nat) :=
  let i := (tableGet s.traceNo n).getD 0
  if 64 + 16 * (i + 1) ≤ effTrsize s n then ({ s with traceNo := tableSet s.traceNo n (i + 1) }, [(n, i)])
  else (deviceStore s (effTrbase s n) (memWord s (effTrbase s n) ||| 0x8000_0000_0000_0000), [])

/-- The same for every trace that records a context's admissions. -/
def recordAdmissions (s : State) (c : Ctx) : State × List (Nat × Nat) :=
  (recordNodes s c).foldl (fun r n => let q := recordAdmission r.1 n; (q.1, r.2 ++ q.2)) (s, [])

/-- Whether two entries are the same job. -/
def Job.same (j k : Job) : Bool := decide (j.ctx = k.ctx) && decide (j.seq = k.seq)

/-- What the edges that a job's admission acquires order (R127, R128): retirements that footprint order in its queue or its
after-list holds it behind, and the RDYSETs of the tiles that it waits for. -/
def admissionEdge (s : State) (j : Job) : View :=
  match findCtx s j.ctx with
  | none => []
  | some y =>
    let retired := y.edges.filter (fun e =>
      j.after.contains e.seq || (decide (e.queue = j.queue) && !(conflicts false e.foot j.foot).isEmpty))
    let whole (t : TileName) : View :=
      match findCount s j.ctx t.handle t.gen, tableGet y.layouts t.handle with
      | some e, some r => if e.count ≥ Layout.tcount r then e.edge else []
      | _, _ => []
    let tile (t : TileName) : View :=
      (s.ready.filter (fun e => decide (e.ctx = j.ctx ∧ e.tile = t))).foldl (fun v e => v.join e.edge) (whole t)
    j.waits.foldl (fun v t => v.join (tile t)) (retired.foldl (fun v e => v.join (viewOf e.made)) [])

/-- A job is admitted: it receives its queue's carry set, and its admission is an acquire (R46, R127). -/
def admitJob (s : State) (j : Job) (slots : List SlotId) (fault : Option FCode) : State :=
  let (s1, at_) := recordAdmissions s j.ctx
  let carried := match findCtx s j.ctx with | some y => (tableGet y.carry j.queue).getD [] | none => []
  { s1 with
    admitNo := s1.admitNo + 1
    jobs := s1.jobs.map (fun k =>
      if k.same j then { k with admitted := true, admitNo := s.admitNo, startFault := fault, traceSlot := slots,
                                carried := carried, traceAt := at_, edge := k.edge.join (admissionEdge s j),
                                era := (match hoodSeq s j.card.init[3] with | some q => q.era | none => 0) } else k) }

/-- A job leaves its queue: admitted, or, when it is provisional and its hood word is no longer good, as one that has retired
(R308). -/
def leaveQueue (s : State) (j : Job) (slots : List SlotId) (fault : Option FCode) : State :=
  match findCtx s j.ctx with
  | some y => if hoodAdmits s y j then admitJob s j slots fault else { s with jobs := s.jobs.filter (fun k => !k.same j) }
  | none => s

/-- The first job, in the order of R284, that leaves its queue, and the traces that have been stuck in this decision: one job raises
the fault of a stuck trace (R298). -/
def admitOne (stuck : List Nat) (s : State) : Option (State × List Nat) :=
  (sortBy (admitKey s) (s.jobs.filter (fun j => !j.admitted))).findSome? (fun j =>
    match admitTest s j with
    | .wait => none
    | .accept f =>
      let ns := replayNodes s j.ctx
      match replayAll s j f ns with
      | none => none
      | some (ks, f', st) =>
        if st && ns.any stuck.contains then none
        else some (leaveQueue s j ks f', if st then stuck ++ ns else stuck))

/-- Admits until nothing more is admissible. -/
def admitAll : Nat → List Nat → State → State
  | 0, _, s => s
  | fuel + 1, stuck, s => match admitOne stuck s with
    | none => s
    | some (s1, stuck1) => admitAll fuel stuck1 s1

/-- ADMISSION_DECISION (R282, R284). -/
def execAdmissionDecision (s : State) : Out := .next (admitAll s.jobs.length [] s)

/-! Placement. -/

/-- Granules that a slot holds (R91). -/
def granulesHeld (x : Slot) : Nat :=
  match x.job with
  | some j => pwSum j.card.partw
  | none => if x.resident.isSome then pwCkg x.granules else 0

/-- Slots of a die that run jobs of a subtree (R35, R287). -/
def slotsRun (s : State) (d : Die) (n : Nat) : Nat :=
  (s.slots.toList.zipIdx.filter (fun p => decide (p.2 / 48 = d.val) &&
    (match p.1.job with | some j => inSubtree s j.ctx n | none => false))).length

/-- Jobs of a queue that run. -/
def runningOf (s : State) (c : Ctx) (q : Nat) : Nat :=
  (s.slots.toList.filter (fun x => match x.job with | some j => decide (j.ctx = c) && decide (j.queue = q) | none => false)).length

/-! The plank (R293, R294). -/

/-- The window that runs. -/
def Plank.window (p : Plank) : Option Window := p.windows[p.cur]?
/-- The debt of the running window. -/
def Plank.debt (p : Plank) : Nat :=
  match p.window with
  | some w => if w.open_ then p.openDebt else (tableGet p.debts w.ctx.toNat).getD 0
  | none => 0
/-- The end of its budget, B + ALLOW − D; not above B when the budget is 0 or less. -/
def Plank.budgetEnd (p : Plank) : Nat := p.begin_ + ((p.window.map Window.allow).getD 0 - p.debt)
/-- Whether the running window serves a context. -/
def Plank.serves (p : Plank) (c : Ctx) : Bool :=
  match p.window with
  | some w => if w.open_ then !p.windows.any (fun v => !v.open_ && decide (v.ctx = c)) else decide (w.ctx = c)
  | none => false
/-- Whether a job's cost fits what is left. -/
def Plank.fits (p : Plank) (now : Nat) (j : Job) : Bool :=
  p.serves j.ctx && decide (now < p.budgetEnd) && decide (j.card.cost.toNat ≤ p.budgetEnd - now)

def plankOf (s : State) (k : SlotId) : Option Plank := s.planks.find? (fun p => p.cluster = clusterOf k)

/-- R287: whether a slot qualifies for a job. -/
def qualifies (s : State) (j : Job) (k : SlotId) : Bool :=
  let x := getSlot s k
  let d := dieOf k
  x.job.isNone && dieLive s d.val &&
  decide (pwSum j.card.partw + granulesHeld (getSlot s (otherSlot k)) ≤ 256) &&
  (match findCtx s j.ctx with
    | none => false
    | some y =>
      (regionPath s y.node).all (fun n => decide (slotsRun s d n < effSlots s n d)) &&
      (match stageOf y j.queue with
        | some (p, i) => (match p[i]? with | some st => decide (runningOf s j.ctx j.queue < st.allot) | none => true)
        | none => true)) &&
  (match plankOf s k with | some p => p.fits s.dcc.toNat j | none => true) &&
  j.traceSlot.all (fun t => decide (t = k))

/-- The preferred die of a job (R288). -/
def preferredDie (s : State) (j : Job) : Option Die :=
  match j.foot with
  | [] => none
  | f :: _ =>
    match walk s (ctxL1 s j.ctx) (BitVec.ofNat 64 f.base) with
    | .ok w => if paOk s w.leaf.pa then some (homeOf w.leaf.pa) else none
    | .error _ => none

/-- The place of a slot in the order of R288. -/
def slotKey (s : State) (j : Job) (pref : Option Die) (k : SlotId) : Nat :=
  let x := getSlot s k
  let cls :=
    if x.resident = some j.ctx then (if pwCkg x.granules ≠ 0 ∧ pwCkg x.granules = pwCkg j.card.partw then 0 else 1)
    else if x.resident.isNone then 2 else 3
  (cls * 2 + (if pref.isSome ∧ pref ≠ some (dieOf k) then 1 else 0)) * 192 + k.val

/-- The slot that a job takes. -/
def chooseSlot (s : State) (j : Job) : Option SlotId :=
  leastBy (slotKey s j (preferredDie s j)) ((List.finRange 192).filter (qualifies s j))

/-- Releases the barriers that a slot owns. -/
def releaseBarriers (s : State) (k : SlotId) : State :=
  let c := s.cores[coreOf k]
  let own (b : Barrier) : Bool := match b.owner with | some (o, _) => o == slotBit k | none => false
  let free : Core := { c with barriers := c.barriers.map (fun p => if own p.2 then (p.1, { p.2 with owner := none }) else p) }
  { s with cores := s.cores.set (coreOf k).val free (coreOf k).isLt }

/-- The identity permutation. -/
def permId : Vector (BitVec 6) 64 := Vector.ofFn (fun i : Fin 64 => BitVec.ofNat 6 i.val)

/-- A slot whose granules are scrubbed, the checkpoint granules included (R92, R318). -/
def Slot.scrub (x : Slot) : Slot :=
  { x with tiles := [], acc := [], accStat := Vector.replicate 64 ⟨0, 0, false⟩, scratch := [], spPoison := [],
           ckpt := [], ckPoison := [], snaps := x.snaps.map freeRow, lost := true, tilePoison := [], accPoison := [] }

/-- Eviction (R39). -/
def evict (s : State) (k : SlotId) : State :=
  modSlot (releaseBarriers s k) k (fun x =>
    { x.scrub with resident := none, granules := 0, perm := permId, grow := 0, fst := 0, fmtq := [] })

/-- A partition whose size changes: each of its granules holds zero, or what some granule of it held (R92; notes/assumptions/29). -/
def regranule {w : Nat} (draw unit old new : Nat) (m : Cells w) : Cells w :=
  if old = new then m
  else (List.range new).flatMap (fun g =>
    if old = 0 ∨ Config.freeBool (draw + g) then []
    else m.filterMap (fun p =>
      if p.1 / unit = Config.freeNat (draw + g) % old then some (g * unit + p.1 % unit, p.2) else none))
/-- The same for a set of offsets. -/
def regranuleSet (draw unit old new : Nat) (l : List Nat) : List Nat :=
  if old = new then l
  else (List.range new).flatMap (fun g =>
    if old = 0 ∨ Config.freeBool (draw + g) then []
    else l.filterMap (fun a => if a / unit = Config.freeNat (draw + g) % old then some (g * unit + a % unit) else none))

/-- A slot that stays with its context takes another partition word (R92). -/
def repartition (s : State) (k : SlotId) (w : Word) : State :=
  let d := s.fresh
  modSlot { s with fresh := d + 768 } k (fun x =>
    let o := x.granules
    let y : Slot := { x with
      scratch := regranule d 16384 (pwSpg o) (pwSpg w) x.scratch
      spPoison := regranuleSet d 16384 (pwSpg o) (pwSpg w) x.spPoison
      tiles := regranule (d + 256) 16384 (pwRfg o) (pwRfg w) x.tiles
      tilePoison := regranuleSet (d + 256) 16384 (pwRfg o) (pwRfg w) x.tilePoison
      acc := regranule (d + 512) 2048 (pwAcg o) (pwAcg w) x.acc
      accPoison := regranuleSet (d + 512) 2048 (pwAcg o) (pwAcg w) x.accPoison
      accStat := if pwAcg o = pwAcg w then x.accStat else Vector.ofFn (fun i : Fin 64 =>
        if pwAcg o = 0 ∨ Config.freeBool (d + 512 + i.val / 2) then ⟨0, 0, false⟩
        else x.accStat.toList.getD (2 * (Config.freeNat (d + 512 + i.val / 2) % pwAcg o) + i.val % 2) ⟨0, 0, false⟩) }
    if pwCkg o = pwCkg w then y
    else { y with ckpt := [], ckPoison := [], snaps := y.snaps.map freeRow, lost := true })

/-- Entry i of a node's trace is written for a placed job, and CNT counts it (R296, R297). -/
def writeTrace (s : State) (j : Job) (k : SlotId) (n i : Nat) : State :=
  let a := traceEntry s n i
  let w0 := BitVec.ofNat 64 j.seq ||| fieldAt j.ctx 48 ||| BitVec.ofNat 64 (j.queue * 2 ^ 60)
  let w1 := BitVec.ofNat 64 (coreOf k).val ||| b2w (slotBit k) <<< 7 ||| fieldAt (j.sig0.extractLsb' 0 32) 32
  let s1 := deviceStore (deviceStore s a w0) (a + 8) w1
  deviceStore s1 (effTrbase s n) (memWord s1 (effTrbase s n) + 1)

/-- NEXT of a node's trace advances (R298). -/
def advanceTrace (s : State) (n : Nat) : State :=
  let a := effTrbase s n + 8
  deviceStore s a (((memWord s a).extractLsb' 0 48 + 1).setWidth 64)

/-- The traces at the placement of a job. -/
def traceJob (s : State) (j : Job) (k : SlotId) : State :=
  let s1 := j.traceAt.foldl (fun s p => writeTrace s j k p.1 p.2) s
  if j.traceSlot.isEmpty then s1 else (replayNodes s1 j.ctx).foldl advanceTrace s1

/-- A job is placed in a slot: it leaves its queue, and the slot is scrubbed as R92 asks. -/
def placeIn (s : State) (j : Job) (k : SlotId) : State :=
  let s1 := if (getSlot s k).resident = some j.ctx then repartition s k j.card.partw else evict s k
  let s2 := modSlot s1 k (fun x => { x with resident := some j.ctx, granules := j.card.partw, job := some j })
  let s3 := { s2 with
    jobs := s2.jobs.filter (fun i => !i.same j)
    planks := s2.planks.map (fun p => if p.cluster = clusterOf k then { p with jobs := p.jobs ++ [(j.ctx, j.seq)] } else p) }
  traceJob s3 j k

/-- PLACEMENT (R287 to R289): the first admitted job that finds a slot takes it. -/
def execPlacement (s : State) : Out :=
  match (sortBy (admitKey s) (s.jobs.filter (fun j => j.admitted && served s j.ctx))).findSome? (fun j =>
      (chooseSlot s j).map (fun k => (j, k))) with
  | some (j, k) => .next (placeIn s j k)
  | none => .next s

/-! Start and retirement. -/

/-- The PC fields of a card, by engine position. -/
def Card.engPc (c : Card) (e : Fin 4) : Word :=
  match e with
  | 0 => c.mpc
  | 1 => c.vpc
  | 2 => c.cpypc
  | 3 => c.xpc

/-- The engine streams at job start. -/
def startEngines (c : Card) : Vector EngStream 4 :=
  Vector.ofFn (fun e => if c.engPc e = 0 then EngStream.reset else { EngStream.reset with started := true, pc := c.engPc e })

/-- A slot at job start (R44, R221, R259, R292, R349): what the table does not list keeps its reset value. -/
def Slot.start (x : Slot) (j : Job) (limit : Nat) (det : Bool) (engines : Bool) : Slot :=
  let base : Slot := { Slot.reset with
    resident := x.resident, granules := x.granules, tiles := x.tiles, acc := x.acc, accStat := x.accStat,
    scratch := x.scratch, spPoison := x.spPoison, ckpt := x.ckpt, ckPoison := x.ckPoison, snaps := x.snaps, lost := x.lost
    tilePoison := x.tilePoison, accPoison := x.accPoison
    pc := j.card.cpc, partw := j.card.partw, sig := j.sig0, detctl := det
    engs := if engines then startEngines j.card else Vector.replicate 4 EngStream.reset
    job := some { j with started := true, limit := limit } }
  let b1 := ((((base.writeS 1 j.card.init[0]).writeS 2 j.card.init[1]).writeS 3 j.card.init[2]).writeS 4 j.card.init[3]).writeS 61 j.card.addr
  j.carried.foldl (fun y c =>
    let z := y.writeS c.reg c.value
    { z with poison := setBit z.poison c.reg.toNat c.poison, dead := setBit z.dead c.reg.toNat c.dead }) b1

/-- The watchdog's limit (R295). -/
def watchLimit (s : State) (j : Job) : Nat :=
  match findCtx s j.ctx with | some y => j.card.cost.toNat * effOvr s y.node / 16 | none => j.card.cost.toNat * 2

/-- JOB_START (R44): a placed job's streams start, or the fault found at its admission is raised at CPC before any starts. The limit
of its watchdog is the region's of this moment: a later change does not disturb it (R36). -/
def execJobStart (slot : SlotId) (s : State) : Out :=
  let x := getSlot s slot
  match x.job with
  | none => .next s
  | some j =>
    if j.started ∨ !served s j.ctx then .next s
    else
      let det := match findCtx s j.ctx with | some y => detMode s y j.card | none => false
      let s1 := setSlot s slot (x.start j (watchLimit s j) det j.startFault.isNone)
      match j.startFault with
      | none => .next s1
      | some f => .next (takeFault s1 slot ⟨f.1, f.2, 0, j.card.cpc, 0, none, none⟩)

/-- Whether a slot's job has met its rendezvous (R45, R207). -/
def Slot.mayRetire (x : Slot) : Bool :=
  (match x.job with | some j => j.started | none => false) && x.stop.isNone && x.jend && x.await.isNone &&
  x.engs.toList.all (fun y => (!y.started || y.arrived) && y.launches.isEmpty) &&
  x.chans.toList.all (fun c => !(c.bound && !c.stop && !c.idle) && c.halt.isNone)

/-- The carry set that a job leaves (R46). -/
def carrySet (x : Slot) (c : Card) : List Carried :=
  (List.range 64).filterMap (fun n =>
    if n ≠ 0 ∧ n ≠ 61 ∧ c.carry.getLsbD n then
      some ⟨BitVec.ofNat 6 n, x.scalars.toList.getD n 0, x.poison.getLsbD n, x.dead.getLsbD n⟩ else none)

/-- Whether the watchdog of a slot's job has run out (R295). -/
def Slot.overran (x : Slot) : Bool := match x.job with | some j => decide (x.watch > j.limit) | none => false

/-- The edges that a context keeps while a write behind one may go unseen, and that of a job that retires (R127, R128). -/
def retireEdges (s : State) (y : Context) (x : Slot) (j : Job) : List JobEdge :=
  let mine : JobEdge := ⟨j.seq, j.queue, j.foot, x.made⟩
  (y.edges ++ [mine]).filterMap (fun e : JobEdge =>
    let m := unseen s e.made
    if m = [] then none else some { e with made := m })

/-- JOB_RETIRE (R45, R46, R221, R375): retirement is a release at system scope (R127). -/
def execJobRetire (slot : SlotId) (s : State) : Out :=
  let x := getSlot s slot
  match x.job with
  | none => .next s
  | some j =>
    if !x.mayRetire ∨ x.overran ∨ s.paused then .next s
    else match findCtx s j.ctx with
      | none => .next s
      | some y =>
        let sig := y.csig + x.sig
        let s2 := setCtx s { y with
          csig := sig, carry := tableSet y.carry j.queue (carrySet x j.card), edges := retireEdges s y x j }
        let s3 := deviceStore (deviceStore s2 y.status (memWord s2 y.status + 1)) (y.status + 8) sig
        .next (modSlot (plankEnd s3 slot) slot Slot.afterJob)

/-! Pipelines (R52). -/

/-- The slots that a context may use on the dies that take part. -/
def slotBudget (s : State) (y : Context) : Nat := ((liveDies s).map (effSlots s y.node)).sum

/-- Whether one stage's ratio exceeds another's: occupancy / A, where A = 0 exceeds every finite ratio. -/
def ratioAbove (o1 a1 o2 a2 : Nat) : Bool :=
  if a1 = 0 then decide (a2 ≠ 0) else if a2 = 0 then false else decide (o1 * a2 > o2 * a1)

/-- One move of the allocator of a pipeline; `spare` says that the budget has a slot not allotted. -/
def allocate (occ run : Nat → Nat) (spare : Bool) (p : List Stage) : List Stage :=
  let ps := p.zipIdx
  let receiver := (ps.filter (fun a => decide (a.1.allot < a.1.maxs) && decide (occ a.1.queue > 0))).foldl
    (fun r a => match r with
      | none => some a
      | some b => if ratioAbove (occ a.1.queue) a.1.allot (occ b.1.queue) b.1.allot then some a else some b) none
  match receiver with
  | none => p
  | some (st, i) =>
    if spare then p.set i { st with allot := st.allot + 1 }
    else
      let donor := (ps.filter (fun a => decide (a.1.allot > a.1.mins) && decide (run a.1.queue < a.1.allot))).foldl
        (fun r a => match r with
          | none => some a
          | some b => if ratioAbove (occ a.1.queue) a.1.allot (occ b.1.queue) b.1.allot then some b else some a) none
      match donor with
      | none => p
      | some (dn, k) =>
        if ratioAbove (occ st.queue) st.allot (occ dn.queue) dn.allot then
          (p.set i { st with allot := st.allot + 1 }).set k { dn with allot := dn.allot - 1 }
        else p

/-- The pipelines of a context after their allocators have moved. A DESIGN CHOICE (notes/assumptions/86): allotments whose sum a
lowered SLOTS has put above the budget stand, and take no spare slot. -/
def allocateAll (s : State) (y : Context) : List (List Stage) → List (List Stage) → List (List Stage)
  | done, [] => done
  | done, p :: rest =>
    let total := (((done ++ p :: rest).flatten).map Stage.allot).sum
    allocateAll s y (done ++ [allocate (queued s y.id) (runningOf s y.id) (decide (total < slotBudget s y)) p]) rest

/-- PIPELINE_ALLOCATOR (R52). -/
def execPipelineAllocator (s : State) : Out :=
  if s.dcc.toNat % 4096 ≠ 0 ∨ s.paused then .next s
  else .next { s with contexts := s.contexts.map (fun y => { y with pipes := allocateAll s y [] y.pipes }) }

/-! The end of a plank's window (R294). -/

/-- Whether a job placed in the window still runs. -/
def Plank.busy (s : State) (p : Plank) : Bool :=
  s.slots.toList.any (fun x => match x.job with | some j => p.jobs.contains (j.ctx, j.seq) | none => false)

/-- Whether the window ends at once: its context is not live (R293), or its budget is 0 or less (R294). -/
def Plank.void (s : State) (p : Plank) : Bool :=
  (match p.window with | some w => !w.open_ && (findCtx s w.ctx).isNone | none => true) || decide (p.budgetEnd ≤ p.begin_)

/-- Whether the window has ended: its time has passed and its jobs have retired; or none of its jobs runs and no admitted one
fits; or it ends at once. -/
def Plank.ended (s : State) (p : Plank) : Bool :=
  !p.busy s && (p.void s || decide (s.dcc.toNat ≥ p.budgetEnd) || !s.jobs.any (fun j => j.admitted && p.fits s.dcc.toNat j))

/-- The debt of the window that ends. -/
def Plank.settle (p : Plank) (now : Nat) : Nat := p.debt + (p.lastEnd - p.budgetEnd) - (p.budgetEnd - now)

/-- The plank as its next window begins; none when a removal takes effect. -/
def Plank.nextWindow (p : Plank) (now : Nat) : Option Plank :=
  match p.next with
  | some [] => none
  | some ws => some { p with windows := ws, cur := 0, begin_ := now, debts := [], openDebt := 0, lastEnd := 0, jobs := [], next := none }
  | none =>
    let d := p.settle now
    let p1 := match p.window with
      | some w => if w.open_ then { p with openDebt := d } else { p with debts := tableSet p.debts w.ctx.toNat d }
      | none => p
    some { p1 with cur := (p.cur + 1) % max p.windows.length 1, begin_ := now, lastEnd := 0, jobs := [] }

/-- The next window, past those that end at once. -/
def Plank.turn (s : State) : Nat → Plank → Option Plank
  | 0, p => some p
  | fuel + 1, p => match p.nextWindow s.dcc.toNat with
    | none => none
    | some q => if q.void s then Plank.turn s fuel q else some q

/-- PLANK_WINDOW_END (R293, R294): a window that has ended makes way for the next. -/
def execPlankWindowEnd (cluster : Fin 16) (s : State) : Out :=
  match s.planks.find? (fun p => p.cluster = cluster) with
  | none => .next s
  | some p =>
    if s.paused ∨ !p.ended s then .next s
    else .next { s with planks := s.planks.filterMap (fun q =>
      if q.cluster = cluster then p.turn s (max p.windows.length 1) else some q) }

/-! The watchdog (R295). -/

/-- Where a segment overrun stands (R361): the control stream's PC, or past JEND that of the first engine stream that has not
arrived. -/
def overrunPc (x : Slot) : Word :=
  if x.jend then ((x.engs.toList.find? (fun y => y.started && !y.arrived)).map EngStream.pc).getD x.pc else x.pc

/-- SEGMENT_OVERRUN (R295, R361). -/
def execSegmentOverrun (slot : SlotId) (s : State) : Out :=
  let x := getSlot s slot
  match x.job with
  | none => .next s
  | some j =>
    if !j.started ∨ x.stop.isSome ∨ s.paused ∨ !x.overran then .next s
    else .next (takeFault s slot ⟨0x12, BitVec.ofNat 64 x.watch, 0, overrunPc x, 0, none, none⟩)

end Sys2Proof.Machine
end

