-- ==== Sys2Proof/Machine/Faults.lean ====
section
/-! DEFINITION. Machine/Faults.lean: the events of faults and stops: entering a handler for an engine's fault (R350, R351,
R392), reaching the stop points and writing the record (R354, R355, R359, R362), the fault queue (R376), the drain of a fault
domain (R360), and soft errors (R29, R30). -/

namespace Sys2Proof.Machine

/-- HANDLER_ENTRY (R350, R351, R353, R392): the pending fault that comes first is taken: it enters the handler, waits while one
runs, or suspends the job. A word that waits for a unit's reply completes first. -/
def execHandlerEntry (slot : SlotId) (s : State) : Out :=
  let x := getSlot s slot
  match x.nextPending with
  | none => .next s
  | some f =>
    if x.stop.isSome ∨ x.await.isSome ∨ x.job.isNone then .next s
    else if x.canEnter then .next (setSlot s slot (enterHandler (x.dropPending f) f))
    else if x.hnd && !x.jend then .next s
    else .next (suspend (modSlot s slot (fun y => y.dropPending f)) slot f false)

/-! Stop points. -/

/-- Whether a launch has met a fault, which stops it at once. -/
def EngStream.stopped (y : EngStream) (l : Launch) : Bool := l.parked || decide (y.faulted = some l.seq)

/-- Whether a slot's work has reached its stop points (R354): no request is out, and no launch runs but copies and
factorisations, which stop between bytes and steps; a faulted launch has stopped. -/
def Slot.atStop (x : Slot) : Bool :=
  x.await.isNone &&
  [0, 1, 3].all (fun e : Fin 4 => (x.engs[e]).launches.all (fun l => !l.started || isFactor l.op || (x.engs[e]).stopped l)) &&
  (match x.stop.bind Stop.step with
    | none => true
    | some n => (allLaunches x).all (fun p => decide (n ≤ p.2.seq) || (x.engs[p.1]).stopped p.2))

/-- The factorisation that runs, and its place in the queue. -/
def runningFactor (y : EngStream) : Option (Nat × Launch) :=
  (y.launches.zipIdx.find? (fun p => p.1.started && isFactor p.1.op && !p.1.ended && !y.stopped p.1)).map
    (fun p => (p.2, p.1))

/-- The steps that a factorisation runs before its stop (R275); none when a step faults or is the last, for then the launch
faults or completes first. -/
def stepFactor (s : State) (k : SlotId) (steps : Nat) : Option State :=
  match runningFactor (getEng s k 0) with
  | none => some s
  | some (i, l) =>
    if steps = 0 then some s
    else
      let r := runSteps s k l steps s 0 l.prog
      if r.fault.isSome ∨ r.done then none
      else some (modSlot (setLaunch r.s k 0 i { l with prog := r.prog }) k (fun x => x.orFlags r.fl))

/-- The first poisoned byte where a slot's record goes. -/
def recordError (s : State) (k : SlotId) : Option Nat := (poisonedIn s (saveAddr s k) 8192).map (saveAddr s k + ·)

/-- The record of a job that a fatal fault ends, with V clear; none where an error stops its write (notes/assumptions/52). -/
def fatalRecord (s : State) (k : SlotId) (f : FaultInfo) : State :=
  if (recordError s k).isSome then s else writeRecord s k false .fault false (some f)

/-- The end of a job by a fatal fault outside every domain (R359): its record shows the fault, with V clear. -/
def endFatal (s : State) (k : SlotId) (f : FaultInfo) : State := endJob (fatalRecord (postEntry s k 4 false (some f)) k f) k

/-- An uncorrectable error met in a job's record is a fault 0x13 of the job: fatal (R355), or deferred when the job is provisional
(R309). -/
def recordFault (s : State) (k : SlotId) (a : Nat) : State :=
  let f : FaultInfo := ⟨0x13, BitVec.ofNat 64 a, 0, (getSlot s k).pc, 0, none, none⟩
  match (getSlot s k).job.bind (fun j => j.card.pnode.map (fun n => (j, n))) with
  | some (j, n) => deferFault s k j n f
  | none => modSlot s k (fun y => { y with stop := some ⟨.fault, some f, false, false, none, true⟩ })

/-- JOB_STOP_COMPLETE (R354, R355, R356, R359, R362): at its stop points a job writes its record and posts its entry, or ends. -/
def execJobStopComplete (slot : SlotId) (steps : Nat) (s : State) : Out :=
  let x := getSlot s slot
  match x.job, x.stop with
  | some j, some st =>
    if draining s j.ctx ∨ !x.atStop then .next s
    else if st.why = .ending then .next (endJob s slot)
    else if x.drains then
      match st.fault with
      | some f => .next (endFatal s slot f)
      | none => .next s
    else if st.written then .next s
    else match stepFactor s slot steps with
      | none => .next s
      | some s1 =>
        match recordError s1 slot with
        | some a => .next (recordFault s1 slot a)
        | none =>
          let s2 := writeRecord s1 slot true st.why st.nest st.fault
          let s3 := modSlot s2 slot (fun y => { y with stop := some { st with written := true } })
          match st.why with
          | .fault => .next (postEntry s3 slot 0 st.nest st.fault)
          | .halt => .next (if st.step.isSome then s3 else postEntry s3 slot 1 false none)
          | _ => .next s3
  | _, _ => .next s

/-! The drain of a domain (R360). -/

/-- Slots that run jobs of a subtree. -/
def domainSlots (s : State) (n : Nat) : List SlotId :=
  (List.finRange 192).filter (fun k => match (getSlot s k).job with | some j => inSubtree s j.ctx n | none => false)

/-- A slot of the domain ends: its job as ABORT ends one, its granules scrubbed, its barriers released; its context stays. -/
def drainSlot (s : State) (k : SlotId) : State :=
  modSlot (releaseBarriers (endJob s k) k) k Slot.scrub

/-- FAULT_DOMAIN_DRAIN (R360): every job of the domain stops; once all are at their stop points, the domain is emptied and one
entry posted. -/
def execFaultDomainDrain (slot : SlotId) (s : State) : Out :=
  let x := getSlot s slot
  match domainOf s x.ctx, x.stop.bind Stop.fault with
  | some n, some f =>
    if !x.drains ∨ x.job.isNone then .next s
    else
      let ks := domainSlots s n
      if ks.all (fun k => (getSlot s k).atStop) then
        let s1 := postEntry (fatalRecord s slot f) slot 3 false (some f)
        let s2 := ks.foldl drainSlot s1
        .next { s2 with
          jobs := s2.jobs.filter (fun j => !inSubtree s j.ctx n)
          contexts := s2.contexts.map (fun y => if inSubtree s y.id n then { y with carry := [] } else y) }
      else
        .next (ks.foldl (fun t k => if k = slot ∨ (getSlot t k).drains then t else endingJob t k) s)
  | _, _ => .next s

/-! The fault queue (R376). -/

/-- Bits of ERR are set, and MSI-X vector 2 raised (R367, R369). -/
def raiseErr (s : State) (bits : BitVec 5) : State := { s with host := { s.host with err := s.host.err ||| bits, msix := s.host.msix ||| 4 } }

/-- A size that R369 allows. -/
def fqSizeOk (v : Word) : Bool := decide (16 ≤ v.toNat) && decide (v.toNat ≤ 65536) && decide (v &&& (v - 1) = 0)

/-- FAULT_QUEUE_POST (R376): the oldest entry takes its place at FQTAIL; with the ring full it waits, and ERR.FQFULL is set. -/
def execFaultQueuePost (s : State) : Out :=
  let h := s.host
  match s.fqWait with
  | [] => .next s
  | (w0, w1) :: rest =>
    if !fqSizeOk h.fqsize then .next s
    else if (h.fqtail - h.fqhead).toNat % 2 ^ 32 ≥ h.fqsize.toNat then .next (raiseErr s 0x10)
    else
      let a := h.fqbase.toNat + h.fqtail.toNat % h.fqsize.toNat * 16
      let s1 := deviceStore (deviceStore s a w0) (a + 8) w1
      .next { s1 with fqWait := rest, host := { h with fqtail := BitVec.ofNat 64 ((h.fqtail.toNat + 1) % 2 ^ 32), msix := h.msix ||| 1 } }

/-! Soft errors (R29). -/

/-- The index in a list of the n-th element that a test admits. -/
def nthIndex {α : Type} (p : α → Bool) (n : Nat) (l : List α) : Option Nat := ((l.zipIdx.filter (fun a => p a.1)).map Prod.snd)[n]?

/-- Addresses of a line's dirty sectors. -/
def dirtyAt (l : TileLine) : List Nat :=
  l.runs.flatMap (fun p => (List.range p.len).filterMap (fun i =>
    if l.dirty.getLsbD ((p.off + i) / 1024) then some (p.pa + i) else none))

/-- Structures that parity guards: no error in them is corrected (R29). -/
def parityOnly : SoftTarget → Bool
  | .icache _ => true
  | .tlb _ _ => true
  | .walkCache _ => true
  | _ => false

/-- The slot with the byte of a holding buffer poisoned. -/
def poisonHeld (x : Slot) (index : Nat) (chan : Option (Fin 2)) : Slot :=
  let bad (b : Option (Byte × Bool)) := b.map (fun p => (p.1, true))
  match chan with
  | some c => { x with chans := x.chans.set c.val { x.chans[c] with buffer := bad x.chans[c].buffer } c.isLt }
  | none => { x with engs := x.engs.set 2 { x.engs[(2 : Fin 4)] with
      launches := x.engs[(2 : Fin 4)].launches.zipIdx.map (fun p => if p.2 = index then { p.1 with buffer := bad p.1.buffer } else p.1) } }

/-- SOFT_ERROR (R29, R286): a corrected error is counted and changes nothing else. -/
def execSoftError (target : SoftTarget) (uncorrectable : Bool) (s : State) : Out :=
  if !uncorrectable then .next (if parityOnly target then s else { s with corrected := s.corrected + 1 })
  else match target with
  | .memory pa n => .next (if isLpddr s pa && isLpddr s (pa + n - 1) then poisonAt s pa n else s)
  | .tileData die line off n =>
    match nthIndex (fun l : TileLine => decide (l.die = die)) line s.lines with
    | none => .next s
    | some i => .next { s with lines := s.lines.zipIdx.map (fun p =>
        if p.2 = i then { p.1 with bad := setUnion p.1.bad ((List.range n).map (off + ·)) } else p.1) }
  | .pool slot off n => .next (modSlot s slot (fun x =>
      if off + n ≤ spSize x then { x with spPoison := setUnion x.spPoison ((List.range n).map (off + ·)) } else x))
  | .checkpoint slot off n => .next (modSlot s slot (fun x =>
      if off + n ≤ pwCkg x.granules * 16384 then { x with ckPoison := setUnion x.ckPoison ((List.range n).map (off + ·)) } else x))
  | .tileTag die line =>
    match (nthIndex (fun l : TileLine => decide (l.die = die)) line s.lines).bind (fun i => s.lines[i]?) with
    | none => .next s
    | some l => .next { dropLine s l.ctx l.tile with poison := setUnion s.poison (dirtyAt l) }
  | .readiness die entry =>
    match nthIndex (fun e : ReadyEntry => decide (e.die = die)) entry s.ready with
    | none => .next s
    | some i => .next { s with ready := s.ready.eraseIdx i }
  | .tlb core eng =>
    let c := s.cores[core]
    let l := c.tlbs[eng]
    .next { s with
      fresh := s.fresh + 1
      cores := s.cores.set core.val { c with tlbs := c.tlbs.set eng.val (l.eraseIdx (Config.freeNat s.fresh % max l.length 1)) eng.isLt } core.isLt }
  | .walkCache core =>
    let c := s.cores[core]
    .next { s with
      fresh := s.fresh + 1
      cores := s.cores.set core.val { c with walks := c.walks.eraseIdx (Config.freeNat s.fresh % max c.walks.length 1) } core.isLt }
  | .tileRegs slot off n => .next (modSlot s slot (fun x =>
      if off + n ≤ pwRfg x.granules * 16384 then { x with tilePoison := setUnion x.tilePoison ((List.range n).map (off + ·)) } else x))
  | .accTiles slot off n => .next (modSlot s slot (fun x =>
      if off + n ≤ pwAcg x.granules * 2048 then { x with accPoison := setUnion x.accPoison ((List.range n).map (off + ·)) } else x))
  | .holdBuffer slot index chan => .next (modSlot s slot (fun x => poisonHeld x index chan))
  | .icache _ => .next s

end Sys2Proof.Machine
end

