-- ==== Sys2Proof/Machine/Branch.lean ====
section
/-! DEFINITION. Machine/Branch.lean: control flow (R173 to R176). The target is fetched as the next word; a fetch that fails
raises its fault there (R176). -/

namespace Sys2Proof.Machine

/-- PC + 8 × offset of the word itself; the body of a word runs with PC at the next word. -/
def branchTo (x : Slot) (off : Word) : Slot := { x with pc := x.pc - 8 + off <<< 3 }

def execBr (g : Guard) (off : BitVec 46) (s : State) : Out :=
  control (.br g off) true false g [] (fun t => .ok (modCur t (fun x => branchTo x (off.signExtend 64)))) s
/-- CALL (R173): s63 takes the address of the next word. -/
def execCall (g : Guard) (off : BitVec 46) (s : State) : Out :=
  control (.call g off) true false g [] (fun t =>
    .ok (modCur t (fun x => branchTo (x.writeS 63 x.pc) (off.signExtend 64)))) s
/-- JMP (R174): a target that is no multiple of 8 is misaligned. -/
def execJmp (g : Guard) (a : Src) (s : State) : Out :=
  plain (.jmp g a) g [a] (fun t =>
    let v := src t a
    if v.extractLsb' 0 3 ≠ 0 then .fault (0x05, v) else .ok (modCur t (fun x => { x with pc := v }))) s
def execCallr (g : Guard) (sd : Reg) (a : Src) (s : State) : Out :=
  plain (.callr g sd a) g [a] (fun t =>
    let v := src t a
    if v.extractLsb' 0 3 ≠ 0 then .fault (0x05, v) else .ok (modCur t (fun x => { x.writeS sd x.pc with pc := v }))) s
/-- DBNZ (R175): the test uses the decremented value itself. -/
def execDbnz (g : Guard) (sd : Reg) (a : Src) (imm : BitVec 32) (s : State) : Out :=
  plain (.dbnz g sd a imm) g [a] (fun t =>
    let v := src t a - 1
    .ok (modCur t (fun x => if v = 0 then x.writeS sd v else branchTo (x.writeS sd v) (imm.signExtend 64)))) s

end Sys2Proof.Machine
end

