-- ==== Sys2Proof/Machine/EngineCtl.lean ====
section
/-! DEFINITION. Machine/EngineCtl.lean: the literal and stack words (R226) and the stream-control words (R227 to R232). -/

namespace Sys2Proof.Machine

/-- A word that turns popped values into pushed ones; a list that does not fit its pops leaves them as they are. -/
def stackWord (i : Instr) (pops pushed : Nat) (f : EngStream → List Word → List Word) (s : State) : Out :=
  engineWord i true pops pushed (fun t k e y vs => .ok (pushes t k e (f y vs))) s

def execLit (imm : BitVec 12) (s : State) : Out := stackWord (.lit imm) 0 1 (fun _ _ => [imm.signExtend 64]) s
def execLitx (imm : BitVec 12) (s : State) : Out :=
  stackWord (.litx imm) 1 1 (fun _ vs => match vs with | [x] => [x <<< 12 ||| imm.zeroExtend 64] | l => l) s
def execDup (s : State) : Out := stackWord .dup 1 2 (fun _ vs => match vs with | [x] => [x, x] | l => l) s
def execDrop (s : State) : Out := stackWord .drop 1 0 (fun _ _ => []) s
def execSwap (s : State) : Out := stackWord .swap 2 2 (fun _ vs => match vs with | [x, y] => [y, x] | l => l) s
def execOver (s : State) : Out := stackWord .over 2 3 (fun _ vs => match vs with | [x, y] => [y, x, y] | l => l) s
/-- ROT: z, the third entry, moves to the top. -/
def execRot (s : State) : Out := stackWord .rot 3 3 (fun _ vs => match vs with | [x, y, z] => [z, x, y] | l => l) s
/-- A word of two entries, x the top and y below it. -/
def binWord (i : Instr) (f : Word → Word → Word) (s : State) : Out :=
  stackWord i 2 1 (fun _ vs => match vs with | [x, y] => [f y x] | l => l) s
def execAddw (s : State) : Out := binWord .addw (· + ·) s
def execSubw (s : State) : Out := binWord .subw (· - ·) s
def execMulw (s : State) : Out := binWord .mulw (· * ·) s
def execShlw (s : State) : Out := binWord .shlw (fun y x => y <<< (x.toNat % 64)) s
def execShrw (s : State) : Out := binWord .shrw (fun y x => y >>> (x.toNat % 64)) s
def execAndw (s : State) : Out := binWord .andw (· &&& ·) s
def execOrw (s : State) : Out := binWord .orw (· ||| ·) s
def execLdk (n : BitVec 4) (s : State) : Out := stackWord (.ldk n) 0 1 (fun y _ => [y.cells[n.toNat]'n.isLt]) s
def execStk (n : BitVec 4) (s : State) : Out :=
  engineWord (.stk n) true 1 0 (fun t k e _ vs =>
    .ok (modEng t k e (fun y => { y with cells := y.cells.set n.toNat (vs.headD 0) n.isLt }))) s

/-! Branches and loops (R227, R228). -/

def execBrw (off : BitVec 6) (s : State) : Out :=
  engineWord (.brw off) true 0 0 (fun t _ _ y _ => .jump t (y.pc + off.signExtend 64 <<< 1)) s
/-- BZW: the offset is popped first. -/
def execBzw (s : State) : Out :=
  engineWord .bzw true 2 0 (fun t _ _ y vs =>
    match vs with
    | [off, v] => if v = 0 then .jump t (y.pc + off <<< 1) else .ok t
    | _ => .ok t) s
def execBrs (s : State) : Out :=
  engineWord .brs true 1 0 (fun t _ _ y vs => .jump t (y.pc + vs.headD 0 <<< 1)) s
/-- LOOPW (R228): a word that does not branch in every case. -/
def execLoopw (len : BitVec 6) (s : State) : Out :=
  engineWord (.loopw len) true 1 0 (fun t k e y vs =>
    let count := vs.headD 0
    let stop := y.pc + 2 + len.zeroExtend 64 <<< 1
    if count = 0 then .land t stop
    else if y.loops.length ≥ 2 then .fault (0x0E, BitVec.ofNat 64 y.stack.length)
    else if y.loops.any (fun l => decide (stop.toNat > l.stop.toNat)) then .fault (0x0D, wordOf (.loopw len))
    else .ok (modEng t k e (fun z => { z with loops := ⟨y.pc + 2, stop, count⟩ :: z.loops }))) s

/-- ENDW (R232): the stream arrives; its loops and stack entries are discarded. -/
def execEndw (s : State) : Out :=
  engineWord .endw true 0 0 (fun t k e y _ =>
    .stop (modEng t k e (fun z => { z with arrived := true, stack := [], loops := [], pc := y.pc + 2 }))) s

/-! Tags and barriers (R229, R230). -/

def execTagww (n : BitVec 6) (s : State) : Out :=
  engineWord (.tagww n) true 0 0 (fun t k e _ _ =>
    if (getSlot t k).tags.getLsbD n.toNat then .ok (modSlot t k (fun x => learnTags x (engCode e) (1 <<< n.toNat))) else .wait id) s
def execTagsw (n : BitVec 6) (s : State) : Out :=
  engineWord (.tagsw n) true 0 0 (fun t k e _ _ => .ok (setTag t k n.toNat (streamOrder t k (engCode e)).cur)) s
def execBaraw (s : State) : Out :=
  engineWord .baraw true 1 0 (fun t k e _ vs =>
    let i := vs.headD 0
    match ownBarrier t k i with
    | .error f => .fault f
    | .ok b =>
      let t2 := setBarrier t (coreOf k) i.toNat (b.arrive (releaseOf t k (engCode e) b.scope.toNat))
      if b.arr.toNat < b.exp.toNat then
        .ok (modEng t2 k e (fun y => { y with arrv := true, arrIdx := i.extractLsb' 0 9, arrPh := b.phase }))
      else .ok (modEng t2 k e (fun y => { y with arrv := false }))) s
/-- BARWW (R230): it waits on the phase of the stream's own arrival, else on the phase at its first attempt. -/
def execBarww (s : State) : Out :=
  engineWord .barww true 1 0 (fun t k e y vs =>
    let i := vs.headD 0
    match ownBarrier t k i with
    | .error f => .fault f
    | .ok b =>
      let mine := y.arrv && decide (y.arrIdx.toNat = i.toNat)
      let ph := if mine then y.arrPh else if y.wpv then y.wph else b.phase
      if b.phase != ph then .ok (barrierAcquire t k (engCode e) b)
      else .wait (fun z => if mine ∨ z.wpv then z else { z with wpv := true, wph := b.phase })) s

/-! Fences and the ends of streams (R231, R232). -/

def execFencew (scope : BitVec 4) (s : State) : Out :=
  match curEng s with
  | none => .next s
  | some e =>
    if scopePriv scope && !ctxPriv s (curSlot s).ctx then
      .next (engineFault s s.cur.slot e (getEng s s.cur.slot e).pc none (0x02, wordOf (.fencew scope)))
    else engineWord (.fencew scope) true 0 0 (fun t k e _ _ => .ok (fence t k (engCode e) 2 scope.toNat)) s
/-- WAITQ (R231): what the stream's completed launches did happens before what it does next. -/
def execWaitq (s : State) : Out :=
  engineWord .waitq true 0 0 (fun t k e y _ =>
    if y.launches.isEmpty then
      .ok (modSlot t k (fun x => x.knows (engCode e) x.fin[engCode e]))
    else .wait id) s
/-- HALTW (R232): the context halts with the stream's PC at the next word. -/
def execHaltw (s : State) : Out :=
  engineWord .haltw true 0 0 (fun t k _ _ _ => .ok (haltContext t (getSlot t k).ctx)) s
def execNopw (s : State) : Out := engineWord .nopw true 0 0 (fun t _ _ _ _ => .ok t) s

end Sys2Proof.Machine
end

