-- ==== Sys2Proof/Machine/System.lean ====
section
/-! DEFINITION. Machine/System.lean: control and status registers (R67, R75, R89, R95, R215, R216, R292, R349), TRAP, ERET and
HALT (R217, R218, R352), and TLBINV (R219). -/

namespace Sys2Proof.Machine

/-! CSRs. -/

/-- A CSR as it reads. -/
def csrRead (s : State) (k : SlotId) (n : BitVec 13) : Word :=
  let x := getSlot s k
  match n.toNat with
  | 0x001 => x.trapVec
  | 0x002 => x.trapCause
  | 0x003 => x.trapPc
  | 0x004 => x.trapVal
  | 0x005 => statusWord s x
  | 0x010 => x.ctx.setWidth 64
  | 0x011 => b2w (slotBit k)
  | 0x012 => BitVec.ofNat 64 (coreOf k).val
  | 0x013 => BitVec.ofNat 64 (dieOf k).val
  | 0x014 => match x.job with | some j => BitVec.ofNat 64 j.seq | none => 0
  | 0x020 => x.partw
  | 0x021 => x.spoob
  | 0x022 => x.poison
  | 0x023 => x.dead
  | 0x024 => x.fflags.setWidth 64
  | 0x025 => x.frm.setWidth 64
  | 0x030 => x.tags
  | 0x031 => BitVec.ofNat 64 x.fmtq.length
  | 0x032 => x.age.setWidth 64
  | 0x040 => x.sig
  | 0x041 => b2w x.detctl
  | 0x042 => s.time
  | 0x050 => efltWord x.engs[0]
  | 0x051 => efltWord x.engs[1]
  | 0x052 => efltWord x.engs[2]
  | 0x053 => efltWord x.engs[3]
  | _ => 0

/-- A slot with the fields of a CSR written: v is the value for RW fields, w the bits that clear W1C fields (R215). Reserved and
read-only fields are unchanged. -/
def csrStore (x : Slot) (n : BitVec 13) (v w : Word) : Slot :=
  match n.toNat with
  | 0x001 => { x with trapVec := v &&& 0x0000_FFFF_FFFF_FFF9 }
  | 0x003 => { x with trapPc := v }
  | 0x004 => { x with trapVal := v }
  | 0x005 => { x with skip := v.getLsbD 2 }
  | 0x021 => if w.getLsbD 63 then { x with spoob := x.spoob &&& 0x7FFF_FFFF_FFFF_FFFF, spoobAt := none } else x
  | 0x022 => { x with poison := v &&& ~~~1 }
  | 0x023 => { x with dead := v &&& ~~~1 }
  | 0x024 => { x with fflags := v.extractLsb' 0 6 }
  | 0x025 => if v.extractLsb' 0 3 = 6 ∨ v.extractLsb' 0 3 = 7 then x else { x with frm := v.extractLsb' 0 3 }
  | 0x030 => { x with tags := x.tags &&& ~~~w, tagKnown := x.tagKnown.filter (fun p => !w.getLsbD p.1) }
  | 0x032 =>
    let l := v.extractLsb' 0 16
    if 8 ≤ l.toNat ∧ l.toNat ≤ 4096 then { x with age := l } else x
  | _ => x

/-- Whether a CSR has a privileged field (R292). -/
def csrPriv (n : BitVec 13) : Bool := decide (n = 0x032)

/-- CSRW, CSRSET and CSRCLR (R215): new, from the old value and the operand; sd is written after the CSR. -/
def csrWord (i : Instr) (g : Guard) (sd : Reg) (n : BitVec 13) (a : Src) (new : Word → Word → Word) (clears : Word → Word → Word)
    (s : State) : Out :=
  control i true (csrPriv n) g [a] (consuming [a] (fun t =>
    let k := t.cur.slot
    let old := csrRead t k n
    let v := src t a
    .ok (put (modCur t (fun x => csrStore x n (new old v) (clears old v))) sd old))) s

def execCsrr (g : Guard) (sd : Reg) (csr : BitVec 13) (s : State) : Out :=
  plain (.csrr g sd csr) g [] (fun t => .ok (put t sd (csrRead t t.cur.slot csr))) s
def execCsrw (g : Guard) (sd : Reg) (csr : BitVec 13) (a : Src) (s : State) : Out :=
  csrWord (.csrw g sd csr a) g sd csr a (fun _ v => v) (fun _ v => v) s
def execCsrset (g : Guard) (sd : Reg) (csr : BitVec 13) (a : Src) (s : State) : Out :=
  csrWord (.csrset g sd csr a) g sd csr a (fun old v => old ||| v) (fun old v => old ||| v) s
def execCsrclr (g : Guard) (sd : Reg) (csr : BitVec 13) (a : Src) (s : State) : Out :=
  csrWord (.csrclr g sd csr a) g sd csr a (fun old v => old &&& ~~~v) (fun _ _ => 0) s

/-! Traps and halts. -/

/-- TRAP (R217): its effect is to raise code 0x10, with the saved PC at the next word. -/
def execTrap (g : Guard) (a : Src) (num : BitVec 20) (s : State) : Out :=
  control (.trap g a num) true false g [a] (consuming [a] (fun t =>
    .raise ⟨0x10, src t a, 0, (curSlot t).pc, num.setWidth 48, none, none⟩)) s
/-- ERET (R352): outside a handler it is illegal. -/
def execEret (g : Guard) (s : State) : Out :=
  control (.eret g) true false g [] (fun t =>
    if (curSlot t).hnd then .ok (modCur t Slot.eret) else .fault (0x01, wordOf (.eret g))) s
/-- HALT (R218): the context halts, with PC at the next word. -/
def execHalt (g : Guard) (s : State) : Out :=
  control (.halt g) true false g [] (fun t => .ok (haltContext t (curSlot t).ctx)) s

/-! TLBINV: privileged. -/

/-- A TLBINV (R109, R219): it completes once the accesses already translated through what it removes have landed. -/
def tlbinvWord (i : Instr) (g : Guard) (a : Src) (q : Word → TlbKind) (s : State) : Out :=
  control i true true g [a] (consuming [a] (fun t =>
    let kind := q (src t a)
    if inFlight t kind then .send (fun u => beginInvalidate u kind) else .ok (tlbInvalidate t kind))) s
def execTlbinvAll (g : Guard) (a : Src) (s : State) : Out := tlbinvWord (.tlbinvAll g a) g a (fun _ => .all) s
def execTlbinvAsid (g : Guard) (a : Src) (s : State) : Out := tlbinvWord (.tlbinvAsid g a) g a tlbAsid s
def execTlbinvPage (g : Guard) (a : Src) (s : State) : Out := tlbinvWord (.tlbinvPage g a) g a tlbPage s

end Sys2Proof.Machine
end

