-- ==== Sys2Proof/Machine/Text.lean ====
section
/-! DEFINITION. Machine/Text.lean: the text unit: vocabulary tables (R336 to R338), encoding (R339 to R341), decoding (R342,
R343), constraints and the mask (R344 to R346), and the text words (R332 to R335). -/

namespace Sys2Proof.Machine

/-! Characters (R340). -/

/-- What stands at the head of a byte run. -/
inductive Utf8 where
  | char (n : Nat)
  | invalid
  | incomplete
deriving DecidableEq, Repr

/-- The ranges that the bytes after a lead byte must lie in, or none for a byte that leads nothing. -/
def utf8Rest (b : Nat) : Option (List (Nat × Nat)) :=
  let c := (0x80, 0xBF)
  if b < 0x80 then some []
  else if 0xC2 ≤ b ∧ b ≤ 0xDF then some [c]
  else if b = 0xE0 then some [(0xA0, 0xBF), c]
  else if b = 0xED then some [(0x80, 0x9F), c]
  else if 0xE1 ≤ b ∧ b ≤ 0xEF then some [c, c]
  else if b = 0xF0 then some [(0x90, 0xBF), c, c]
  else if 0xF1 ≤ b ∧ b ≤ 0xF3 then some [c, c, c]
  else if b = 0xF4 then some [(0x80, 0x8F), c, c]
  else none

/-- The bytes after a lead byte against their ranges: none when one does not fit, else how many are missing. -/
def utf8Match : List (Nat × Nat) → List Nat → Option Nat
  | [], _ => some 0
  | rs, [] => some rs.length
  | r :: rs, b :: bs => if r.1 ≤ b ∧ b ≤ r.2 then utf8Match rs bs else none

def utf8Head : List Nat → Utf8
  | [] => .invalid
  | b :: rest =>
    match utf8Rest b with
    | none => .invalid
    | some rs => match utf8Match rs rest with
      | none => .invalid
      | some 0 => .char (rs.length + 1)
      | some _ => .incomplete

/-- For each byte of a run: whether it belongs to a character. The run is divided from its first byte on. -/
def utf8Good : Nat → List Nat → List Bool
  | 0, _ => []
  | fuel + 1, bs =>
    match bs with
    | [] => []
    | _ :: rest => match utf8Head bs with
      | .char n => List.replicate n true ++ utf8Good fuel (bs.drop n)
      | .invalid => false :: utf8Good fuel rest
      | .incomplete => bs.map (fun _ => false)

/-- How many last bytes of a run are an incomplete character. -/
def utf8Tail : Nat → List Nat → Nat
  | 0, _ => 0
  | fuel + 1, bs =>
    match bs with
    | [] => 0
    | _ :: rest => match utf8Head bs with
      | .char n => utf8Tail fuel (bs.drop n)
      | .invalid => utf8Tail fuel rest
      | .incomplete => bs.length

/-! Vocabulary tables (R336). -/

/-- A vocabulary header. -/
structure Vocab where
  ntok  : Nat
  fb    : Nat
  rec'  : Word
  str   : Word
  nodes : Word
  edges : Word
  nnode : Nat
  nedge : Nat
deriving DecidableEq, Repr

def noToken : Nat := 0xFFFF_FFFF

def vocabOf (bs : Bytes) : Vocab :=
  let w := wordAt bs
  ⟨((w 0).extractLsb' 0 19).toNat, (w 1).toNat, w 2, w 3, w 4, w 5, lo32 (w 6), hi32 (w 6)⟩

def vocabOk (bs : Bytes) : Bool :=
  let w := wordAt bs
  let v := vocabOf bs
  decide ((w 0).extractLsb' 19 45 = 0) && decide (1 ≤ v.ntok) && decide (v.ntok ≤ 262144) && decide (v.fb + 256 ≤ v.ntok) &&
    decide ((w 1).extractLsb' 18 46 = 0) && decide (v.rec'.toNat % 8 = 0) && decide (v.nodes.toNat % 16 = 0) &&
    decide (v.edges.toNat % 8 = 0) && decide (1 ≤ v.nnode) && decide (w 7 = 0)

/-- BADTAB. -/
def badTab {α : Type} : UnitM α := ustatus (stWord 4)

/-- Bytes of a bound table: each as memory holds it, or as it stood at the bind (R338). -/
def oldOrNew (s : State) (snap : Memory) (as : List Nat) : State × Bytes :=
  let now := as.map (cellGet s.mem)
  let old := as.map (cellGet snap)
  if old = now then (s, now)
  else ({ s with fresh := s.fresh + as.length },
    ((now.zip old).zipIdx).map (fun p => if p.1.1 = p.1.2 ∨ Config.freeBool (s.fresh + p.2) then p.1.1 else p.1.2))

/-- Reads bytes of a bound table through the requester's page tables. -/
def tabRead (snap : Memory) (va : Word) (n : Nat) : UnitM Bytes := fun w =>
  match unitPieces w.s w.ctx va n with
  | .error f => ufault f w
  | .ok (s1, l) =>
    let (s2, bs) := oldOrNew s1 snap (l.flatMap (fun q => addrs q.2.1 q.2.2))
    .ok (bs, w.read s2 [⟨false, false, va.toNat, n⟩] w.order)

/-- The bound header, read at its physical address: it is part of the table (R336, R338). -/
def boundVocab (t : TextStream) : UnitM (Bytes × Vocab) := fun w =>
  match readBad w.s t.tab 64 with
  | (s1, some i) => ufault (0x13, t.va + BitVec.ofNat 64 i) { w with s := s1 }
  | (s1, none) =>
    let (s2, bs) := oldOrNew s1 t.table (addrs t.tab 64)
    .ok ((bs, vocabOf bs), w.read s2 [⟨false, false, t.va.toNat, 64⟩] w.order)

/-- A token's record: its offset, length and whether it is a control token. -/
def tokenRecord (snap : Memory) (v : Vocab) (n : Nat) : UnitM (Nat × Nat × Bool) := do
  let r := BitVec.ofNat 64 (bytesVal (← tabRead snap (v.rec' + BitVec.ofNat 64 (8 * n)) 8))
  let len := ((r : Word).extractLsb' 32 7).toNat
  if (r : Word).getLsbD 39 ∨ (r : Word).extractLsb' 41 23 ≠ 0 ∨ len = 0 ∨ len > 64 then badTab
  return (lo32 r, len, (r : Word).getLsbD 40)

/-- A trie node at a depth: its edges (byte, child) and its token. -/
def trieNode (snap : Memory) (v : Vocab) (n depth : Nat) : UnitM (List (Nat × Nat) × Nat) := do
  if n ≥ v.nnode then badTab
  let bs ← tabRead snap (v.nodes + BitVec.ofNat 64 (16 * n)) 16
  let w := wordAt bs
  let first := lo32 (w 0)
  let cnt := ((w 0).extractLsb' 32 9).toNat
  let tok := lo32 (w 1)
  if (w 0).extractLsb' 41 23 ≠ 0 ∨ cnt > 256 ∨ hi32 (w 1) ≠ 0 ∨ first + cnt > v.nedge ∧ cnt > 0 ∨
      (tok ≠ noToken ∧ tok ≥ v.ntok ∧ n ≠ 0) ∨ (depth ≥ 64 ∧ cnt > 0) then badTab
  let es ← if cnt = 0 then pure [] else tabRead snap (v.edges + BitVec.ofNat 64 (8 * first)) (8 * cnt)
  let edges := (List.range cnt).map (fun i => wordAt es i)
  if edges.any (fun e => decide (e.extractLsb' 8 24 ≠ 0) || decide (hi32 e ≥ v.nnode)) then badTab
  let bytes := edges.map (fun e => (e.extractLsb' 0 8).toNat)
  if (bytes.zip (bytes.drop 1)).any (fun p => decide (p.2 ≤ p.1)) then badTab
  return (bytes.zip (edges.map hi32), tok)

/-! Encoding (R341). -/

/-- What the walk of the trie finds: the deepest token, the deepest token that may be emitted, and whether it stopped at the
end of the run on a node with edges. -/
structure TrieHit where
  raw  : Option (Nat × Bool)
  tok  : Option (Nat × Nat)
  open_ : Bool
deriving DecidableEq, Repr

/-- The walk over the rest of a run, with the class of each byte. -/
def trieWalk (snap : Memory) (v : Vocab) (user : Bool) : Nat → List (Nat × Bool) → Nat → Nat → TrieHit → UnitM TrieHit
  | 0, _, _, _, h => pure h
  | fuel + 1, rest, node, depth, h => do
    let (edges, _) ← trieNode snap v node depth
    match rest with
    | [] => return { h with open_ := decide (depth > 0) && !edges.isEmpty }
    | (b, good) :: more =>
      if !good then return h
      match edges.find? (fun e => e.1 = b) with
      | none => return h
      | some e =>
        let (_, tok) ← trieNode snap v e.2 (depth + 1)
        -- the root is no node passed, whatever its TOK (R336)
        let h1 ← if tok = noToken ∨ e.2 = 0 then pure h else do
          let (_, len, ctrl) ← tokenRecord snap v tok
          pure { h with raw := some (tok, ctrl), tok := if user && ctrl then h.tok else some (tok, len) }
        trieWalk snap v user fuel more e.2 (depth + 1) h1

/-- An encoding under way. -/
structure Encoder where
  out   : List Nat
  inval : Bool
  esc   : Nat
  hold  : List Nat
deriving DecidableEq, Repr

/-- Run of R341. -/
def encodeRun (snap : Memory) (v : Vocab) (user fin : Bool) : Nat → List (Nat × Bool) → Encoder → UnitM Encoder
  | 0, _, e => pure e
  | fuel + 1, xs, e => do
    match xs with
    | [] => return e
    | (b, good) :: rest =>
      if !good then encodeRun snap v user fin fuel rest { e with out := e.out ++ [v.fb + b], inval := true }
      else
        let h ← trieWalk snap v user 66 xs 0 0 ⟨none, none, false⟩
        if h.open_ && !fin then return { e with hold := xs.map Prod.fst }
        let e1 := if user && (match h.raw with | some r => r.2 | none => false) then { e with esc := e.esc + 1 } else e
        match h.tok with
        | none => encodeRun snap v user fin fuel rest { e1 with out := e1.out ++ [v.fb + b] }
        | some (tok, len) => encodeRun snap v user fin fuel (xs.drop len) { e1 with out := e1.out ++ [tok] }

/-- A run with the class of each of its bytes. -/
def classed (x : List Nat) : List (Nat × Bool) := x.zip (utf8Good (x.length + 1) x)

def textKey (die : Die) (a : Word) : Nat := die.val * 64 + (a.extractLsb' 0 6).toNat

/-- The open stream that a request may act on (R333). -/
def ownStream (die : Die) (a : Word) : UnitM TextStream := fun w =>
  match tableGet w.s.texts (textKey die a) with
  | some t => if t.owner = w.ctx then .ok (t, w) else ustatus (stWord 3) w
  | none => ustatus (stWord 3) w

def putStream (die : Die) (a : Word) (t : TextStream) : UnitM Unit :=
  uModify (fun s => { s with texts := tableSet s.texts (textKey die a) t })

/-- TXENC (R339, R341). -/
def serveEncode (die : Die) (vals : List Word) : UnitM Word := do
  let a := vals.headD 0
  let t ← ownStream die a
  let bs ← uRead (vals.getD 1 0) 32
  let w := wordAt bs
  let slen := ((w 1).extractLsb' 0 24).toNat
  let user := (w 1).getLsbD 32
  let fin := (w 1).getLsbD 33
  if (w 1).extractLsb' 24 8 ≠ 0 ∨ (w 1).extractLsb' 34 30 ≠ 0 ∨ hi32 (w 3) ≠ 0 ∨ (w 3).toNat < slen + 66 ∨ (w 2).toNat % 4 ≠ 0 then
    return ← ustatus (stWord 6)
  let (hb, v) ← boundVocab t
  if !vocabOk hb then badTab
  let input ← uRead (w 0) slen
  let held := (t.hold ++ t.carry).map BitVec.toNat
  let flush := !held.isEmpty && (t.kind != user)
  let e0 : Encoder := ⟨[], false, 0, []⟩
  let e1 ← if flush then encodeRun t.table v t.kind true (held.length + 1) (classed held) e0 else pure e0
  let x0 := (if flush then [] else held) ++ input.map BitVec.toNat
  let cut := if fin then 0 else utf8Tail (x0.length + 1) x0
  let x := x0.take (x0.length - cut)
  let carry := x0.drop (x0.length - cut)
  let e2 ← encodeRun t.table v user fin (x.length + 1) (classed x) e1
  uWrite (w 2) (e2.out.flatMap (natBytes 4))
  putStream die a { t with hold := e2.hold.map (BitVec.ofNat 8), carry := carry.map (BitVec.ofNat 8), kind := if fin then false else user }
  return b2w e2.inval <<< 55 ||| BitVec.ofNat 64 ((e2.hold.length + carry.length) * 2 ^ 48 + e2.esc % 2 ^ 24 * 2 ^ 24 + e2.out.length % 2 ^ 24)

/-! Decoding (R343, R345). -/

def isSuffix (s t : Bytes) : Bool := decide (s.length ≤ t.length) && decide (t.drop (t.length - s.length) = s)
def endsWith (s t : List Nat) : Bool := decide (s.length ≤ t.length) && decide (t.drop (t.length - s.length) = s)
def lastN {α : Type} (n : Nat) (l : List α) : List α := l.drop (l.length - n)

/-- Record(x) of R345. -/
def recordToken (t : TextStream) (x : Nat) : TextStream :=
  let hist := lastN 16 (t.hist ++ [x])
  let t1 := { t with hist := hist }
  let t2 := match t1.force with
    | some (f, j) =>
      let cont := ((t1.cons.forced[f]?).map Prod.snd).getD []
      if cont[j]? = some x then { t1 with force := if j + 1 = cont.length then none else some (f, j + 1) }
      else { t1 with force := none, viol := true }
    | none => t1
  match t2.force with
  | some _ => t2
  | none => { t2 with force := (t2.cons.forced.findIdx? (fun e => endsWith e.1 hist)).map (fun f => (f, 0)) }

/-- The first byte of a token at which a stop string ends: bytes emitted, and the string. -/
def stopAt (t : TextStream) (b : Bytes) : Option (Nat × Nat) :=
  (List.range b.length).findSome? (fun k =>
    (t.cons.stops.findIdx? (fun s => isSuffix s (t.tail ++ b.take (k + 1)))).map (fun i => (k + 1, i)))

/-- A decoding under way. -/
structure Decoder where
  t    : TextStream
  out  : Bytes
  tpos : Nat
  stop : Option Nat
deriving DecidableEq, Repr

def decodeRun (v : Vocab) (skip : Bool) (cap : Nat) : List Nat → Decoder → UnitM Decoder
  | [], d => pure d
  | x :: rest, d => do
    let (off, len, ctrl) ← tokenRecord d.t.table v x
    let b ← if skip && ctrl then pure [] else tabRead d.t.table (v.str + BitVec.ofNat 64 off) len
    let s := stopAt d.t b
    let e := match s with | some p => p.1 | none => b.length
    if d.out.length + e > cap then return d
    let bytes := b.take e
    let t1 := recordToken { d.t with tail := lastN 31 (d.t.tail ++ bytes) } x
    match s with
    | some p => return { t := { t1 with ended := true }, out := d.out ++ bytes, tpos := d.tpos + 1, stop := some p.2 }
    | none => decodeRun v skip cap rest { d with t := t1, out := d.out ++ bytes, tpos := d.tpos + 1 }

/-- TXDEC (R342, R343). -/
def serveDecode (die : Die) (vals : List Word) : UnitM Word := do
  let a := vals.headD 0
  let t ← ownStream die a
  let bs ← uRead (vals.getD 1 0) 32
  let w := wordAt bs
  let n := ((w 1).extractLsb' 0 24).toNat
  if (w 1).extractLsb' 24 8 ≠ 0 ∨ (w 1).extractLsb' 33 31 ≠ 0 ∨ (w 0).toNat % 4 ≠ 0 ∨ (w 3).extractLsb' 24 40 ≠ 0 then
    return ← ustatus (stWord 6)
  let (hb, v) ← boundVocab t
  let src ← uRead (w 0) (4 * n)
  let toks := rowOf src n
  if toks.any (fun x => decide (x ≥ v.ntok)) then return ← ustatus (stWord 6)
  if t.ended then return ← ustatus (stWord 2)
  if !vocabOk hb then badTab
  let d ← decodeRun v ((w 1).getLsbD 32) (w 3).toNat toks ⟨t, [], 0, none⟩
  uWrite (w 2) d.out
  putStream die a d.t
  return (match d.stop with | some i => stWord 1 ||| BitVec.ofNat 64 (i * 2 ^ 48) | none => 0) |||
    BitVec.ofNat 64 (d.tpos * 2 ^ 24 + d.out.length)

/-! Constraints (R344). -/

/-- A list of 16 tokens of which the first n are in range and the rest zero. -/
def tokensOk (v : Vocab) (n : Nat) (l : List Nat) : Bool :=
  decide (1 ≤ n) && decide (n ≤ 16) && (l.take n).all (fun x => decide (x < v.ntok)) && (l.drop n).all (fun x => decide (x = 0))

/-- The constraint record, or none when it breaks R344. -/
def constraintsOf (v : Vocab) (h : Word) (stops bans forced : List Bytes) : Option Constraints :=
  let stopOf (bs : Bytes) : Option Bytes :=
    let len := (wordAt bs 0).toNat
    let s := (bs.drop 8).take len
    if 1 ≤ len ∧ len ≤ 32 ∧ ((bs.drop 8).drop len).all (· = 0) ∧ (utf8Good 33 (s.map BitVec.toNat)).all id then some s else none
  let banOf (bs : Bytes) : Option (List Nat) :=
    let len := (wordAt bs 0).toNat
    let l := rowOf (bs.drop 8) 16
    if tokensOk v len l then some (l.take len) else none
  let forceOf (bs : Bytes) : Option (List Nat × List Nat) :=
    let w := wordAt bs 0
    let tl := (w.extractLsb' 0 5).toNat
    let cl := (w.extractLsb' 8 5).toNat
    let trig := rowOf (bs.drop 8) 16
    let cont := rowOf (bs.drop 72) 16
    if w.extractLsb' 5 3 = 0 ∧ w.extractLsb' 13 51 = 0 ∧ tokensOk v tl trig ∧ tokensOk v cl cont then some (trig.take tl, cont.take cl) else none
  if h.extractLsb' 4 12 ≠ 0 ∨ h.extractLsb' 25 7 ≠ 0 ∨ h.extractLsb' 38 26 ≠ 0 then none
  else match stops.mapM stopOf, bans.mapM banOf, forced.mapM forceOf with
    | some s, some b, some f => some ⟨s, b, f⟩
    | _, _, _ => none

/-- Entries of n bytes each. -/
def entriesAt (va : Word) (count n : Nat) : UnitM (List Bytes) := do
  let bs ← uRead va (count * n)
  return (List.range count).map (fun i => (bs.drop (i * n)).take n)

/-- TXCONS (R344). -/
def serveCons (die : Die) (vals : List Word) : UnitM Word := do
  let a := vals.headD 0
  let va := vals.getD 1 0
  let t ← ownStream die a
  let (hb, v) ← boundVocab t
  if !vocabOk hb then badTab
  let h ← uWord va
  let ns := (h.extractLsb' 0 4).toNat
  let nb := (h.extractLsb' 16 9).toNat
  let nf := (h.extractLsb' 32 6).toNat
  if ns > 8 ∨ nb > 256 ∨ nf > 32 then return ← ustatus (stWord 5)
  let stops ← entriesAt (va + 8) ns 40
  let bans ← entriesAt (va + BitVec.ofNat 64 (8 + 40 * ns)) nb 72
  let forced ← entriesAt (va + BitVec.ofNat 64 (8 + 40 * ns + 72 * nb)) nf 136
  match constraintsOf v h stops bans forced with
  | none => ustatus (stWord 5)
  | some c =>
    putStream die a { t with cons := c, tail := [], hist := [], force := none, ended := false, viol := false }
    return 0

/-- Whether a token is allowed (R346). -/
def tokenAllowed (t : TextStream) (x : Nat) : Bool :=
  match t.force with
  | some (f, j) => decide (((t.cons.forced[f]?).bind (fun e => e.2[j]?)) = some x)
  | none => !(t.cons.bans.any (fun b => decide (b.getLast? = some x) && endsWith b.dropLast t.hist))

/-- TXMASK (R346). -/
def serveMask (die : Die) (vals : List Word) : UnitM Word := do
  let t ← ownStream die (vals.headD 0)
  if t.ended then return ← ustatus (stWord 2)
  let (hb, v) ← boundVocab t
  if !vocabOk hb then badTab
  uSpWrite (vals.getD 1 0).toNat (bitRow (tokenAllowed t) v.ntok)
  let n := (List.range v.ntok).countP (tokenAllowed t)
  return b2w t.force.isSome <<< 55 ||| b2w t.viol <<< 54 ||| BitVec.ofNat 64 n

/-- Reads the header at an address and binds it: its physical address and memory as it stands (R337). -/
def bindVocab (va : Word) : UnitM (Nat × Memory) := do
  let bs ← uRead va 64
  if !vocabOk bs then badTab
  fun w => .ok (((peek w.s (ctxL1 w.s w.ctx) va .read).getD 0, w.s.mem), w)

/-- TXVOCAB open (R337). -/
def serveOpen (die : Die) (vals : List Word) : UnitM Word := do
  let a := vals.headD 0
  let s ← uState
  let ctx ← fun w => .ok (w.ctx, w)
  match tableGet s.texts (textKey die a) with
  | some t => ustatus (stWord (if t.owner = ctx then 7 else 3))
  | none =>
    let (tab, mem) ← bindVocab (vals.getD 1 0)
    putStream die a ⟨ctx, tab, [], false, [], [], [], none, false, false, ⟨[], [], []⟩, mem, vals.getD 1 0⟩
    return 0
/-- TXVOCAB rebind. -/
def serveRebind (die : Die) (vals : List Word) : UnitM Word := do
  let a := vals.headD 0
  let t ← ownStream die a
  let (tab, mem) ← bindVocab (vals.getD 1 0)
  putStream die a { t with tab := tab, table := mem, va := vals.getD 1 0 }
  return 0
/-- TXVOCAB close. -/
def serveClose (die : Die) (vals : List Word) : UnitM Word := do
  let a := vals.headD 0
  let _ ← ownStream die a
  uModify (fun s => { s with texts := tableDel s.texts (textKey die a) })
  return 0

/-! The words (R332 to R335). -/

/-- The alignment of a descriptor, then the die that the stream operand names: one that does not take part gives NOTOWN. -/
def textPre (align : Nat) (s : State) (vals : List Word) : Except FCode (Die ⊕ Word) :=
  let a := vals.headD 0
  let b := vals.getD 1 0
  let d : Die := ⟨(a.extractLsb' 6 2).toNat, (a.extractLsb' 6 2).isLt⟩
  if b.toNat % align ≠ 0 then .error (0x05, b)
  else if dieLive s d.val then .ok (.inl d) else .ok (.inr (stWord 3))

def textWord (i : Instr) (g : Guard) (align : Nat) (serve : Die → List Word → UnitM Word) (s : State) : Out :=
  unitWord i (feature s 4) g (textPre align) .text (fun d _ v => serve d v) s

def execTxenc (g : Guard) (sd : Reg) (a b : Src) (s : State) : Out := textWord (.txenc g sd a b) g 32 serveEncode s
def execTxdec (g : Guard) (sd : Reg) (a b : Src) (s : State) : Out := textWord (.txdec g sd a b) g 32 serveDecode s
def execTxcons (g : Guard) (sd : Reg) (a b : Src) (s : State) : Out := textWord (.txcons g sd a b) g 8 serveCons s
def execTxvocabOpen (g : Guard) (sd : Reg) (a b : Src) (s : State) : Out := textWord (.txvocabOpen g sd a b) g 64 serveOpen s
def execTxvocabRebind (g : Guard) (sd : Reg) (a b : Src) (s : State) : Out := textWord (.txvocabRebind g sd a b) g 64 serveRebind s
def execTxvocabClose (g : Guard) (sd : Reg) (a b : Src) (s : State) : Out := textWord (.txvocabClose g sd a b) g 1 serveClose s
def execTxmask (g : Guard) (sd : Reg) (a b : Src) (s : State) : Out := textWord (.txmask g sd a b) g 1 serveMask s

/-! Requests from afar. -/

/-- The work that a request asks of a unit. -/
def serveRequest (r : UnitRequest) : UnitM Word :=
  match r.op with
  | .kvappend _ _ _ _ _ => serveAppend r.die r.vals
  | .kvcommit _ _ _ _ _ => serveCommit r.vals
  | .kvsquash _ _ _ _ => serveSquash r.vals
  | .kvtrunc _ _ _ _ _ => serveTrunc r.vals
  | .kvfork _ _ _ _ _ => serveFork r.die r.vals
  | .kvfree _ _ _ _ => serveFree r.vals
  | .smpstart _ _ _ => serveSample r.op r.slot r.vals
  | .acctest _ _ _ => serveAccept r.op r.slot r.vals
  | .txenc _ _ _ _ => serveEncode r.die r.vals
  | .txdec _ _ _ _ => serveDecode r.die r.vals
  | .txcons _ _ _ _ => serveCons r.die r.vals
  | .txvocabOpen _ _ _ _ => serveOpen r.die r.vals
  | .txvocabRebind _ _ _ _ => serveRebind r.die r.vals
  | .txvocabClose _ _ _ _ => serveClose r.die r.vals
  | .txmask _ _ _ _ => serveMask r.die r.vals
  | _ => pure 0

/-- DIE_UNIT_REQUEST (R22, R299): a unit serves the request that reached it first, whole. -/
def execDieUnitRequest (die : Die) (unit : UnitKind) (s : State) : Out :=
  match takeRequest s die unit with
  | none => .next s
  | some (r, s1) =>
    if (getSlot s1 r.slot).await = some (.unit die unit) ∧ (getSlot s1 r.slot).reply = none then
      .next (replyTo r.slot (runUnit s1 r.slot die r.order (serveRequest r)))
    else .next s1

end Sys2Proof.Machine
end

