-- ==== Sys2Proof/Machine/Words.lean ====
section
/-! DEFINITION. Machine/Words.lean: the words of a stream by constructor, for the steps that run a word themselves: a waiting
word whose condition has come to hold (R182), and STEP (R363). -/

namespace Sys2Proof.Machine

/-- Runs a control or an engine word; a command or an event is none. -/
def runWord (i : Instr) (s : State) : Out :=
  match i with
  | .nop g => execNop g s
  | .add g sd a b => execAdd g sd a b s
  | .sub g sd a b => execSub g sd a b s
  | .mul g sd a b => execMul g sd a b s
  | .mulh g sd a b => execMulh g sd a b s
  | .mulhu g sd a b => execMulhu g sd a b s
  | .div g sd a b => execDiv g sd a b s
  | .divu g sd a b => execDivu g sd a b s
  | .rem g sd a b => execRem g sd a b s
  | .remu g sd a b => execRemu g sd a b s
  | .and g sd a b => execAnd g sd a b s
  | .or g sd a b => execOr g sd a b s
  | .xor g sd a b => execXor g sd a b s
  | .andn g sd a b => execAndn g sd a b s
  | .shl g sd a b => execShl g sd a b s
  | .shr g sd a b => execShr g sd a b s
  | .sra g sd a b => execSra g sd a b s
  | .ror g sd a b => execRor g sd a b s
  | .min g sd a b => execMin g sd a b s
  | .max g sd a b => execMax g sd a b s
  | .minu g sd a b => execMinu g sd a b s
  | .maxu g sd a b => execMaxu g sd a b s
  | .clz g sd a => execClz g sd a s
  | .ctz g sd a => execCtz g sd a s
  | .popc g sd a => execPopc g sd a s
  | .bext g sd a b c => execBext g sd a b c s
  | .bins g sd a b c => execBins g sd a b c s
  | .sel g sd p a b => execSel g sd p a b s
  | .madd g sd a b c => execMadd g sd a b c s
  | .addi g sd a imm => execAddi g sd a imm s
  | .andi g sd a imm => execAndi g sd a imm s
  | .ori g sd a imm => execOri g sd a imm s
  | .xori g sd a imm => execXori g sd a imm s
  | .shli g sd a imm => execShli g sd a imm s
  | .shri g sd a imm => execShri g sd a imm s
  | .srai g sd a imm => execSrai g sd a imm s
  | .muli g sd a imm => execMuli g sd a imm s
  | .movi g sd imm => execMovi g sd imm s
  | .movhi g sd a imm => execMovhi g sd a imm s
  | .leapc g sd imm => execLeapc g sd imm s
  | .cmp g pd pe cc a b => execCmp g pd pe cc a b s
  | .cmpi g pd pe cc a imm => execCmpi g pd pe cc a imm s
  | .fcmp g pd pe cc d a b => execFcmp g pd pe cc d a b s
  | .pand g pd pa pb na nb => execPand g pd pa pb na nb s
  | .por g pd pa pb na nb => execPor g pd pa pb na nb s
  | .pxor g pd pa pb na nb => execPxor g pd pa pb na nb s
  | .pget g sd grp => execPget g sd grp s
  | .pput g grp a => execPput g grp a s
  | .br g off => execBr g off s
  | .call g off => execCall g off s
  | .jmp g a => execJmp g a s
  | .callr g sd a => execCallr g sd a s
  | .dbnz g sd a imm => execDbnz g sd a imm s
  | .fadd g sd rm d a b => execFadd g sd rm d a b s
  | .fsub g sd rm d a b => execFsub g sd rm d a b s
  | .fmul g sd rm d a b => execFmul g sd rm d a b s
  | .fdiv g sd rm d a b => execFdiv g sd rm d a b s
  | .ffma g sd rm d a b c => execFfma g sd rm d a b c s
  | .fsqrt g sd rm d a => execFsqrt g sd rm d a s
  | .fexp2 g sd rm d a => execFexp2 g sd rm d a s
  | .flog2 g sd rm d a => execFlog2 g sd rm d a s
  | .fmin g sd d a b => execFmin g sd d a b s
  | .fmax g sd d a b => execFmax g sd d a b s
  | .fcvt g sd rm code a => execFcvt g sd rm code a s
  | .fclass g sd d a => execFclass g sd d a s
  | .ld g sd a size order scope spec off => execLd g sd a size order scope spec off s
  | .st g data a size order scope off => execSt g data a size order scope off s
  | .ldsp g sd a size order scope off => execLdsp g sd a size order scope off s
  | .stsp g data a size order scope off => execStsp g data a size order scope off s
  | .pref g a off => execPref g a off s
  | .chk g a => execChk g a s
  | .clean g a scope off => execClean g a scope off s
  | .inval g a scope off => execInval g a scope off s
  | .aadd g sd a b order scope place size => execAadd g sd a b order scope place size s
  | .aand g sd a b order scope place size => execAand g sd a b order scope place size s
  | .aor g sd a b order scope place size => execAor g sd a b order scope place size s
  | .axor g sd a b order scope place size => execAxor g sd a b order scope place size s
  | .amin g sd a b order scope place size => execAmin g sd a b order scope place size s
  | .amax g sd a b order scope place size => execAmax g sd a b order scope place size s
  | .aminu g sd a b order scope place size => execAminu g sd a b order scope place size s
  | .amaxu g sd a b order scope place size => execAmaxu g sd a b order scope place size s
  | .aswp g sd a b order scope place size => execAswp g sd a b order scope place size s
  | .acas g sd a b c order scope place size => execAcas g sd a b c order scope place size s
  | .afadd g sd a b order scope place size => execAfadd g sd a b order scope place size s
  | .fence g kind scope => execFence g kind scope s
  | .barinit g sd a b scope => execBarinit g sd a b scope s
  | .bararrive g sd a => execBararrive g sd a s
  | .barexpect g a b => execBarexpect g a b s
  | .barwait g a b => execBarwait g a b s
  | .bartest g pd a b => execBartest g pd a b s
  | .tagwaitany g sd a => execTagwaitany g sd a s
  | .tagwaitall g a => execTagwaitall g a s
  | .tagfirst g sd a => execTagfirst g sd a s
  | .tagclr g a => execTagclr g a s
  | .estart g sd e a => execEstart g sd e a s
  | .eput g e n a => execEput g e n a s
  | .eget g sd e n => execEget g sd e n s
  | .fmtq g a => execFmtq g a s
  | .join g mask => execJoin g mask s
  | .spawn g sd a q nb => execSpawn g sd a q nb s
  | .jend g => execJend g s
  | .cpchainBind g sd a b ch => execCpchainBind g sd a b ch s
  | .cpchainKick g sd ch => execCpchainKick g sd ch s
  | .cpchainStop g sd ch => execCpchainStop g sd ch s
  | .cpstat g sd ch => execCpstat g sd ch s
  | .rdyset g sd a b => execRdyset g sd a b s
  | .rdytest g pd a b => execRdytest g pd a b s
  | .tcpref g a b dim n => execTcpref g a b dim n s
  | .tcinv g a b whole => execTcinv g a b whole s
  | .tcclean g a b whole => execTcclean g a b whole s
  | .tcpin g sd a b => execTcpin g sd a b s
  | .tcunpin g a b => execTcunpin g a b s
  | .tclook g sd a b => execTclook g sd a b s
  | .tchalo g a b c => execTchalo g a b c s
  | .kvappend g sd a b c => execKvappend g sd a b c s
  | .kvcommit g sd a b c => execKvcommit g sd a b c s
  | .kvtrunc g sd a b c => execKvtrunc g sd a b c s
  | .kvfork g sd a b c => execKvfork g sd a b c s
  | .kvsquash g sd a b => execKvsquash g sd a b s
  | .kvfree g sd a b => execKvfree g sd a b s
  | .cksnap g sd a b => execCksnap g sd a b s
  | .cksel g sd a => execCksel g sd a s
  | .ckdrop g a => execCkdrop g a s
  | .smpstart g sd a => execSmpstart g sd a s
  | .acctest g sd a => execAcctest g sd a s
  | .rndc g sd => execRndc g sd s
  | .rngset g e a b => execRngset g e a b s
  | .rngget g sd e w => execRngget g sd e w s
  | .txenc g sd a b => execTxenc g sd a b s
  | .txdec g sd a b => execTxdec g sd a b s
  | .txcons g sd a b => execTxcons g sd a b s
  | .txmask g sd a b => execTxmask g sd a b s
  | .txvocabOpen g sd a b => execTxvocabOpen g sd a b s
  | .txvocabRebind g sd a b => execTxvocabRebind g sd a b s
  | .txvocabClose g sd a b => execTxvocabClose g sd a b s
  | .csrr g sd csr => execCsrr g sd csr s
  | .csrw g sd csr a => execCsrw g sd csr a s
  | .csrset g sd csr a => execCsrset g sd csr a s
  | .csrclr g sd csr a => execCsrclr g sd csr a s
  | .trap g a num => execTrap g a num s
  | .eret g => execEret g s
  | .halt g => execHalt g s
  | .tlbinvAll g a => execTlbinvAll g a s
  | .tlbinvAsid g a => execTlbinvAsid g a s
  | .tlbinvPage g a => execTlbinvPage g a s
  | .cyc g sd => execCyc g sd s
  | .sigmix g a => execSigmix g a s
  | .waitcyc g a => execWaitcyc g a s
  | .lit imm => execLit imm s
  | .litx imm => execLitx imm s
  | .dup => execDup s
  | .drop => execDrop s
  | .swap => execSwap s
  | .over => execOver s
  | .rot => execRot s
  | .addw => execAddw s
  | .subw => execSubw s
  | .mulw => execMulw s
  | .shlw => execShlw s
  | .shrw => execShrw s
  | .andw => execAndw s
  | .orw => execOrw s
  | .ldk n => execLdk n s
  | .stk n => execStk n s
  | .brw off => execBrw off s
  | .bzw => execBzw s
  | .brs => execBrs s
  | .loopw len => execLoopw len s
  | .endw => execEndw s
  | .tagww t => execTagww t s
  | .tagsw t => execTagsw t s
  | .baraw => execBaraw s
  | .barww => execBarww s
  | .fencew scope => execFencew scope s
  | .waitq => execWaitq s
  | .haltw => execHaltw s
  | .cpy1d dsp ssp => execCpy1d dsp ssp s
  | .cpy2d dsp ssp => execCpy2d dsp ssp s
  | .cpy3d dsp ssp => execCpy3d dsp ssp s
  | .cpyt toTile => execCpyt toTile s
  | .cpytb dim side => execCpytb dim side s
  | .cpyg dsp ssp => execCpyg dsp ssp s
  | .cpys dsp ssp => execCpys dsp ssp s
  | .cpyfill dsp => execCpyfill dsp s
  | .mld => execMld s
  | .mst => execMst s
  | .accinit => execAccinit s
  | .acczero => execAcczero s
  | .acccvt => execAcccvt s
  | .accnorm => execAccnorm s
  | .accsnap => execAccsnap s
  | .accload => execAccload s
  | .mma ta tb => execMma ta tb s
  | .mmas ta tb => execMmas ta tb s
  | .permrd => execPermrd s
  | .growrd => execGrowrd s
  | .flu fx => execFlu fx s
  | .fchol fx => execFchol fx s
  | .fqr fx => execFqr fx s
  | .ftrsl fx => execFtrsl fx s
  | .ftrsu fx => execFtrsu fx s
  | .fapplyq fx => execFapplyq fx s
  | .vadd fmt => execVadd fmt s
  | .vsub fmt => execVsub fmt s
  | .vmul fmt => execVmul fmt s
  | .vfma fmt => execVfma fmt s
  | .vmax fmt => execVmax fmt s
  | .vmin fmt => execVmin fmt s
  | .vabs fmt => execVabs fmt s
  | .vcmp fmt => execVcmp fmt s
  | .vsel fmt => execVsel fmt s
  | .vcvt fmt => execVcvt fmt s
  | .vrcp fmt => execVrcp fmt s
  | .vrsq fmt => execVrsq fmt s
  | .vexp2 fmt => execVexp2 fmt s
  | .vlog2 fmt => execVlog2 fmt s
  | .vred fmt => execVred fmt s
  | .viota fmt => execViota fmt s
  | .vand fmt => execVand fmt s
  | .vor fmt => execVor fmt s
  | .vxor fmt => execVxor fmt s
  | .vshl fmt => execVshl fmt s
  | .vshr fmt => execVshr fmt s
  | .vmov fmt => execVmov fmt s
  | .vrnd => execVrnd s
  | .vtmask => execVtmask s
  | .vsmax masked fmt => execVsmax masked fmt s
  | .vtopk => execVtopk s
  | .vargmax => execVargmax s
  | .vscan fmt => execVscan fmt s
  | .vquant fmt => execVquant fmt s
  | .vdeq fmt => execVdeq fmt s
  | .xray => execXray s
  | .xrad => execXrad s
  | .xknn => execXknn s
  | .xbox => execXbox s
  | .nopw => execNopw s
  | _ => .next s

end Sys2Proof.Machine
end

