-- ==== Sys2Proof/Machine/Fetch.lean ====
section
/-! DEFINITION. Machine/Fetch.lean: which streams may issue (R182, R290), fetching an instruction's bytes (R103, R106, R176),
what a word that does not decode raises (R141, R148), and a word whose condition has come to hold (R182). -/

namespace Sys2Proof.Machine

/-- Whether a stream's next word can issue: its job runs and does not stop, and no waiting word, fault, reply or rendezvous
holds it (R45, R182, R290, R351, R354). -/
def mayIssue (s : State) (k : SlotId) (e : EngId) : Bool :=
  let x := getSlot s k
  !s.paused && (match x.job with | some j => j.started | none => false) && x.stop.isNone &&
  (match engIndex e with
    | none => !x.jend && x.wait.isNone && x.await.isNone
    | some p =>
      let y := x.engs[p]
      y.started && !y.arrived && !y.held && y.wait.isNone)

/-- The PC of a stream. -/
def streamPc (s : State) (k : SlotId) (e : EngId) : Word :=
  match engIndex e with
  | none => (getSlot s k).pc
  | some p => (getEng s k p).pc

/-- The bytes that instruction fetch of a job may still see: those of the moment when it entered its queue (R103), or of an INVAL
since then (R188). -/
def olderCode (s : State) (k : SlotId) (j : Job) (pa n : Nat) : Bytes :=
  match (s.cores[coreOf k]).fetched.find? (fun l => decide (l.pa = pa - pa % 64)) with
  | some l => if j.entered ≤ l.at_ then (l.bytes.drop (pa % 64)).take n else cellsGet j.code pa n
  | none => cellsGet j.code pa n

/-- A word's bytes: the memory of now, or an older state of it (R103, R188; notes/assumptions/2). -/
def codeBytes (s : State) (k : SlotId) (pa n : Nat) : Bytes :=
  let now := readBytes s pa n
  match (getSlot s k).job with
  | none => now
  | some j =>
    let old := olderCode s k j pa n
    if now = old then now else if Config.freeBool s.fresh then now else old

/-- The bytes of a stream's next word, or the fault of fetching them with what the translation has done. -/
def fetchBytes (s : State) (k : SlotId) (e : EngId) : Except (State × FCode) (State × Bytes) :=
  let pc := streamPc s k e
  let n := if e = 0 then 8 else 2
  if pc.toNat % n ≠ 0 then .error (s, 0x05, pc)
  else
    let c := (getSlot s k).ctx
    match translateAs s (coreOf k) e c (ctxL1 s c) pc .fetch with
    | .error f => .error (s, f)
    | .ok (s1, w) =>
      match readBad s1 w.pa n with
      | (s2, some i) => .error (s2, 0x13, pc + BitVec.ofNat 64 i)
      | (s2, none) => .ok ({ s2 with fresh := s2.fresh + 1 }, codeBytes s2 k w.pa n)

/-- How the fetch of a word comes out: the word, in the state in which it runs; or the state after the exception of the fetch
or of the decoding is taken. -/
inductive Fetched where
  | word (s : State) (i : Instr)
  | taken (s : State)

/-- A fault raised at a stream's PC. One of the host's class finds TRAPPC at the target (R176); inside a handler TRAPPC keeps the
PC that ERET returns to (notes/assumptions/78). -/
def faultAt (s : State) (k : SlotId) (e : EngId) (f : FCode) : State :=
  match engIndex e with
  | none => controlFault (if hostClass f.1 then modSlot s k (fun x => if x.hnd then x else { x with trapPc := x.pc }) else s) f
  | some p => engineFault s k p (streamPc s k e) none f

/-- Fetches and decodes the next word of a stream. -/
def fetchWord (s : State) (k : SlotId) (e : EngId) : Fetched :=
  match fetchBytes { s with cur := ⟨k, e⟩ } k e with
  | .error (s1, f) => .taken (faultAt s1 k e f)
  | .ok (s1, bs) =>
    match decodeBytes bs with
    | some i => .word s1 i
    | none => .taken (faultAt s1 k e (if e = 0 then 0x01 else 0x0D, BitVec.ofNat 64 (bytesVal bs)))

/-- Runs a word with its slot and stream current. -/
def runAs (s : State) (k : SlotId) (e : EngId) (i : Instr) : State :=
  match runWord i { s with cur := ⟨k, e⟩ } with
  | .next t => t
  | _ => s

/-- One word of a stream, fetched and run. -/
def issueOne (s : State) (k : SlotId) (e : EngId) : State :=
  match fetchWord s k e with
  | .taken t => t
  | .word t i => runAs t k e i

/-- The waiting word of a stream. -/
def waitingWord (s : State) (k : SlotId) (e : EngId) : Option Instr :=
  match engIndex e with
  | none => (getSlot s k).wait
  | some p => (getEng s k p).wait

/-- Whether a waiting word may be taken again. -/
def mayRetest (s : State) (k : SlotId) (e : EngId) : Bool :=
  let x := getSlot s k
  !s.paused && (match x.job with | some j => j.started | none => false) && x.stop.isNone &&
  (match engIndex e with
    | none => !x.jend && x.await.isNone
    | some p => let y := x.engs[p]; y.started && !y.arrived && !y.held)

/-- WAIT_CONDITION_MET (R182): the waiting word is tested again, and completes when its condition holds. -/
def execWaitConditionMet (slot : SlotId) (eng : EngId) (s : State) : Out :=
  match waitingWord s slot eng with
  | none => .next s
  | some i => if mayRetest s slot eng then .next (runAs s slot eng i) else .next s

end Sys2Proof.Machine
end

