-- ==== Sys2Proof/Machine/Commands.lean ====
section
/-! DEFINITION. Machine/Commands.lean: command queues (R371 to R373) and the commands of R374, with what they do to contexts
(R37, R38, R111), regions (R31 to R36), layouts (R96, R97), pipelines (R51), planks (R293), jobs (R283, R357, R362, R363) and
slots (R39). Executed from a queue, a command answers with a STATUS there. -/

namespace Sys2Proof.Machine

/-! Queues. -/

/-- The header of a command queue: queue 0 at PQBASE, queue c + 1 that of context c (R371). -/
def queueHeader (s : State) (q : Nat) : Option Nat :=
  if q = 0 then (if s.host.rwOnce.getLsbD 1 then some s.host.pqbase.toNat else none)
  else if q ≤ 4096 then (findCtx s (BitVec.ofNat 12 (q - 1))).map Context.header
  else none

/-- A queue as its header describes it. -/
structure Ring where
  header : Nat
  ring   : Nat
  size   : Nat
  irq    : Bool
  head   : Nat
  tail   : Nat
deriving DecidableEq, Repr

/-- Reads a queue's header; none when there is no such queue, or no usable header: it must lie in LPDDR-6, 64-byte aligned,
with LOG2 from 1 to 12. -/
def readRing (s : State) (q : Nat) : Option Ring :=
  match queueHeader s q with
  | none => none
  | some h =>
    let w (n : Nat) : Word := readWord s (h + 8 * n)
    let log := ((w 1).extractLsb' 0 4).toNat
    if h % 64 ≠ 0 ∨ !isLpddr s h ∨ log = 0 ∨ log > 12 then none
    else some ⟨h, (w 0).toNat, 2 ^ log, (w 1).getLsbD 4, (w 2).toNat % 2 ^ 32, (w 3).toNat % 2 ^ 32⟩

/-- Entries between HEAD and TAIL. -/
def Ring.count (r : Ring) : Nat := (r.tail + 2 ^ 32 - r.head) % 2 ^ 32
/-- The address of the entry at an index. -/
def Ring.entry (r : Ring) (i : Nat) : Nat := r.ring + 64 * (i % r.size)

/-- STATUS as the device writes it (R371). -/
def statusOf (code : Nat) (result : Word) : Word := BitVec.ofNat 64 code ||| 0x100 ||| result <<< 16

/-- Writes STATUS, then HEAD, then DONE of the entry at HEAD, as one release at system scope (R372). -/
def completeEntry (s : State) (r : Ring) (code : Nat) (result : Word) : State :=
  let s1 := deviceStore s (r.entry r.head + 8) (statusOf code result)
  let s2 := deviceStore s1 (r.header + 16) (BitVec.ofNat 64 ((r.head + 1) % 2 ^ 32))
  let s3 := deviceStore s2 (r.header + 32) (memWord s2 (r.header + 32) + 1)
  if r.irq then { s3 with host := { s3.host with msix := s3.host.msix ||| 2 } } else s3

/-- A command completes with a status; one that came from no queue has nobody to tell. -/
def finishCmd (s : State) (code : Nat) (result : Word) : State :=
  match s.curCmd with
  | none => s
  | some q =>
    let s1 := { s with curCmd := none, cmdWait := if q = 0 then none else s.cmdWait }
    match readRing s1 q with
    | none => s1
    | some r => completeEntry s1 r code result

/-- The answer of a command: a state and a status. -/
def answer (s : State) (code : Nat) : Out := .next (finishCmd s code 0)

/-- A command has begun, and completes when it is taken again. -/
def deferCmd (s : State) (i : Instr) : State := if s.curCmd.isSome then { s with curCmd := none, cmdWait := some i } else s

/-- Whether a command taken from queue 0 is the one that has begun. -/
def begun (s : State) (i : Instr) : Bool := s.curCmd.isSome && s.cmdWait == some i

/-- The context that a command names; none when it is not live or is being destroyed. -/
def liveCtx (s : State) (c : Ctx) : Option Context := match findCtx s c with | some y => if y.dying then none else some y | none => none

/-- Bytes that a command names by a physical address; none outside memory. A DESIGN CHOICE (notes/assumptions/38): where one of them is
poisoned the command answers as for an address outside memory, with its 'bad' status (R30). -/
def physBytes (s : State) (pa n : Nat) : Option Bytes :=
  if paOk s pa && paOk s (pa + n - 1) && (poisonedIn s pa n).isNone then some (readBytes s pa n) else none

/-! Contexts. -/

/-- Whether a node has children. -/
def hasChild (s : State) (n : Nat) : Bool := s.regions.any (fun p => decide (p.1 ≠ 0) && decide (p.2.parent = n))
/-- Whether contexts are attached to a node. -/
def hasContext (s : State) (n : Nat) : Bool := s.contexts.any (fun y => decide (y.node = n))

/-- Whether a partner may be paired with a new context on a node (R38). -/
def partnerOk (s : State) (node : Nat) (partner : Ctx) : Bool :=
  match liveCtx s partner with
  | none => false
  | some p =>
    p.partner.isNone &&
    ((decide (effRole s node = 1) && decide (effRole s p.node = 2)) || (decide (effRole s node = 2) && decide (effRole s p.node = 1)))

/-- A new context. -/
def Context.new (ctx : Ctx) (node : Nat) (priv : Bool) (partner : Option Ctx) (l1 save status header : Nat) : Context :=
  ⟨ctx, node, priv, partner, l1, save, status, header, 1, 0, false, [], [], [], false, []⟩

/-- CREATE_CONTEXT (R37, R38, R105, R111, R355, R374). -/
def execCreateContext (ctx : Ctx) (node : BitVec 10) (priv paired : Bool) (partner : Ctx) (l1 save status header : Word)
    (s : State) : Out :=
  let n := node.toNat
  if paired && !feature s 3 then answer s 1
  else if (findCtx s ctx).isSome then answer s 14
  else if s.invalidating.contains ctx then answer s 5
  else if s.contexts.length ≥ 256 then answer s 6
  else if (findRegion s n).isNone ∨ hasChild s n then answer s 4
  else if save.toNat % 8192 ≠ 0 ∨ !isLpddr s save.toNat ∨ !isLpddr s (save.toNat + 0x17_FFFF) then answer s 3
  else if paired && !partnerOk s n partner then answer s 7
  else
    let s1 : State := if paired then
        { s with contexts := s.contexts.map (fun y => if y.id = partner then { y with partner := some ctx } else y) }
      else s
    answer { s1 with contexts := s1.contexts ++
      [Context.new ctx n priv (if paired then some partner else none) l1.toNat save.toNat status.toNat header.toNat] } 0

/-- Ends the job of a slot as ABORT does (R283, R357): at once when it stands at its stop points, else when it reaches them. -/
def abortSlot (s : State) (k : SlotId) : State :=
  let x := getSlot s k
  match x.job with
  | none => s
  | some j => if !j.started ∨ (x.atStop && !draining s j.ctx) then endJob s k else endingJob s k

/-- Slots that run jobs of a context. -/
def slotsOf (s : State) (c : Ctx) : List SlotId :=
  (List.finRange 192).filter (fun k => match (getSlot s k).job with | some j => decide (j.ctx = c) | none => false)

/-- Every job of a context ends, and its queues are emptied. -/
def abortContext (s : State) (c : Ctx) : State :=
  (slotsOf s c).foldl abortSlot { s with jobs := s.jobs.filter (fun j => decide (j.ctx ≠ c)) }

/-- What remains of a context that has no job is removed (R38, R111, R286, R333). -/
def removeContext (s : State) (c : Ctx) : State :=
  let s1 := tlbInvalidate s (.asid c)
  let s2 := (s1.lines.filter (fun l => l.ctx = c)).foldl (fun s l => dropLine (writeBack s l) l.ctx l.tile) s1
  let s3 := landAll s2 (fun w => decide (w.ctx = c))
  let s4 := { s3 with
    fills := s3.fills.filter (fun f => decide (f.ctx ≠ c))
    revoked := s3.revoked.filter (fun p => decide (p.1 ≠ c))
    ready := s3.ready.filter (fun e => decide (e.ctx ≠ c))
    counts := s3.counts.filter (fun e => decide (e.ctx ≠ c))
    texts := s3.texts.filter (fun p => decide (p.2.owner ≠ c))
    remoteReady := s3.remoteReady.filter (fun q => decide (q.ctx ≠ c))
    broken := s3.broken.filter (fun q => decide (q ≠ c.toNat + 1))
    contexts := (s3.contexts.filter (fun y => decide (y.id ≠ c))).map (fun y => if y.partner = some c then { y with partner := none } else y) }
  ((List.finRange 192).filter (fun k => (getSlot s4 k).resident = some c)).foldl evict s4

/-- DESTROY_CONTEXT (R111, R283, R374). -/
def execDestroyContext (ctx : Ctx) (s : State) : Out :=
  let i := Instr.destroyContext ctx
  match findCtx s ctx with
  | none => answer s 16
  | some y =>
    let s1 := abortContext (if y.dying then s else setCtx s { y with dying := true }) ctx
    if (slotsOf s1 ctx).isEmpty then answer (removeContext s1 ctx) 0 else .next (deferCmd s1 i)

/-! Regions. -/

/-- A control block in its 128 bytes (R32). -/
def regionOf (bs : Bytes) : Region :=
  let f (off n : Nat) : Nat := bytesVal ((bs.drop off).take n)
  ⟨f 2 2, BitVec.ofNat 8 (f 4 1), BitVec.ofNat 8 (f 5 1), BitVec.ofNat 8 (f 6 1), BitVec.ofNat 8 (f 7 1), BitVec.ofNat 32 (f 8 4),
    BitVec.ofNat 16 (f 12 2), BitVec.ofNat 16 (f 14 2), BitVec.ofNat 16 (f 16 2), BitVec.ofNat 16 (f 18 2), BitVec.ofNat 16 (f 20 2),
    BitVec.ofNat 64 (f 24 8), BitVec.ofNat 64 (f 32 8)⟩

/-- A field within its range or at its inherit code. -/
def fieldOk {w : Nat} (v : BitVec w) (lo hi : Nat) : Bool := decide (v = BitVec.allOnes w) || (decide (lo ≤ v.toNat) && decide (v.toNat ≤ hi))

/-- The field checks of R33. -/
def blockOk (bs : Bytes) (r : Region) : Bool :=
  (bs.drop 22).take 2 == [0, 0] && (bs.drop 40).all (· == 0) &&
  fieldOk r.prio 0 7 && (List.range 4).all (fun i => decide (r.flags.extractLsb' (2 * i) 2 ≠ 2)) && fieldOk r.role 0 2 &&
  fieldOk r.ovr 16 254 && (List.range 4).all (fun d => fieldOk (r.slots.extractLsb' (8 * d) 8) 0 48) &&
  fieldOk r.gran 0 256 && fieldOk r.tcq 0 128 && fieldOk r.rdyq 0 16384 && fieldOk r.bws 1 256 && fieldOk r.pls 0 256 &&
  (decide (r.trbase = BitVec.allOnes 64) || decide (r.trbase.toNat % 64 = 0)) &&
  (decide (r.trsize = BitVec.allOnes 64) || decide (r.trsize.toNat % 64 = 0))

/-- Levels below a node, itself not counted. -/
def subtreeHeight (s : State) : Nat → Nat → Nat
  | 0, _ => 0
  | fuel + 1, n =>
    ((s.regions.filter (fun p => decide (p.1 ≠ 0) && decide (p.2.parent = n))).map (fun p => subtreeHeight s fuel p.1 + 1)).foldl max 0

/-- Where a node may hang (R33): the depth stays below 8, the parent exists, is no part of the subtree, and has no contexts. -/
def parentOk (s : State) (n : Nat) (r : Region) : Bool :=
  if n = 0 then decide (r.parent = 0xFFFF)
  else
    let old := findRegion s n
    match findRegion s r.parent with
    | none => false
    | some _ =>
      let moves := match old with | some o => decide (o.parent ≠ r.parent) | none => true
      !moves ||
      (!(regionPath s r.parent).contains n && !hasContext s r.parent &&
       decide ((regionPath s r.parent).length + (if old.isSome then subtreeHeight s 8 n else 0) ≤ 7))

/-- Whether jobs of contexts in a node's subtree are queued, admitted or running. -/
def subtreeBusy (s : State) (n : Nat) : Bool :=
  (s.jobs ++ s.slots.toList.filterMap Slot.job).any (fun j => inSubtree s j.ctx n)

/-- A change that waits for the subtree to be idle (R36). -/
def quietChange (old : Option Region) (r : Region) : Bool :=
  match old with
  | none => false
  | some o =>
    decide (o.role ≠ r.role) || decide (o.flags.extractLsb' 2 6 ≠ r.flags.extractLsb' 2 6) || decide (o.parent ≠ r.parent)

/-- The trace headers after SET_REGION (R297, R298): CNT and OVF of each node that it sets TREC of, or that it lets record, and NEXT of
each that it sets TREP of; `s` is the state before (notes/assumptions/54). -/
def traceStart (s t : State) : State :=
  let ns := t.regions.map Prod.fst
  let t1 := (ns.filter (fun n => (setsFlag t n 2 && !setsFlag s n 2) || (recordsAt t n && !recordsAt s n))).foldl
    (fun t n => { deviceStore t (effTrbase t n) 0 with traceNo := tableSet t.traceNo n 0 }) t
  (ns.filter (fun n => setsFlag t n 3 && !setsFlag s n 3)).foldl (fun t n => deviceStore t (effTrbase t n + 8) 0) t1

/-- SET_REGION (R31 to R36, R297, R298, R374, R378). -/
def execSetRegion (node : BitVec 10) (block : Word) (s : State) : Out :=
  let n := node.toNat
  if !s.host.rwOnce.getLsbD 0 then answer s 4
  else match physBytes s block.toNat 128 with
    | none => answer s 4
    | some bs =>
      let r := regionOf bs
      let old := findRegion s n
      if bytesVal (bs.take 2) ≠ n ∨ !blockOk bs r ∨ !parentOk s n r then answer s 4
      else if (ownFlag r 1 == some true && !feature s 1) ||
          ((ownFlag r 2 == some true || ownFlag r 3 == some true) && !feature s 7) then answer s 1
      else if quietChange old r && subtreeBusy s n then answer s 5
      else
        let s1 := writeAll { s with regions := tableSet s.regions n r } (cellsAt (s.host.rtbase.toNat + 128 * n) bs)
        answer (traceStart s s1) 0

/-- SET_REGION with DEL (R33). -/
def execSetRegionDelete (node : BitVec 10) (s : State) : Out :=
  let n := node.toNat
  if !s.host.rwOnce.getLsbD 0 ∨ n = 0 ∨ (findRegion s n).isNone ∨ hasChild s n ∨ hasContext s n then answer s 4
  else answer { s with regions := tableDel s.regions n } 0

/-! Layouts. -/

/-- The record in its eight words. -/
def layoutOf (bs : Bytes) : Layout := Vector.ofFn (fun i : Fin 8 => wordAt bs i.val)
/-- The product over n < NDIM of Ceil(DIMn / TILEn). -/
def tileTotal (r : Layout) : Nat := ((List.range r.ndim).map r.tilesIn).foldl (· * ·) 1

/-- The field checks of R96 and R97. -/
def layoutOk (r : Layout) : Bool :=
  decide (r.base.extractLsb' 48 16 = 0) && decide (r.fmt ≤ 7) && decide (1 ≤ r.ndim) && decide (r.ndim ≤ 4) &&
  decide (r[1].extractLsb' 24 8 = 0) &&
  (List.range 4).all (fun n => decide (1 ≤ r.dim n) && decide (1 ≤ r.tile n) && (decide (n < r.ndim) || (r.dim n == 1 && r.tile n == 1))) &&
  decide (r.tileBytes ≤ 32768) && decide (tileTotal r ≤ 2 ^ 32 - 1)

/-- The record as it is stored: TCOUNT is the device's. -/
def Layout.counted (r : Layout) : Layout :=
  r.set 1 ((r[1].extractLsb' 0 32).setWidth 64 ||| BitVec.ofNat 64 (tileTotal r * 2 ^ 32))

/-- SET_LAYOUT (R96, R97, R286). -/
def execSetLayout (ctx : Ctx) (handle : BitVec 16) (record : Word) (s : State) : Out :=
  match liveCtx s ctx with
  | none => answer s 16
  | some y =>
    match physBytes s record.toNat 64 with
    | none => answer s 10
    | some bs =>
      let r := layoutOf bs
      let h := handle.toNat
      let stale : Bool := match tableGet y.layouts h with | some o => decide (r.gen ≠ (Layout.gen o + 1) % 256) | none => false
      if !layoutOk r ∨ stale then answer s 10
      else
        let gone := s.lines.filter (fun l => l.ctx = ctx ∧ l.tile.handle = h)
        let s1 := landAll s (fun w => decide (w.ctx = ctx ∧ w.tile.handle = h))
        let s2 := gone.foldl (fun s l => dropLine (writeBack s l) l.ctx l.tile) s1
        let s3 := { s2 with
          fills := s2.fills.filter (fun f => !(f.ctx = ctx ∧ f.tile.handle = h))
          ready := s2.ready.filter (fun e => !(e.ctx = ctx ∧ e.tile.handle = h ∧ e.tile.gen ≠ r.gen))
          counts := s2.counts.filter (fun e => !(e.ctx = ctx ∧ e.handle = h)) }
        answer (setCtx s3 { y with layouts := tableSet y.layouts h r.counted }) 0

/-! Pipelines. -/

/-- A stage entry (R51); none when it breaks the record's layout. -/
def stageEntry (w : Word) : Option Stage :=
  let mins := (w.extractLsb' 16 8).toNat
  let maxs := (w.extractLsb' 24 8).toNat
  if w.extractLsb' 4 4 ≠ 0 ∨ w.extractLsb' 32 32 ≠ 0 ∨ mins > maxs ∨ maxs = 0 then none
  else some ⟨(w.extractLsb' 0 4).toNat, (w.extractLsb' 8 8).toNat + 1, mins, maxs, mins⟩

/-- DECLARE_PIPELINE (R51, R52). -/
def execDeclarePipeline (ctx : Ctx) (record : Word) (s : State) : Out :=
  match liveCtx s ctx with
  | none => answer s 16
  | some y =>
    let hdr : Word := match physBytes s record.toNat 8 with | some bs => wordAt bs 0 | none => 0
    let n := (hdr.extractLsb' 0 4).toNat
    if n = 0 ∨ n > 8 ∨ hdr.extractLsb' 4 60 ≠ 0 then answer s 9
    else match (physBytes s (record.toNat + 8) (8 * n)).bind (fun bs => allOf stageEntry ((List.range n).map (wordAt bs))) with
      | none => answer s 9
      | some ps =>
        let qs := ps.map Stage.queue
        if !decide qs.Nodup ∨ qs.any (fun q => (stageOf y q).isSome || decide (queued s ctx q ≠ 0)) ∨
            (ps.map Stage.mins).sum > slotBudget s y then answer s 9
        else answer (setCtx s { y with pipes := y.pipes ++ [ps] }) 0

/-! Planks. -/

/-- A window entry (R293); none when a field is out of range or names no live context. -/
def windowEntry (s : State) (w : Word) : Option Window :=
  let c : Ctx := w.extractLsb' 0 12
  let op := w.getLsbD 12
  let allow := (w.extractLsb' 16 40).toNat
  if w.extractLsb' 13 3 ≠ 0 ∨ w.extractLsb' 56 8 ≠ 0 ∨ allow = 0 ∨ (op ∧ c ≠ 0) ∨ (!op ∧ (liveCtx s c).isNone) then none
  else some ⟨c, op, allow⟩

/-- The shares of a plank (R293): for every node, the windows of its subtree within PLS. -/
def sharesOk (s : State) (ws : List Window) : Bool :=
  let total := (ws.map Window.allow).sum
  s.regions.all (fun p =>
    decide (((ws.filter (fun w => !w.open_ && inSubtree s w.ctx p.1)).map Window.allow).sum * 256 ≤ effPls s p.1 * total))

/-- SET_PLANK (R293): a new plank replaces the old one at the next window boundary. -/
def execSetPlank (record : Word) (s : State) : Out :=
  match physBytes s record.toNat 8 with
  | none => answer s 11
  | some hb =>
    let hdr := wordAt hb 0
    let n := (hdr.extractLsb' 0 7).toNat
    let die := (hdr.extractLsb' 8 2).toNat
    let cluster : Fin 16 := ⟨(hdr.extractLsb' 8 2).toNat * 4 + (hdr.extractLsb' 10 2).toNat, by omega⟩
    if n > 64 ∨ hdr.getLsbD 7 ∨ hdr.extractLsb' 12 52 ≠ 0 ∨ !dieLive s die then answer s 11
    else match (if n = 0 then some [] else
        (physBytes s (record.toNat + 8) (8 * n)).bind (fun bs => allOf (windowEntry s) ((List.range n).map (wordAt bs)))) with
      | none => answer s 11
      | some ws =>
        if !sharesOk s ws then answer s 11
        else if s.planks.any (fun p => p.cluster = cluster) then
          answer { s with planks := s.planks.map (fun p => if p.cluster = cluster then { p with next := some ws } else p) } 0
        else if ws = [] then answer s 0
        else answer { s with planks := s.planks ++ [⟨cluster, ws, 0, s.dcc.toNat, [], 0, 0, [], none⟩] } 0

/-! Jobs. -/

/-- The writes that a job has made, while some agent may not see one: those of the slot that runs it, or behind its retirement. -/
def madeBy (s : State) (y : Issuer) : List (Nat × Nat) :=
  let x := getSlot s y.slot
  if (match x.job with | some j => decide (j.ctx = y.ctx ∧ j.seq = y.job) | none => false) then x.made
  else match findCtx s y.ctx with
    | some c => (c.edges.filter (fun e => decide (e.seq = y.job))).flatMap JobEdge.made
    | none => []

/-- Whether a write to a queue's TAIL lets the command processor go past an index. -/
def exposes (s : State) (r : Ring) (w : Write) : Bool :=
  let tail (t : Nat) : Nat := bytesVal (bytesAt s t (r.header + 24) 8) % 2 ^ 32
  decide ((r.head + 2 ^ 32 - tail w.id) % 2 ^ 32 < (tail (w.id + 1) + 2 ^ 32 - tail w.id) % 2 ^ 32)

/-- What the SUBMIT edge of the entry at HEAD orders (R127, R128, R372): the writes of the job whose release store at system scope or
wider to TAIL has let it be taken. -/
def submitEdge (s : State) : View :=
  match s.curCmd.bind (readRing s) with
  | none => []
  | some r =>
    (s.log.filter (fun w => (List.range 8).any (fun i => w.covers (r.header + 24 + i)) && (w.own == some 7 || w.own == some 10 || w.own == some 11) &&
        exposes s r w)).foldl (fun (v : View) w =>
      let known : View := (w.rels.filter (fun x => x.by_ == w.by_)).foldl (fun (v : View) x => v.join x.known.view) []
      v.join (viewOf ((madeBy s w.by_).filter (fun p => decide (p.2 < known.at p.1))))) []

/-- SUBMIT (R37, R43, R50, R374). -/
def execSubmit (ctx : Ctx) (queue : BitVec 4) (card : Word) (s : State) : Out :=
  match liveCtx s ctx with
  | none => answer s 16
  | some y =>
    match enterQueue s y queue.toNat card 0 (submitEdge s) with
    | .error (.fault _) => answer s 8
    | .error .feature => answer s 1
    | .error .full => answer s 15
    | .ok (s1, seq) => .next (finishCmd s1 0 (BitVec.ofNat 64 seq))

/-- TLB_INVALIDATE (R109, R374): it completes when the accesses in flight through what it removes have landed. -/
def tlbCommand (i : Instr) (q : TlbKind) (s : State) : Out :=
  if inFlight s q then .next (deferCmd (beginInvalidate s q) i) else answer (tlbInvalidate s q) 0
def execTlbInvalidateAll (operand : Word) (s : State) : Out := tlbCommand (.tlbInvalidateAll operand) .all s
def execTlbInvalidateAsid (operand : Word) (s : State) : Out := tlbCommand (.tlbInvalidateAsid operand) (tlbAsid operand) s
def execTlbInvalidatePage (operand : Word) (s : State) : Out := tlbCommand (.tlbInvalidatePage operand) (tlbPage operand) s

/-- A word of a slot's record. -/
def recordWord (s : State) (k : SlotId) (n : Nat) : Word := memWord s (saveAddr s k + 8 * n)

/-- The slot with the fields of its record that software may change (R357); every other field stands as the device saved it. -/
def Slot.restored (x : Slot) (w : Nat → Word) : Slot :=
  let r : Slot := { x with
    pc := w 5, wait := none
    poison := w 6 &&& ~~~1, dead := w 7 &&& ~~~1
    preds := (w 9 ++ w 8) ||| 1
    scalars := Vector.ofFn (fun i : Fin 64 => if i.val = 0 then 0 else w (32 + i.val))
    engs := Vector.ofFn (fun e : Fin 4 =>
      { x.engs[e] with cells := Vector.ofFn (fun i : Fin 16 => w (96 + 160 * e.val + 10 + i.val)) })
    spoob := (x.spoob &&& 0x7FFF_FFFF_FFFF_FFFF) ||| (w 18 &&& 0x8000_0000_0000_0000)
    tags := w 17, tagKnown := x.tagKnown.filter (fun p => (w 17).getLsbD p.1) }
  [(0x001, 10), (0x003, 12), (0x004, 13), (0x005, 14), (0x024, 15), (0x025, 16), (0x032, 19)].foldl
    (fun y p => csrStore y (BitVec.ofNat 13 p.1) (w p.2) 0) r

/-- Every held stream and every halted channel goes on: a stream at its faulting word or launch, a channel under R206. -/
def Slot.restartAll (x : Slot) : Slot :=
  { x with engs := x.engs.map (fun y => if y.held then y.restart false else y), chans := x.chans.map Channel.resume }

/-- A stopped job continues from its record (R354, R357): fields restored, V cleared, the work that faults held restarted. A job
whose admission raised the fault starts its engine streams. An uncorrectable error in the record is met as it is read (R30). -/
def resumeSlot (s : State) (k : SlotId) : State :=
  match recordError s k with
  | some a => recordFault s k a
  | none =>
    let z := ((getSlot s k).restored (recordWord s k)).restartAll
    let z1 := match z.job with
      | some j => if j.startFault.isSome then { z with engs := startEngines j.card, job := some { j with startFault := none } } else z
      | none => z
    setSlot (clearRecord s k) k { z1 with stop := none }

/-- Whether a slot's record is valid, as memory now shows it. -/
def recordValid (s : State) (k : SlotId) : Bool := (recordWord s k 0).getLsbD 0

/-- Whether a slot runs a job of a context. -/
def runsJob (s : State) (k : SlotId) (c : Ctx) : Bool := match (getSlot s k).job with | some j => decide (j.ctx = c) | none => false

/-- RESUME (R357). -/
def execResume (ctx : Ctx) (core : BitVec 7) (slot : Bool) (s : State) : Out :=
  match liveCtx s ctx, slotAt core.toNat slot with
  | none, _ => answer s 16
  | _, none => answer s 12
  | some _, some k =>
    match (getSlot s k).stop with
    | none => answer s 12
    | some st =>
      if !runsJob s k ctx ∨ st.why = .ending then answer s 12
      else if !st.written then .next (deferCmd s (.resume ctx core slot))
      else if !recordValid s k ∨ draining s ctx then answer s 12
      else answer (resumeSlot s k) 0

/-- Slots of a context that a debug halt has stopped, with their records written or not. -/
def haltedSlots (s : State) (c : Ctx) (written : Bool) : List SlotId :=
  (slotsOf s c).filter (fun k => match (getSlot s k).stop with | some st => decide (st.why = .halt) && st.written == written | none => false)

/-- RESUME with ALL: the context's halt form (R362). -/
def execResumeAll (ctx : Ctx) (s : State) : Out :=
  match liveCtx s ctx with
  | none => answer s 16
  | some y =>
    if !y.halted then answer s 0
    else if !(haltedSlots s ctx false).isEmpty then .next (deferCmd s (.resumeAll ctx))
    else
      let ks := (haltedSlots s ctx true).filter (recordValid s)
      answer (ks.foldl resumeSlot (setCtx s { y with halted := false })) 0

/-- Whether a slot's job is on its way to its end. -/
def endingAt (s : State) (k : SlotId) : Bool := match (getSlot s k).stop with | some st => decide (st.why = .ending) | none => false

/-- ABORT (R283, R357). -/
def execAbort (ctx : Ctx) (core : BitVec 7) (slot : Bool) (s : State) : Out :=
  let i := Instr.abort ctx core slot
  match findCtx s ctx, slotAt core.toNat slot with
  | none, _ => answer s 16
  | _, none => answer s 12
  | some _, some k =>
    if begun s i then (if endingAt s k then .next (deferCmd s i) else answer s 0)
    else if !runsJob s k ctx then answer s 12
    else
      let s1 := abortSlot s k
      if runsJob s1 k ctx then .next (deferCmd s1 i) else answer s1 0

/-- ABORT with ALL (R374). -/
def execAbortAll (ctx : Ctx) (s : State) : Out :=
  let i := Instr.abortAll ctx
  match findCtx s ctx with
  | none => answer s 16
  | some _ =>
    if begun s i then (if (slotsOf s ctx).any (endingAt s) then .next (deferCmd s i) else answer s 0)
    else
      let s1 := abortContext s ctx
      if (slotsOf s1 ctx).isEmpty then answer s1 0 else .next (deferCmd s1 i)

/-- RESET_PARTITION (R39, R374). -/
def execResetPartition (core : BitVec 7) (slot : Bool) (s : State) : Out :=
  match slotAt core.toNat slot with
  | none => answer s 3
  | some k =>
    if !dieLive s (dieOf k).val then answer s 3
    else if (getSlot s k).job.isSome then answer s 5
    else answer (evict s k) 0

/-- Whether the debug commands are locked (R388). -/
def debugLocked (s : State) : Bool := Config.debugLock && !s.host.unlocked

/-- HALT of the host (R362): it completes when every record is written. -/
def execHostHalt (ctx : Ctx) (s : State) : Out :=
  match liveCtx s ctx with
  | none => answer s 16
  | some _ =>
    if debugLocked s then answer s 13
    else
      let s1 := haltContext s ctx
      if (slotsOf s1 ctx).all (fun k => match (getSlot s1 k).job, (getSlot s1 k).stop with
          | some j, some st => !j.started || st.written
          | some j, none => !j.started
          | none, _ => true) then answer s1 0
      else .next (deferCmd s1 (.hostHalt ctx))

/-- Whether a stream has arrived or was never started. -/
def streamOver (x : Slot) (e : EngId) : Bool :=
  match engIndex e with
  | none => x.jend
  | some p => !(x.engs[p]).started || (x.engs[p]).arrived

/-- The stream that STEP names stands at the word to issue: a waiting word is tested again, a held stream restarts. -/
def Slot.stepFrom (x : Slot) (e : EngId) : Slot :=
  match engIndex e with
  | none => x
  | some p =>
    let y := x.engs[p]
    { x with engs := x.engs.set p.val { (if y.held then y.restart false else y) with wait := none } p.isLt }

/-- The state after an event, where it answers one. -/
def afterEvent (s : State) : Out → State
  | .next t => t
  | _ => s

/-- One word of a stopped job's stream (R363): the job runs for it, a fault of an engine word is taken by its class, and the job
stops again. What the word launches completes first. -/
def stepWord (s : State) (k : SlotId) (e : EngId) : State :=
  let y := ((getSlot s k).restored (recordWord s k)).stepFrom e
  let s1 := setSlot s k { y with stop := none }
  let s2 := if mayIssue s1 k e then issueOne s1 k e else s1
  let s3 := afterEvent s2 (execHandlerEntry k s2)
  modSlot s3 k (fun x =>
    let again : Stop := ⟨.halt, none, false, false, some (if x.checker = y.checker then 0 else x.checker), false⟩
    match x.stop with
    | none => { x with stop := some again }
    | some st => if st.why = .halt then { x with stop := some again } else x)

/-- STEP (R363, R388). -/
def execStepStream (ctx : Ctx) (core : BitVec 7) (slot : Bool) (eng : BitVec 3) (s : State) : Out :=
  let i := Instr.stepStream ctx core slot eng
  match liveCtx s ctx, slotAt core.toNat slot with
  | none, _ => answer s 16
  | _, none => answer s 12
  | some _, some k =>
    if debugLocked s then answer s 13
    else if h : eng.toNat < 5 then
      match (getSlot s k).stop with
      | none => answer s 12
      | some st =>
        if !runsJob s k ctx ∨ st.why ≠ .halt then answer s 12
        else if !st.written then .next (deferCmd s i)
        else if begun s i && st.step.isSome then .next (finishCmd s 0 0)
        else if !recordValid s k then answer s 12
        else if streamOver (getSlot s k) ⟨eng.toNat, h⟩ then .next (finishCmd s 0 2)
        else match recordError s k with
        | some a => .next (finishCmd (recordFault s k a) 0 0)
        | none =>
          let s1 := stepWord s k ⟨eng.toNat, h⟩
          let waits := (waitingWord s1 k ⟨eng.toNat, h⟩).isSome && (getSlot s1 k).await.isNone
          match (getSlot s1 k).stop with
          | some st1 =>
            if st1.step.isSome && (getSlot s1 k).atStop then
              let s2 := writeRecord s1 k true .halt false none
              .next (finishCmd (modSlot s2 k (fun x => { x with stop := some { st1 with written := true } })) 0 (if waits then 1 else 0))
            else if st1.why = .halt then .next (deferCmd s1 i)
            else .next (finishCmd s1 0 0)
          | none => .next (finishCmd s1 0 0)
    else answer s 3

end Sys2Proof.Machine
end

