-- ==== Sys2Proof/Machine/Ports.lean ====
section
/-! DEFINITION. Machine/Ports.lean: what reaches the module from outside: the W0 registers (R369, R370), W2 and AtomicOps
(R367, R368), completions of device reads (R391) and of host atomics (R108), tail writes (R372), T1 frames (R379), time (R380),
start and recovery (R381 to R385), supply (R364, R365), links (R377), attestation and debug unlock (R387, R388), alarms (R389,
R390), and the visibility of writes (R125). -/

namespace Sys2Proof.Machine

/-! Starts. -/

/-- The module with every structure that a start clears at its reset value (R381, R382); memory stands as given. -/
def cleared (s : State) (mem : Memory) (poison : List Nat) (host : HostRegs) : State :=
  { State.reset with
    agenda := s.agenda, fresh := s.fresh, cur := s.cur, t1Out := s.t1Out
    mem := mem, poison := poison, host := host }

/-- A cold start begins: no device memory content survives, and FAILS, the alarm fuse, the key store and the boot flash do (R381,
R383). -/
def beginCold (s : State) : State :=
  cleared s (s.mem.filter (fun p => decide (hostBase ≤ p.1))) (s.poison.filter (fun a => decide (hostBase ≤ a)))
    { HostRegs.reset with fails := s.host.fails, alatch := s.host.alatch, keysZero := s.host.keysZero, flash := s.host.flash,
                          active := s.host.active }

/-- A warm start begins: LPDDR-6 and the key store survive, region node 0 and the links that are up too; the counters that reset at a
cold start stand (R369, R382; notes/assumptions/76), and no entry of the fault queue is lost (R376). -/
def beginWarm (s : State) : State :=
  let h := s.host
  let s1 := cleared s s.mem s.poison
    { HostRegs.reset with fails := h.fails, alatch := h.alatch, keysZero := h.keysZero, warm := true, stretch := h.stretch,
                          pauses := h.pauses, alarm := h.alarm, alarms := h.alarms, flash := h.flash, active := h.active,
                          linkUp := h.linkUp, retrains := h.retrains, msix := h.msix }
  { s1 with regions := [(0, (findRegion s 0).getD Region.root)], fqWait := s.fqWait }

/-- Recovery mode (R383): nothing of the module runs, and nothing is offered. -/
def enterRecovery (s : State) : State :=
  cleared s s.mem s.poison { s.host with mode := 3, starting := false, retry := false, features := 0, foffer0 := 0, faccept0 := 0, faccept1 := 0,
                                         rtbase := 0, pqbase := 0, fqbase := 0, fqsize := 0, rwOnce := 0, fqhead := 0, fqtail := 0 }

/-- A start fails at its step (R381, R383). -/
def failStart (s : State) : State :=
  let f : BitVec 8 := if s.host.fails = 255 then 255 else s.host.fails + 1
  let s1 := { s with host := { s.host with fails := f } }
  if f.toNat ≥ 3 then enterRecovery s1 else { s1 with host := { s1.host with retry := true } }

/-! The firmware image (R384; notes/assumptions/77): a 64-byte header with the version, the length and the SHA-384 of the body, the
ECDSA key and signature, the LMS key and signature, then the body. -/

def imageHeader (bs : Bytes) : Bytes := bs.take 64
/-- A field of an image: n bytes from an offset on. -/
def imageField (bs : Bytes) (off n : Nat) : Bytes := (bs.drop off).take n
/-- The digest that an image's header gives. -/
def imageDigest (bs : Bytes) : BitVec 384 := BitVec.ofNat 384 (bytesVal (imageField bs 16 48))

/-- The first check of R384 that an image fails, from 1 on; 0 when it verifies. -/
def imageCheck (bs : Bytes) : Nat :=
  let hdr := imageHeader bs
  let ecKey := imageField bs 64 96
  let lmsKey := imageField bs 256 56
  if Config.sha384 ecKey ≠ Config.keyFuse false then 1
  else if Config.sha384 lmsKey ≠ Config.keyFuse true then 2
  else if !Config.ecdsaOk ecKey (imageField bs 160 96) hdr then 3
  else if !Config.lmsOk lmsKey (imageField bs 312 2668) hdr then 4
  else if Config.sha384 (imageField bs 2980 (wordAt hdr 1).toNat) ≠ imageDigest bs then 5
  else if (wordAt hdr 0).toNat < Config.minVersion then 6
  else 0

/-- The image of a slot of the boot flash (R383). -/
def flashImage (h : HostRegs) (slot : Bool) : Bytes :=
  (if slot then h.flash.2 else h.flash.1).getD (Config.factoryImage slot)

/-- Whether the current start step fails (R381): as the report says, or by the check of the firmware. A warm start runs no BIST (R382). -/
def stepFails (h : HostRegs) (r : StartReport) : Bool :=
  (decide (r.failStep = some h.step.toNat) && decide (h.step.toNat ≠ 7) && !(h.warm && decide (h.step = 4))) ||
  (decide (h.step = 2) && decide (imageCheck (flashImage h h.active) ≠ 0))

/-- What is offered (R378, R390): bit 0 with the second package, bit 6 unless the keys have been zeroed. -/
def offerWord (secondPackage keysZero : Bool) : Word := 0xBE ||| b2w secondPackage ||| (if keysZero then 0 else 0x40)

/-- One start step, up to the feature offer (R381 to R384, R388): with the alarm fuse latched the start ends in recovery mode. -/
def startStep (s : State) (r : StartReport) : State :=
  let h := s.host
  if stepFails h r then failStart s
  else
    let h1 : HostRegs := { h with step := h.step + 1 }
    match h.step.toNat with
    | 2 => { s with host := { h1 with meas := Config.sha384 (imageHeader (flashImage h h.active)), etype := r.etype } }
    | 6 => { s with host := { h1 with
        linkUp := h.linkUp ||| (if r.secondPackage then 7 else 1), foffer0 := offerWord r.secondPackage h.keysZero } }
    | 7 => { s with dcc := 0, host := h1 }
    | 8 =>
      let h2 : HostRegs := { h1 with starting := false, challenge := r.challenge }
      if h.alatch then enterRecovery { s with host := h2 } else { s with host := { h2 with mode := 1, fails := 0 } }
    | _ => { s with host := h1 }

/-- A start runs on until it ends or fails. -/
def runStart (r : StartReport) : Nat → State → State
  | 0, s => s
  | fuel + 1, s => if s.host.starting && !s.host.retry then runStart r fuel (startStep s r) else s

/-- COLD_START (R381): the start that has begun runs its steps up to the feature offer. -/
def execColdStart (report : StartReport) (s : State) : Out := .next (runStart report 8 s)

/-- PERST# (R382, R385): a warm start, with its first step; during a start it is ignored. -/
def execPerst (report : StartReport) (s : State) : Out :=
  if s.host.starting then .next s else .next (startStep (beginWarm s) report)

/-- The requests of the host, which a supply pause holds (R365). -/
def isHostRequest : Instr → Bool
  | .w0Write _ _ => true
  | .hostW2 _ _ _ _ => true
  | .hostAtomicOp _ _ _ _ _ => true
  | .queueTailWrite _ _ => true
  | .ctrlRst => true
  | .ctrlGo => true
  | .attgo => true
  | .dbgResp _ _ => true
  | .fwgo => true
  | _ => false

/-- Whether a link holds up an access of the host to memory: one to another die crosses the chain (R18, R377). -/
def linkHolds (s : State) (a : Nat) : Bool :=
  !s.host.starting && decide (s.host.mode ≠ 3) && isLpddr s a && !reaches s 0 (homeOf a)

/-- Whether a request of the host reaches its die (R377). -/
def hostReach (s : State) : Instr → Bool
  | .hostW2 _ addr _ _ => !linkHolds s addr.toNat
  | .hostAtomicOp _ _ addr _ _ => !linkHolds s addr.toNat
  | .queueTailWrite queue _ => (readRing s queue.toNat).all (fun r => reaches s 0 (homeOf r.header))
  | _ => true

/-- A request is held: one that arrives during a supply pause until the supply recovers (R365), one that a link holds up until the link
has retrained (R377). -/
def holdRequest (s : State) (i : Instr) : State := { s with held := s.held ++ [i] }

/-- What a request of the host does: nothing while the supply is paused (R365). -/
def hostRequest (s done : State) : Out := .next (if s.paused then s else done)

/-- RST requests a warm start, which a start in progress ignores (R382, R385). -/
def requestWarm (s : State) : State := if s.host.starting then s else beginWarm s

/-- CTRL.RST (R382, R385): a warm start begins. -/
def execCtrlRst (s : State) : Out := hostRequest s (requestWarm s)

/-- START_TIMEOUT (R381). -/
def execStartTimeout (s : State) : Out :=
  if s.host.starting && !s.host.retry then .next (failStart s) else .next s

/-- START_RETRY (R383): a new cold start. -/
def execStartRetry (report : StartReport) (s : State) : Out :=
  if s.host.retry then .next (startStep (beginCold s) report) else .next s

/-- GO latches the accepted set (R378). -/
def latchGo (s : State) : State :=
  let h := s.host
  if h.mode = 1 then { s with host := { h with features := h.faccept0 &&& h.foffer0, mode := 2, step := 10 } } else s

/-- CTRL.GO (R378). -/
def execCtrlGo (s : State) : Out := hostRequest s (latchGo s)

/-! Alarms, attestation, debug unlock and recovery (R383, R384, R387 to R390). -/

/-- An alarm under the log policy: it is recorded, and MSI-X vector 2 raised. -/
def logAlarm (s : State) (src : BitVec 8) : State :=
  let s1 := raiseErr s 4
  { s1 with host := { s1.host with alarm := src, alarms := s1.host.alarms + 1 } }

/-- Posts entries while the ring has room. -/
def postAll : Nat → State → State
  | 0, s => s
  | n + 1, s => match execFaultQueuePost s with
    | .next t => postAll n t
    | _ => s

/-- What the fused policy makes of an alarm (R390): log; reset, where every job ends with 0x17 and the entries are posted, and a warm
start is requested after the moves of this cycle, or a start fails; erase, where the keys are zeroed, the fuse latched and recovery mode
entered. -/
def raiseAlarm (s : State) (src : BitVec 8) : State :=
  match Config.alarmPolicy with
  | 0 => logAlarm s src
  | 1 =>
    let s1 := logAlarm s src
    if s1.host.starting then (if s1.host.retry then s1 else failStart s1)
    else
      let s2 := (List.finRange 192).foldl (fun t k =>
        if (getSlot t k).job.isSome then endFatal t k ⟨0x17, src.setWidth 64, 0, (getSlot t k).pc, 0, none, none⟩ else t) s1
      let s3 := postAll s2.fqWait.length s2
      { s3 with agenda := s3.agenda ++ [.event .ctrlRst] }
  | _ => enterRecovery { s with host := { s.host with keysZero := true, alatch := true, asig := 0 } }

/-- ALARM (R389, R390): sources 1 to 4 arise of themselves; 5 and 6 are the failures that DBGRESP and FWGO count. What a warm start finds
comes with its own steps. -/
def execAlarm (source : BitVec 8) (_report : StartReport) (s : State) : Out :=
  if 1 ≤ source.toNat ∧ source.toNat ≤ 4 then .next (raiseAlarm s source) else .next s

/-- A quote (R387): it covers MEAS, the nonce and the accepted feature words. -/
def quoteNow (s : State) : State :=
  let h := s.host
  { s with host := { h with asig := if h.keysZero then 0 else Config.quote h.meas h.anonce h.features 0 } }

/-- ATTGO (R387). -/
def execAttgo (s : State) : Out := hostRequest s (quoteNow s)

/-- An attempt to unlock (R388, R389): a success unlocks; the fifth consecutive failure is alarm source 5. Each draws a challenge. -/
def unlockTry (s : State) (response : BitVec 768) (challenge : BitVec 384) : State :=
  let h := s.host
  if Config.debugSigned h.challenge response then
    { s with host := { h with unlocked := true, badResponses := 0, challenge := challenge, response := response } }
  else
    let s1 := { s with host := { h with badResponses := h.badResponses + 1, challenge := challenge, response := response } }
    if h.badResponses + 1 = 5 then raiseAlarm s1 5 else s1

/-- DBGRESP (R388, R389). -/
def execDbgResp (response : BitVec 768) (challenge : BitVec 384) (s : State) : Out := hostRequest s (unlockTry s response challenge)

/-- The size of the staging buffer of recovery mode (R383). -/
def stagingSize : Nat := 4 * 1024 * 1024

/-- The image that the staging buffer holds: FWLEN bytes of it. -/
def stagedImage (h : HostRegs) : Bytes := cellsGet h.staging 0 (min h.fwlen.toNat stagingSize)

/-- An update of the firmware in recovery mode (R383, R384, R389): an image that verifies goes to the inactive slot, which becomes the
active one, and a cold start begins; the third that does not is alarm source 6. -/
def updateFirmware (s : State) : State :=
  let h := s.host
  let img := stagedImage h
  let n := imageCheck img
  if h.mode ≠ 3 then s
  else if n = 0 then
    beginCold { s with host := { h with
      fails := 0, flash := if h.active then (some img, h.flash.2) else (h.flash.1, some img), active := !h.active } }
  else
    let s1 := { s with host := { h with fwstat := Config.checkCode n, badImages := h.badImages + 1 } }
    if h.badImages + 1 = 3 then raiseAlarm s1 6 else s1

/-- FWGO (R383). -/
def execFwgo (s : State) : Out := hostRequest s (updateFirmware s)

/-! W0 registers (R369, R370). -/

/-- A 64-bit word of a wide register. -/
def wordOfWide {w : Nat} (v : BitVec w) (n : Nat) : Word := v.extractLsb' (64 * n) 64

/-- A W0 register as the host reads it; every offset not listed, and every write-only one, reads zero. -/
def w0Read (s : State) (off : Nat) : Word :=
  let h := s.host
  let link (i : Nat) : Word := b2w (h.linkUp.getLsbD i) ||| fieldAt (h.retrains.toList.getD i 0) 8
  if off = 0 then 0x0000_0000_C440_0002
  else if off = 0x08 then b2w h.warm <<< 25 ||| b2w h.alatch <<< 24 ||| fieldAt h.fails 16 ||| fieldAt h.step 8 ||| h.mode.setWidth 64
  else if off = 0x18 then h.foffer0
  else if off = 0x28 then h.faccept0
  else if off = 0x30 then h.faccept1
  else if off = 0x40 then h.rtbase
  else if off = 0x48 then h.pqbase
  else if off = 0x60 then h.fqbase
  else if off = 0x68 then h.fqsize
  else if off = 0x70 then h.fqhead
  else if off = 0x78 then h.fqtail
  else if off = 0x80 then h.stretch
  else if off = 0x88 then h.pauses
  else if off = 0x90 then h.err.setWidth 64
  else if off = 0x98 then h.alarm.setWidth 64 ||| fieldAt h.alarms 32
  else if off = 0xA0 then link 0
  else if off = 0xA8 then link 1
  else if off = 0xB0 then link 2
  else if off = 0xC0 then b2w h.tsync ||| b2w h.tport <<< 1 ||| fieldAt h.tcorr 32
  else if 0x100 ≤ off ∧ off < 0x130 ∧ off % 8 = 0 then wordOfWide h.meas ((off - 0x100) / 8)
  else if 0x180 ≤ off ∧ off < 0x1E0 ∧ off % 8 = 0 then (if h.keysZero then 0 else wordOfWide h.asig ((off - 0x180) / 8))
  else if 0x200 ≤ off ∧ off < 0x230 ∧ off % 8 = 0 then wordOfWide h.challenge ((off - 0x200) / 8)
  else if off = 0x300 then h.etype.setWidth 64
  else if off = 0x510 then h.fwstat
  else 0

/-- A register that takes one write after MODE becomes 2 (R370). -/
def writeOnce (h : HostRegs) (bit : Nat) (set : HostRegs → HostRegs) : HostRegs :=
  if h.mode = 2 ∧ !h.rwOnce.getLsbD bit then { set h with rwOnce := setBit h.rwOnce bit true } else h

/-- A word of a wide register replaced. -/
def setWide {w : Nat} (v : BitVec w) (n : Nat) (x : Word) : BitVec w :=
  (v &&& ~~~((0xFFFF_FFFF_FFFF_FFFF : BitVec w) <<< (64 * n))) ||| x.setWidth w <<< (64 * n)

/-- What a write to CTRL asks for (R369): GO, then RST. -/
def writeCtrl (s : State) (value : Word) : State :=
  let s1 := if value.getLsbD 0 then latchGo s else s
  if value.getLsbD 1 then requestWarm s1 else s1

/-- A word of DBGRESP is written (R369, R388): with the last one the response is there, and is tried. -/
def writeResponse (s : State) (n : Nat) (value : Word) : State :=
  let r := setWide s.host.response n value
  if n = 11 then unlockTry { s with fresh := s.fresh + 1 } r (BitVec.ofNat 384 (Config.freeNat s.fresh))
  else { s with host := { s.host with response := r } }

/-- The registers after a write to one that does nothing else (R369, R370): an ignored write has no effect. -/
def regWrite (h : HostRegs) (o : Nat) (value : Word) : HostRegs :=
    if o = 0x28 then (if h.mode = 1 then { h with faccept0 := value } else h)
    else if o = 0x30 then (if h.mode = 1 then { h with faccept1 := value } else h)
    else if o = 0x40 then writeOnce h 0 (fun h => { h with rtbase := value })
    else if o = 0x48 then writeOnce h 1 (fun h => { h with pqbase := value })
    else if o = 0x60 then writeOnce h 2 (fun h => { h with fqbase := value })
    else if o = 0x68 then writeOnce h 3 (fun h => { h with fqsize := value })
    else if o = 0x70 then { h with fqhead := value }
    else if o = 0x90 then { h with err := h.err &&& ~~~(value.extractLsb' 0 5) }
    else if 0x140 ≤ o ∧ o < 0x170 ∧ o % 8 = 0 then
      { h with anonce := setWide h.anonce ((o - 0x140) / 8) value }
    else if o = 0x500 then { h with fwlen := value }
    else h

/-- W0_REGISTER_WRITE (R369, R370): the registers whose write starts something do so here too. -/
def execW0Write (off : BitVec 16) (value : Word) (s : State) : Out :=
  let o := off.toNat
  hostRequest s
    (if o = 0x10 then writeCtrl s value
    else if o = 0x170 then (if value = 1 then quoteNow s else s)
    else if 0x240 ≤ o ∧ o < 0x2A0 ∧ o % 8 = 0 then writeResponse s ((o - 0x240) / 8) value
    else if o = 0x508 then (if value = 1 then updateFirmware s else s)
    else { s with host := regWrite s.host o value })

/-! W2 (R367, R368). -/

/-- What the last completion to the host carries. -/
def toHost (s : State) (bs : Bytes) : State := { s with host := { s.host with w2Data := bs } }

/-- An access through W2 that reaches nothing: a read of all ones, and ERR.W2 (R368). -/
def refuseW2 (s : State) (read : Bool) (n : Nat) : State :=
  let s1 := raiseErr s 1
  if read then toHost s1 (List.replicate n 0xFF) else s1

/-- HOST_W2_ACCESS (R126, R367, R368, R383): a read leaves its data in w2Data. A DESIGN CHOICE (notes/assumptions/38): the bytes under
poison are read as they stand, since the spec gives the host port no fault 0x13 (R30). -/
def execHostW2 (write : Bool) (addr : BitVec 38) (n : Nat) (data : Bytes) (s : State) : Out :=
  let a := addr.toNat
  let h := s.host
  hostRequest s
    (if n = 0 ∨ linkHolds s a then s
    else if h.mode = 3 then
      if a + n > stagingSize then refuseW2 s (!write) n
      else if write then { s with host := { h with staging := cellsSet h.staging (cellsAt a (data.take n)) } }
      else toHost s (cellsGet h.staging a n)
    else if !isLpddr s a ∨ !isLpddr s (a + n - 1) then refuseW2 s (!write) n
    else if write then writeAll s (cellsAt a (data.take n))
    else toHost s (readBytes s a n))

/-- The new value of an AtomicOp. -/
def pcieResult (op : PcieOp) (bits old operand compare : Nat) : Nat :=
  match op with
  | .fetchAdd => (old + operand) % 2 ^ bits
  | .swap => operand % 2 ^ bits
  | .cas => if old = compare % 2 ^ bits then operand % 2 ^ bits else old
  | .cas128 => old

/-- HOST_ATOMICOP (R367, R368, R383): the port completes it with the old value; a 128-bit CAS receives Unsupported Request, with no
data. -/
def execHostAtomicOp (op : PcieOp) (wide : Bool) (addr : BitVec 38) (operand compare : Word) (s : State) : Out :=
  let a := addr.toNat
  let n := if wide then 8 else 4
  let h := s.host
  let new (old : Bytes) : Bytes := natBytes n (pcieResult op (8 * n) (bytesVal old) operand.toNat compare.toNat)
  hostRequest s
    (if linkHolds s a then s
    else if op = .cas128 then toHost s []
    else if a % n ≠ 0 then s
    else if h.mode = 3 then
      if a + n > stagingSize then refuseW2 s true n
      else
        let old := cellsGet h.staging a n
        toHost { s with host := { h with staging := cellsSet h.staging (cellsAt a (new old)) } } old
    else if !isLpddr s a then refuseW2 s true n
    else if (poisonedIn s a n).isSome then s
    else toHost (writeAll s (cellsAt a (new (readBytes s a n)))) (readBytes s a n))

/-! Completions of the device's own requests. -/

/-- The first slot that a test admits. -/
def firstSlot (s : State) (p : Slot → Bool) : Option SlotId := (List.finRange 192).find? (fun k => p (getSlot s k))

/-- The word of a slot that the host has answered goes on, with the bytes or none. -/
def answerHost (s : State) (k : SlotId) (pa : Nat) (bs : Option Bytes) : State :=
  let s1 := modSlot s k (fun x => { x with await := none, reply := some (.bytes pa bs) })
  match (getSlot s1 k).wait with
  | some i => runAs s1 k 0 i
  | none => s1

/-- The first slot whose load waits for n bytes of host memory at an address; with no n, for any. -/
def readerOf (s : State) (pa : Nat) (n : Option Nat) : Option SlotId :=
  firstSlot s (fun x => match x.await with | some (.hostRead _ a m) => decide (a = pa) && n.all (· == m) | _ => false)

/-- HOST_READ_COMPLETION (R391): the load that waits for these bytes takes them, and they stand as what host memory holds there; a
completion with another status answers the load that waits there with poison, and no other read. -/
def execHostReadCompletion (pa : Nat) (success : Bool) (data : Bytes) (s : State) : Out :=
  if !isHost pa ∨ pa + data.length > 2 ^ 44 then .next s
  else
    let s1 := if success then writeAll s (cellsAt pa data) else s
    match readerOf s1 pa (if success then some data.length else none) with
    | some k => .next (answerHost s1 k pa (if success then some data else none))
    | none => .next s1

/-- COMPLETION_TIMEOUT (R391): the load that waits for n bytes at the address receives poison. -/
def execCompletionTimeout (pa n : Nat) (s : State) : Out :=
  match readerOf s pa (some n) with
  | some k => .next (answerHost s k pa none)
  | none => .next s

/-- HOST_ATOMICOP_COMPLETION (R108): the first host atomic completes with the old value, or with the atomic-placement fault. -/
def execHostAtomicOpCompletion (success : Bool) (old : Word) (s : State) : Out :=
  match (List.finRange 192).findSome? (fun k => match (getSlot s k).await with | some (.hostAtomic _ pa n) => some (k, pa, n) | _ => none) with
  | none => .next s
  | some (k, pa, n) => .next (answerHost s k pa (if success then some ((toBytes 8 old).take n) else none))

/-! Command queues. -/

/-- A queue whose TAIL stands too far from HEAD is broken, and ERR.QBROKEN shows it (R372). -/
def checkTail (s : State) (q : Nat) (r : Ring) : State :=
  if r.count > r.size then raiseErr { s with broken := setAdd s.broken q } 2
  else { s with broken := s.broken.filter (fun b => decide (b ≠ q)) }

/-- QUEUE_TAIL_WRITE (R126, R372): the tail register takes the value; the command processor takes the entries as its moves. -/
def execQueueTailWrite (queue : BitVec 13) (tail : Word) (s : State) : Out :=
  let q := queue.toNat
  hostRequest s
    (match readRing s q with
    | none => s
    | some r =>
      if !reaches s 0 (homeOf r.header) then s
      else checkTail (deviceStore s (r.header + 24) tail) q { r with tail := tail.toNat % 2 ^ 32 })

/-- A command as its entry gives it (R371, R373, R374), or the status of one that is refused; bits [63:8] of its first word are ignored
(R9). -/
def decodeCommand (q : Nat) (w : Nat → Word) : Except Nat Instr :=
  let op := (w 0).extractLsb' 0 8
  let a0 := w 2
  let a1 := w 3
  let ctx : Ctx := a0.extractLsb' 0 12
  let core : BitVec 7 := a0.extractLsb' 16 7
  let slot := a0.getLsbD 23
  let all := a0.getLsbD 24
  -- A0 within its mask, and the operands from the n-th on zero
  let fits (mask : Word) (n : Nat) : Bool := decide (a0 &&& ~~~mask = 0) && (List.range 6).all (fun i => decide (i < n) || decide (w (2 + i) = 0))
  let want (ok : Bool) (i : Instr) : Except Nat Instr := if ok then .ok i else .error 3
  if op.toNat = 0 ∨ op.toNat > 0x0D then .error 3
  else if q ≠ 0 ∧ op.toNat ≠ 7 then .error 2
  else match op.toNat with
    | 0x01 => want (fits 0x0FFF_0003_03FF_0FFF 5)
        (.createContext ctx (a0.extractLsb' 16 10) (a0.getLsbD 32) (a0.getLsbD 33) (a0.extractLsb' 48 12) a1 (w 4) (w 5) (w 6))
    | 0x02 => want (fits 0xFFF 1) (.destroyContext ctx)
    | 0x03 => want (fits 0x1_03FF 2)
        (if a0.getLsbD 16 then .setRegionDelete (a0.extractLsb' 0 10) else .setRegion (a0.extractLsb' 0 10) a1)
    | 0x04 => want (fits 0xFFFF_0FFF 2) (.setLayout ctx (a0.extractLsb' 16 16) a1)
    | 0x05 => want (fits 0xFFF 2) (.declarePipeline ctx a1)
    | 0x06 => want (fits 0 2) (.setPlank a1)
    | 0x07 => want (fits (if q = 0 then 0x0FFF_000F else 0xF) 2)
        (.submit (if q = 0 then a0.extractLsb' 16 12 else BitVec.ofNat 12 (q - 1)) (a0.extractLsb' 0 4) a1)
    | 0x08 =>
      (match a0.toNat with
        | 0 => want (fits 3 2) (.tlbInvalidateAll a1)
        | 1 => want (fits 3 2) (.tlbInvalidateAsid a1)
        | 2 => want (fits 3 2) (.tlbInvalidatePage a1)
        | _ => .error 3)
    | 0x09 => want (fits 0x1FF_0FFF 1) (if all then .resumeAll ctx else .resume ctx core slot)
    | 0x0A => want (fits 0x1FF_0FFF 1) (if all then .abortAll ctx else .abort ctx core slot)
    | 0x0B => want (fits 0xFF_0000 1) (.resetPartition core slot)
    | 0x0C => want (fits 0xFFF 1) (.hostHalt ctx)
    | _ => want (fits 0x70FF_0FFF 1) (.stepStream ctx core slot (a0.extractLsb' 28 3))

/-- How the command processor takes a queue: a command to execute, or the state when there is none. -/
inductive Taken where
  | run (s : State) (i : Instr)
  | done (s : State)

/-- The command processor takes the entry at a queue's HEAD (R372); a command that has begun goes on first. A DESIGN CHOICE
(notes/assumptions/38): the bytes of a poisoned header or entry are taken as they stand, since the spec gives the command processor no
fault (R30). -/
def takeCommand (s : State) (q : Nat) : Taken :=
  if s.host.mode ≠ 2 ∨ s.paused then .done s
  else match readRing s q with
    | none => .done s
    | some r =>
      let s1 := if r.count > r.size ∧ s.broken.contains q then s else checkTail s q r
      if r.count = 0 ∨ r.count > r.size then .done s1
      else
        let s2 := { s1 with curCmd := some q }
        match (if q = 0 then s2.cmdWait else none) with
        | some i => .run s2 i
        | none =>
          match decodeCommand q (fun n => readWord s2 (r.entry r.head + 8 * n)) with
          | .ok i => .run s2 i
          | .error e => .done (finishCmd s2 e 0)

/-! T1 (R379). -/

/-- T1_FRAME (R365, R379): an entry is eight words; the frame's commands join their queue, or are answered at once. A frame that MACsec
does not pass is dropped and counted; one of another EtherType is none of the device's. -/
def execT1Frame (port : Bool) (etype : Option (BitVec 16)) (queue : BitVec 16) (seq : BitVec 32) (entries : List CmdEntry) (s : State) : Out :=
  let p : Fin 2 := if port then 1 else 0
  let n := entries.length
  let q := queue.toNat
  let late : Bool := ((s.t1Seq[p]).map (fun l : BitVec 32 => decide (seq.toNat ≤ l.toNat))).getD false
  if s.paused || decide (s.host.mode ≠ 2) || !feature s 6 then .next s
  else if etype.isNone then .next { s with t1Drops := s.t1Drops.set p.val (s.t1Drops[p] + 1) p.isLt }
  else if decide (etype ≠ some s.host.etype) || decide (n = 0) || decide (n > 20) || late then .next s
  else
    let s1 := { s with t1Seq := s.t1Seq.set p.val (some seq) p.isLt }
    let say (code : Nat) : Out :=
      .next { s1 with t1Frames := s1.t1Frames ++ [⟨port, seq, q, 0, n, some (List.replicate n (statusOf code 0))⟩] }
    if q = 0 ∧ !Config.t1Privilege then say 2
    else match readRing s1 q with
      | none => say 16
      | some r =>
        if r.count + n > r.size then say 15
        else
          let cells := (entries.zipIdx).flatMap (fun e =>
            cellsAt (r.entry (r.tail + e.2)) ((List.range 8).flatMap (fun i => toBytes 8 (e.1.getD i 0))))
          let s2 := deviceStore (writeAll s1 cells) (r.header + 24) (BitVec.ofNat 64 ((r.tail + n) % 2 ^ 32))
          .next { s2 with t1Frames := s2.t1Frames ++ [⟨port, seq, q, r.tail, n, none⟩] }

/-- The STATUS words of a frame whose commands have all completed. -/
def frameStatus (s : State) (f : T1Frame) : Option (List Word) :=
  match f.now with
  | some ws => some ws
  | none =>
    match readRing s f.queue with
    | none => some (List.replicate f.count (statusOf 16 0))
    | some r =>
      let past := (r.head + 2 ^ 32 - f.first) % 2 ^ 32
      if f.count ≤ past ∧ past < 2 ^ 31 then some ((List.range f.count).map (fun i => readWord s (r.entry (f.first + i) + 8))) else none

/-- T1_REPLY (R379): the first frame of a port whose commands have all completed is answered. -/
def execT1Reply (port : Bool) (s : State) : Out :=
  match s.t1Frames.zipIdx.findSome? (fun f => if f.1.port == port then (frameStatus s f.1).map (fun ws => (f.1, f.2, ws)) else none) with
  | none => .next s
  | some (f, i, ws) => .next { s with t1Frames := s.t1Frames.eraseIdx i, t1Out := s.t1Out ++ [(port, f.seq, ws)] }

/-! Time (R380). -/

/-- PTP_SYNC (R380): TIME steps forward at once; a backward correction is left to be absorbed. -/
def execPtpSync (port : Bool) (ns : Word) (s : State) : Out :=
  let h := { s.host with tsync := true, tport := port, tcorr := (ns - s.time).setWidth 32 }
  if s.time.toNat ≤ ns.toNat then .next { s with host := h, time := ns, slew := 0 }
  else .next { s with host := h, slew := s.time.toNat - ns.toNat }

/-! Supply (R364, R365). -/

/-- CLOCK_STRETCH (R364). -/
def execClockStretch (edges : Nat) (s : State) : Out :=
  .next { s with host := { s.host with stretch := s.host.stretch + BitVec.ofNat 64 edges } }

/-- SUPPLY_PAUSE (R365, R381): every job stops, or a start in progress fails. -/
def execSupplyPause (s : State) : Out :=
  if s.host.starting then .next (if s.host.retry then s else failStart s)
  else if s.paused then .next s
  else .next { s with
    paused := true
    host := { s.host with pauses := s.host.pauses + 1 }
    slots := s.slots.map (fun x =>
      match x.job, x.stop with
      | some j, none => if j.started then { x with stop := some ⟨.pause, none, false, false, none, false⟩ } else x
      | _, _ => x) }

/-- A job that a supply pause stopped goes on. -/
def unpauseSlot (s : State) (k : SlotId) : State :=
  match (getSlot s k).stop with
  | some st =>
    if st.why = .pause then (if st.written then resumeSlot s k else modSlot s k (fun x => { x with stop := none })) else s
  | none => s

/-- SUPPLY_RECOVER (R365): the jobs that the pause stopped go on, and the requests that were held are served. -/
def execSupplyRecover (s : State) : Out :=
  if s.paused then
    .next { (List.finRange 192).foldl unpauseSlot s with paused := false, held := [], agenda := s.held.map Move.event ++ s.agenda }
  else .next s

/-- PAUSE_TIMEOUT (R365, R381): a pause longer than 10 ms becomes a cold start. -/
def execPauseTimeout (report : StartReport) (s : State) : Out :=
  if s.paused then .next (startStep (beginCold s) report) else .next s

/-! Links (R29, R377). -/

/-- LINK_CRC_RETRY (R29): a retried flit has no effect but latency. -/
def execLinkCrcRetry (link : Fin 3) (s : State) : Out := match link with | _ => .next s

/-- LINK_TRAINING_LOST (R377). -/
def execLinkTrainingLost (link : Fin 3) (s : State) : Out :=
  .next { s with host := { s.host with linkUp := setBit s.host.linkUp link.val false } }

/-- LINK_RETRAINED (R377): the retrain count saturates, and what waited goes on. -/
def execLinkRetrained (link : Fin 3) (s : State) : Out :=
  let h := s.host
  if h.linkUp.getLsbD link.val then .next s
  else
    let n := h.retrains[link]
    .next { s with
      host := { h with linkUp := setBit h.linkUp link.val true,
                       retrains := h.retrains.set link.val (if n = 255 then 255 else n + 1) link.isLt }
      held := if s.paused then s.held else []
      agenda := if s.paused then s.agenda else s.held.map Move.event ++ s.agenda }

/-- Whether a link takes part: the second package's and the one to it only with that package (R19, R377). -/
def linkUsed (s : State) (link : Fin 3) : Bool :=
  decide (link = 0) || (if s.host.mode = 2 then feature s 0 else s.host.foffer0.getLsbD 0)

/-- LINK_RETRAIN_TIMEOUT (R377, R382): ERR.LINK and a warm start, after which it shows (notes/assumptions/76). -/
def execLinkRetrainTimeout (link : Fin 3) (report : StartReport) (s : State) : Out :=
  if s.host.linkUp.getLsbD link.val ∨ s.host.starting ∨ !linkUsed s link then .next s
  else .next (startStep (raiseErr (beginWarm s) 8) report)

/-! Visibility. -/

/-- The writes that a die has not applied. -/
def unapplied (s : State) (d : Die) : List Write := s.log.filter (fun w => !w.dies.contains d)

/-- REMOTE_WRITE_APPLY (R17, R125, R377): every agent of a die sees a write from then on, once it sees those that happen before it. -/
def execRemoteWriteApply (die : Die) (index : Nat) (s : State) : Out :=
  match (unapplied s die)[index]? with
  | none => .next s
  | some w => if mayApply s die w && reaches s (dieOf w.by_.slot) die then .next (applyWrite s die w.id) else .next s

end Sys2Proof.Machine
end

