-- ==== Sys2Proof/Machine/Clock.lean ====
section
/-! DEFINITION. Machine/Clock.lean: a cycle of the module when no move is left: the start controller goes on, DCC, TIME and the
watchdogs count (R220, R295, R380), each core's issue scheduler ranks its ready streams (R290, R291), and the moves of the cycle
are set out; which of the module's own events come about in it is free (notes/assumptions/1). -/

namespace Sys2Proof.Machine

/-- What the start steps find out, when nothing outside says it. -/
def freeReport (n : Nat) : StartReport :=
  ⟨if Config.freeBool n then some (Config.freeNat n) else none, Config.freeBool (n + 1),
    BitVec.ofNat 16 (Config.freeNat (n + 2)), BitVec.ofNat 384 (Config.freeNat (n + 3))⟩

/-! Issue. -/

/-- Whether a stream is ready in a cycle (R290): its word can issue, its launch queue has room, and its operands are there, which is a
matter of timing. -/
def readyStream (s : State) (k : SlotId) (e : EngId) : Bool :=
  mayIssue s k e && (match engIndex e with | some p => decide ((getEng s k p).launches.length < 8) | none => true) &&
    Config.freeBool (s.fresh + 5 * k.val + e.val)

/-- The rank of a stream (R291): the lower goes first. -/
def issueKey (s : State) (k : SlotId) (e : EngId) : Nat :=
  let x := getSlot s k
  let age := x.ages[e]
  let wait := if x.age.toNat ≤ age + 4 then 2 ^ 32 - min age (2 ^ 32) else 2 ^ 33
  let role := match x.job with | some j => j.card.role | none => 3
  ((wait * 4 + role) * 2 + (slotBit k).toNat) * 5 + e.val

/-- The streams of a core that the scheduler selects in a cycle: at most four, one for each unit (R290). -/
def selected (s : State) (core : Fin 96) : List (SlotId × EngId) :=
  let ks : List SlotId := [⟨2 * core.val, by omega⟩, ⟨2 * core.val + 1, by omega⟩]
  let cands := ks.flatMap (fun k => ([0, 1, 2, 3, 4].filter (readyStream s k)).map (fun e : EngId => (k, e)))
  (sortBy (fun p : SlotId × EngId => issueKey s p.1 p.2) cands).foldl
    (fun l p => if l.length < 4 ∧ !l.any (fun q => q.2 = p.2) then l ++ [p] else l) []

/-- Whether a control stream stands at an RNGSET, as memory holds its next word. -/
def setsRandom (s : State) (k : SlotId) : Bool :=
  let x := getSlot s k
  match (peek s (ctxL1 s x.ctx) x.pc .fetch).bind (fun pa => decodeBytes (readBytes s pa 8)) with
  | some (.rngset _ _ _ _) => true
  | _ => false

/-- The streams that issue, in the order in which their words take effect: the control stream's before those of engines, so that a set of
a tag stands over a TAGCLR of the cycle (R197, R229) and an STK over an EPUT (R226), and the range checker numbers launches by engine
code (R233); but an RNGSET after them, so that it stands over an advance of the counter (R324). -/
def issuesOf (s : State) (core : Fin 96) : List (SlotId × EngId) :=
  sortBy (fun p : SlotId × EngId => if p.2 = 0 ∧ setsRandom s p.1 then 5 else p.2.val) (selected s core)

/-- The waits that R291 counts. -/
def nextAges (s : State) (issues : List (SlotId × EngId)) (k : SlotId) : Vector Nat 5 :=
  Vector.ofFn (fun e : Fin 5 =>
    if readyStream s k e && !issues.contains (k, e) then (getSlot s k).ages[e] + 1 else 0)

/-! The module's own events. -/

/-- Whether an MMAS of a slot stands at its stamp, or past it (R272). -/
def stampDue (s : State) (k : SlotId) : Bool :=
  (getEng s k 0).launches.any (fun l => isMmas l.op && !l.started && decide ((l.vals.getD 1 0).toNat ≤ s.dcc.toNat))

/-- Events of a slot's channels. -/
def channelEvents (k : SlotId) (c : Fin 2) : List Instr :=
  [Instr.chainRecordRead k c, Instr.copyByteLand k (LandSource.channel c), Instr.chainRecordComplete k c, Instr.chainFault k c]

/-- Events of a launch in its queue. -/
def launchEvents (k : SlotId) (e : EngId) (i : Nat) : List Instr :=
  [Instr.copyByteLand k (LandSource.launch i), Instr.launchComplete k e i, Instr.launchFault k e i]

/-- Events of an engine stream. -/
def engineEvents (s : State) (k : SlotId) (e : Fin 4) : List Instr :=
  Instr.launchStart k (engCode e) :: (List.range (getEng s k e).launches.length).flatMap (launchEvents k (engCode e))

/-- Waiting words that may be tested again. -/
def waitEvents (s : State) (k : SlotId) : List Instr :=
  (([0, 1, 2, 3, 4] : List EngId).filter (fun e => (waitingWord s k e).isSome)).map (Instr.waitConditionMet k)

/-- Whether every link in use is up: while one is down, the traffic between dies waits, and what may take part in it (R377;
notes/assumptions/55). -/
def linksUp (s : State) : Bool := reaches s 0 (if feature s 0 then 3 else 1)

/-- Events of work in flight in a slot: launches, channels and the replies of units. -/
def workEvents (s : State) (k : SlotId) : List Instr :=
  if linksUp s then
    List.flatten [[Instr.dieUnitReply k], channelEvents k 0, channelEvents k 1, engineEvents s k 0, engineEvents s k 1, engineEvents s k 2,
      engineEvents s k 3]
  else []

/-- The stop of a slot's job. -/
def stopEvents (s : State) (k : SlotId) : List Instr :=
  [Instr.jobStopComplete k (Config.freeNat (s.fresh + 1 + k.val)), Instr.faultDomainDrain k]

/-- Events that may come about in a slot. -/
def slotEvents (s : State) (k : SlotId) : List Instr :=
  if (getSlot s k).job.isNone then []
  else List.flatten [[Instr.jobStart k, Instr.handlerEntry k], stopEvents s k, workEvents s k, waitEvents s k, [Instr.jobRetire k]]

/-- Events of a die's units, and the writes that it may apply. -/
def dieEvents (s : State) (d : Die) : List Instr :=
  if linksUp s then
    List.append [Instr.dieUnitRequest d UnitKind.sampling, Instr.dieUnitRequest d UnitKind.speculation,
      Instr.dieUnitRequest d UnitKind.text, Instr.rdysetApply d] ((List.range (unapplied s d).length).map (Instr.remoteWriteApply d))
  else []

/-- Events of the module as a whole. -/
def moduleEvents (s : State) : List Instr :=
  List.flatten
    [if s.dcc.toNat % 16 = 0 then [Instr.admissionDecision] else [], [Instr.placement], [Instr.faultQueuePost],
      dieEvents s 0, dieEvents s 1, dieEvents s 2, dieEvents s 3,
      if linksUp s then (List.range s.fills.length).map Instr.tileLineFill else [],
      if linksUp s then (List.range s.writeBacks.length).map Instr.tileLineWriteBack else []]

/-- What the spec has come about in this very cycle: stamps (R272), overruns (R295), the ends of windows (R293, R294) and the moves of
allocators (R52). -/
def dueEvents (s : State) : List Instr :=
  List.flatten
    [((List.finRange 192).filter (stampDue s)).map Instr.mmasStamp,
      ((List.finRange 192).filter (fun k => (getSlot s k).overran && (getSlot s k).stop.isNone)).map Instr.segmentOverrun,
      (s.planks.filter (fun p => p.ended s)).map (fun p => Instr.plankWindowEnd p.cluster),
      if s.dcc.toNat % 4096 = 0 then [Instr.pipelineAllocator] else []]

/-- The events that come about: any of them. -/
def chooseEvents (draw : Nat) (l : List Instr) : List Move :=
  (l.zipIdx.filter (fun p => Config.freeBool (draw + p.2))).map (fun p => Move.event p.1)

/-- The queues that have entries. -/
def queuesAhead (s : State) : List Nat :=
  (0 :: s.contexts.map (fun y => y.id.toNat + 1)).filter (fun q => match readRing s q with | some r => decide (r.count ≠ 0) | none => false)

/-! The cycle. -/

/-- TIME in the next cycle (R380): it advances by some nanoseconds, at half rate while a backward correction is absorbed. -/
def nextTime (s : State) : State :=
  let d := Config.freeNat s.fresh % 4
  if s.slew = 0 then { s with time := s.time + BitVec.ofNat 64 d }
  else { s with time := s.time + BitVec.ofNat 64 (d / 2), slew := s.slew - (d - d / 2) }

/-- The counters of a running cycle: DCC and the watchdogs of the jobs that are not stopped (R220, R295). The completion test of each
barrier is made once, after all that has reached it in the cycle before (R193, R196). -/
def countCycle (s : State) : State :=
  { s with
    dcc := s.dcc + 1
    cores := s.cores.map (fun c => { c with barriers := c.barriers.map (fun p => (p.1, p.2.test)) })
    slots := s.slots.map (fun x => match x.job with
      | some j => if j.started && x.stop.isNone then { x with watch := x.watch + 1 } else x
      | none => x) }

/-- Every number that a cycle draws is new. -/
def drawsPerCycle : Nat := 2 ^ 20

/-- A cycle: it sets out the moves that follow. A start takes one step in it. In a supply pause DCC stands and nothing issues, while TIME
and what is in flight go on to their stop points (R365, R380). -/
def tick (s : State) : State :=
  if s.host.starting then
    let s1 := { nextTime s with fresh := s.fresh + 8 }
    if s.host.retry then beginCold s1 else startStep s1 (freeReport (s.fresh + 1))
  else if s.host.mode ≠ 2 then { nextTime s with fresh := s.fresh + 1 }
  else if s.paused then
    let s1 := nextTime s
    let ks := (List.finRange 192).filter (fun k => (getSlot s1 k).stop.isSome)
    let ms := chooseEvents (s1.fresh + 1000) (ks.flatMap (fun k => stopEvents s1 k ++ workEvents s1 k) ++ [Instr.faultQueuePost] ++
      dieEvents s1 0 ++ dieEvents s1 1 ++ dieEvents s1 2 ++ dieEvents s1 3)
    { s1 with fresh := s1.fresh + drawsPerCycle, agenda := ms }
  else
    let s1 := countCycle (nextTime s)
    let due := (dueEvents s1).map Move.event
    let issues := (List.finRange 96).flatMap (issuesOf s1)
    let events := chooseEvents (s1.fresh + 1000) ((List.finRange 192).flatMap (slotEvents s1) ++ moduleEvents s1)
    { s1 with
      fresh := s1.fresh + drawsPerCycle
      slots := Vector.ofFn (fun k : Fin 192 => { getSlot s1 k with ages := nextAges s1 issues k })
      agenda := due ++ issues.map (fun p => Move.issue p.1 p.2) ++ (queuesAhead s1).map Move.command ++ events }

end Sys2Proof.Machine
end

