-- ==== Sys2Proof/Machine/Dispatch.lean ====
section
/-! DEFINITION. Machine/Dispatch.lean: the meaning of each instruction, one arm each. -/

namespace Sys2Proof.Machine

def exec (i : Instr) (s : State) : Host.Outcome State Fault Refusal :=
  match i with
  | .nop g => Sys2Proof.Machine.execNop g s
  | .add g sd a b => Sys2Proof.Machine.execAdd g sd a b s
  | .sub g sd a b => Sys2Proof.Machine.execSub g sd a b s
  | .mul g sd a b => Sys2Proof.Machine.execMul g sd a b s
  | .mulh g sd a b => Sys2Proof.Machine.execMulh g sd a b s
  | .mulhu g sd a b => Sys2Proof.Machine.execMulhu g sd a b s
  | .div g sd a b => Sys2Proof.Machine.execDiv g sd a b s
  | .divu g sd a b => Sys2Proof.Machine.execDivu g sd a b s
  | .rem g sd a b => Sys2Proof.Machine.execRem g sd a b s
  | .remu g sd a b => Sys2Proof.Machine.execRemu g sd a b s
  | .and g sd a b => Sys2Proof.Machine.execAnd g sd a b s
  | .or g sd a b => Sys2Proof.Machine.execOr g sd a b s
  | .xor g sd a b => Sys2Proof.Machine.execXor g sd a b s
  | .andn g sd a b => Sys2Proof.Machine.execAndn g sd a b s
  | .shl g sd a b => Sys2Proof.Machine.execShl g sd a b s
  | .shr g sd a b => Sys2Proof.Machine.execShr g sd a b s
  | .sra g sd a b => Sys2Proof.Machine.execSra g sd a b s
  | .ror g sd a b => Sys2Proof.Machine.execRor g sd a b s
  | .min g sd a b => Sys2Proof.Machine.execMin g sd a b s
  | .max g sd a b => Sys2Proof.Machine.execMax g sd a b s
  | .minu g sd a b => Sys2Proof.Machine.execMinu g sd a b s
  | .maxu g sd a b => Sys2Proof.Machine.execMaxu g sd a b s
  | .clz g sd a => Sys2Proof.Machine.execClz g sd a s
  | .ctz g sd a => Sys2Proof.Machine.execCtz g sd a s
  | .popc g sd a => Sys2Proof.Machine.execPopc g sd a s
  | .bext g sd a b c => Sys2Proof.Machine.execBext g sd a b c s
  | .bins g sd a b c => Sys2Proof.Machine.execBins g sd a b c s
  | .sel g sd p a b => Sys2Proof.Machine.execSel g sd p a b s
  | .madd g sd a b c => Sys2Proof.Machine.execMadd g sd a b c s
  | .addi g sd a imm => Sys2Proof.Machine.execAddi g sd a imm s
  | .andi g sd a imm => Sys2Proof.Machine.execAndi g sd a imm s
  | .ori g sd a imm => Sys2Proof.Machine.execOri g sd a imm s
  | .xori g sd a imm => Sys2Proof.Machine.execXori g sd a imm s
  | .shli g sd a imm => Sys2Proof.Machine.execShli g sd a imm s
  | .shri g sd a imm => Sys2Proof.Machine.execShri g sd a imm s
  | .srai g sd a imm => Sys2Proof.Machine.execSrai g sd a imm s
  | .muli g sd a imm => Sys2Proof.Machine.execMuli g sd a imm s
  | .movi g sd imm => Sys2Proof.Machine.execMovi g sd imm s
  | .movhi g sd a imm => Sys2Proof.Machine.execMovhi g sd a imm s
  | .leapc g sd imm => Sys2Proof.Machine.execLeapc g sd imm s
  | .cmp g pd pe cc a b => Sys2Proof.Machine.execCmp g pd pe cc a b s
  | .cmpi g pd pe cc a imm => Sys2Proof.Machine.execCmpi g pd pe cc a imm s
  | .fcmp g pd pe cc d a b => Sys2Proof.Machine.execFcmp g pd pe cc d a b s
  | .pand g pd pa pb na nb => Sys2Proof.Machine.execPand g pd pa pb na nb s
  | .por g pd pa pb na nb => Sys2Proof.Machine.execPor g pd pa pb na nb s
  | .pxor g pd pa pb na nb => Sys2Proof.Machine.execPxor g pd pa pb na nb s
  | .pget g sd grp => Sys2Proof.Machine.execPget g sd grp s
  | .pput g grp a => Sys2Proof.Machine.execPput g grp a s
  | .br g off => Sys2Proof.Machine.execBr g off s
  | .call g off => Sys2Proof.Machine.execCall g off s
  | .jmp g a => Sys2Proof.Machine.execJmp g a s
  | .callr g sd a => Sys2Proof.Machine.execCallr g sd a s
  | .dbnz g sd a imm => Sys2Proof.Machine.execDbnz g sd a imm s
  | .fadd g sd rm d a b => Sys2Proof.Machine.execFadd g sd rm d a b s
  | .fsub g sd rm d a b => Sys2Proof.Machine.execFsub g sd rm d a b s
  | .fmul g sd rm d a b => Sys2Proof.Machine.execFmul g sd rm d a b s
  | .ffma g sd rm d a b c => Sys2Proof.Machine.execFfma g sd rm d a b c s
  | .fdiv g sd rm d a b => Sys2Proof.Machine.execFdiv g sd rm d a b s
  | .fsqrt g sd rm d a => Sys2Proof.Machine.execFsqrt g sd rm d a s
  | .fmin g sd d a b => Sys2Proof.Machine.execFmin g sd d a b s
  | .fmax g sd d a b => Sys2Proof.Machine.execFmax g sd d a b s
  | .fcvt g sd rm code a => Sys2Proof.Machine.execFcvt g sd rm code a s
  | .fclass g sd d a => Sys2Proof.Machine.execFclass g sd d a s
  | .fexp2 g sd rm d a => Sys2Proof.Machine.execFexp2 g sd rm d a s
  | .flog2 g sd rm d a => Sys2Proof.Machine.execFlog2 g sd rm d a s
  | .ld g sd a size order scope spec off => Sys2Proof.Machine.execLd g sd a size order scope spec off s
  | .st g data a size order scope off => Sys2Proof.Machine.execSt g data a size order scope off s
  | .ldsp g sd a size order scope off => Sys2Proof.Machine.execLdsp g sd a size order scope off s
  | .stsp g data a size order scope off => Sys2Proof.Machine.execStsp g data a size order scope off s
  | .pref g a off => Sys2Proof.Machine.execPref g a off s
  | .chk g a => Sys2Proof.Machine.execChk g a s
  | .clean g a scope off => Sys2Proof.Machine.execClean g a scope off s
  | .inval g a scope off => Sys2Proof.Machine.execInval g a scope off s
  | .aadd g sd a b order scope place size => Sys2Proof.Machine.execAadd g sd a b order scope place size s
  | .aand g sd a b order scope place size => Sys2Proof.Machine.execAand g sd a b order scope place size s
  | .aor g sd a b order scope place size => Sys2Proof.Machine.execAor g sd a b order scope place size s
  | .axor g sd a b order scope place size => Sys2Proof.Machine.execAxor g sd a b order scope place size s
  | .amin g sd a b order scope place size => Sys2Proof.Machine.execAmin g sd a b order scope place size s
  | .amax g sd a b order scope place size => Sys2Proof.Machine.execAmax g sd a b order scope place size s
  | .aminu g sd a b order scope place size => Sys2Proof.Machine.execAminu g sd a b order scope place size s
  | .amaxu g sd a b order scope place size => Sys2Proof.Machine.execAmaxu g sd a b order scope place size s
  | .aswp g sd a b order scope place size => Sys2Proof.Machine.execAswp g sd a b order scope place size s
  | .acas g sd a b c order scope place size => Sys2Proof.Machine.execAcas g sd a b c order scope place size s
  | .afadd g sd a b order scope place size => Sys2Proof.Machine.execAfadd g sd a b order scope place size s
  | .fence g kind scope => Sys2Proof.Machine.execFence g kind scope s
  | .barinit g sd a b scope => Sys2Proof.Machine.execBarinit g sd a b scope s
  | .bararrive g sd a => Sys2Proof.Machine.execBararrive g sd a s
  | .barexpect g a b => Sys2Proof.Machine.execBarexpect g a b s
  | .barwait g a b => Sys2Proof.Machine.execBarwait g a b s
  | .bartest g pd a b => Sys2Proof.Machine.execBartest g pd a b s
  | .tagwaitany g sd a => Sys2Proof.Machine.execTagwaitany g sd a s
  | .tagwaitall g a => Sys2Proof.Machine.execTagwaitall g a s
  | .tagfirst g sd a => Sys2Proof.Machine.execTagfirst g sd a s
  | .tagclr g a => Sys2Proof.Machine.execTagclr g a s
  | .estart g sd e a => Sys2Proof.Machine.execEstart g sd e a s
  | .eput g e n a => Sys2Proof.Machine.execEput g e n a s
  | .eget g sd e n => Sys2Proof.Machine.execEget g sd e n s
  | .fmtq g a => Sys2Proof.Machine.execFmtq g a s
  | .join g mask => Sys2Proof.Machine.execJoin g mask s
  | .spawn g sd a q nb => Sys2Proof.Machine.execSpawn g sd a q nb s
  | .jend g => Sys2Proof.Machine.execJend g s
  | .cpchainBind g sd a b ch => Sys2Proof.Machine.execCpchainBind g sd a b ch s
  | .cpchainKick g sd ch => Sys2Proof.Machine.execCpchainKick g sd ch s
  | .cpchainStop g sd ch => Sys2Proof.Machine.execCpchainStop g sd ch s
  | .cpstat g sd ch => Sys2Proof.Machine.execCpstat g sd ch s
  | .rdyset g sd a b => Sys2Proof.Machine.execRdyset g sd a b s
  | .rdytest g pd a b => Sys2Proof.Machine.execRdytest g pd a b s
  | .tcpref g a b dim n => Sys2Proof.Machine.execTcpref g a b dim n s
  | .tcinv g a b whole => Sys2Proof.Machine.execTcinv g a b whole s
  | .tcclean g a b whole => Sys2Proof.Machine.execTcclean g a b whole s
  | .tcpin g sd a b => Sys2Proof.Machine.execTcpin g sd a b s
  | .tcunpin g a b => Sys2Proof.Machine.execTcunpin g a b s
  | .tclook g sd a b => Sys2Proof.Machine.execTclook g sd a b s
  | .tchalo g a b c => Sys2Proof.Machine.execTchalo g a b c s
  | .kvappend g sd a b c => Sys2Proof.Machine.execKvappend g sd a b c s
  | .kvcommit g sd a b c => Sys2Proof.Machine.execKvcommit g sd a b c s
  | .kvsquash g sd a b => Sys2Proof.Machine.execKvsquash g sd a b s
  | .kvtrunc g sd a b c => Sys2Proof.Machine.execKvtrunc g sd a b c s
  | .kvfork g sd a b c => Sys2Proof.Machine.execKvfork g sd a b c s
  | .kvfree g sd a b => Sys2Proof.Machine.execKvfree g sd a b s
  | .cksnap g sd a b => Sys2Proof.Machine.execCksnap g sd a b s
  | .cksel g sd a => Sys2Proof.Machine.execCksel g sd a s
  | .ckdrop g a => Sys2Proof.Machine.execCkdrop g a s
  | .smpstart g sd a => Sys2Proof.Machine.execSmpstart g sd a s
  | .acctest g sd a => Sys2Proof.Machine.execAcctest g sd a s
  | .rndc g sd => Sys2Proof.Machine.execRndc g sd s
  | .rngset g e a b => Sys2Proof.Machine.execRngset g e a b s
  | .rngget g sd e w => Sys2Proof.Machine.execRngget g sd e w s
  | .txenc g sd a b => Sys2Proof.Machine.execTxenc g sd a b s
  | .txdec g sd a b => Sys2Proof.Machine.execTxdec g sd a b s
  | .txcons g sd a b => Sys2Proof.Machine.execTxcons g sd a b s
  | .txvocabOpen g sd a b => Sys2Proof.Machine.execTxvocabOpen g sd a b s
  | .txvocabRebind g sd a b => Sys2Proof.Machine.execTxvocabRebind g sd a b s
  | .txvocabClose g sd a b => Sys2Proof.Machine.execTxvocabClose g sd a b s
  | .txmask g sd a b => Sys2Proof.Machine.execTxmask g sd a b s
  | .csrr g sd csr => Sys2Proof.Machine.execCsrr g sd csr s
  | .csrw g sd csr a => Sys2Proof.Machine.execCsrw g sd csr a s
  | .csrset g sd csr a => Sys2Proof.Machine.execCsrset g sd csr a s
  | .csrclr g sd csr a => Sys2Proof.Machine.execCsrclr g sd csr a s
  | .trap g a num => Sys2Proof.Machine.execTrap g a num s
  | .eret g => Sys2Proof.Machine.execEret g s
  | .halt g => Sys2Proof.Machine.execHalt g s
  | .tlbinvAll g a => Sys2Proof.Machine.execTlbinvAll g a s
  | .tlbinvAsid g a => Sys2Proof.Machine.execTlbinvAsid g a s
  | .tlbinvPage g a => Sys2Proof.Machine.execTlbinvPage g a s
  | .cyc g sd => Sys2Proof.Machine.execCyc g sd s
  | .sigmix g a => Sys2Proof.Machine.execSigmix g a s
  | .waitcyc g a => Sys2Proof.Machine.execWaitcyc g a s
  | .lit imm => Sys2Proof.Machine.execLit imm s
  | .litx imm => Sys2Proof.Machine.execLitx imm s
  | .dup => Sys2Proof.Machine.execDup s
  | .drop => Sys2Proof.Machine.execDrop s
  | .swap => Sys2Proof.Machine.execSwap s
  | .over => Sys2Proof.Machine.execOver s
  | .rot => Sys2Proof.Machine.execRot s
  | .addw => Sys2Proof.Machine.execAddw s
  | .subw => Sys2Proof.Machine.execSubw s
  | .mulw => Sys2Proof.Machine.execMulw s
  | .shlw => Sys2Proof.Machine.execShlw s
  | .shrw => Sys2Proof.Machine.execShrw s
  | .andw => Sys2Proof.Machine.execAndw s
  | .orw => Sys2Proof.Machine.execOrw s
  | .ldk n => Sys2Proof.Machine.execLdk n s
  | .stk n => Sys2Proof.Machine.execStk n s
  | .brw off => Sys2Proof.Machine.execBrw off s
  | .bzw => Sys2Proof.Machine.execBzw s
  | .brs => Sys2Proof.Machine.execBrs s
  | .loopw len => Sys2Proof.Machine.execLoopw len s
  | .endw => Sys2Proof.Machine.execEndw s
  | .tagww t => Sys2Proof.Machine.execTagww t s
  | .tagsw t => Sys2Proof.Machine.execTagsw t s
  | .baraw => Sys2Proof.Machine.execBaraw s
  | .barww => Sys2Proof.Machine.execBarww s
  | .fencew scope => Sys2Proof.Machine.execFencew scope s
  | .waitq => Sys2Proof.Machine.execWaitq s
  | .haltw => Sys2Proof.Machine.execHaltw s
  | .cpy1d dsp ssp => Sys2Proof.Machine.execCpy1d dsp ssp s
  | .cpy2d dsp ssp => Sys2Proof.Machine.execCpy2d dsp ssp s
  | .cpy3d dsp ssp => Sys2Proof.Machine.execCpy3d dsp ssp s
  | .cpyt toTile => Sys2Proof.Machine.execCpyt toTile s
  | .cpytb dim side => Sys2Proof.Machine.execCpytb dim side s
  | .cpyg dsp ssp => Sys2Proof.Machine.execCpyg dsp ssp s
  | .cpys dsp ssp => Sys2Proof.Machine.execCpys dsp ssp s
  | .cpyfill dsp => Sys2Proof.Machine.execCpyfill dsp s
  | .mld => Sys2Proof.Machine.execMld s
  | .mst => Sys2Proof.Machine.execMst s
  | .accinit => Sys2Proof.Machine.execAccinit s
  | .acczero => Sys2Proof.Machine.execAcczero s
  | .acccvt => Sys2Proof.Machine.execAcccvt s
  | .accnorm => Sys2Proof.Machine.execAccnorm s
  | .accsnap => Sys2Proof.Machine.execAccsnap s
  | .accload => Sys2Proof.Machine.execAccload s
  | .mma ta tb => Sys2Proof.Machine.execMma ta tb s
  | .mmas ta tb => Sys2Proof.Machine.execMmas ta tb s
  | .permrd => Sys2Proof.Machine.execPermrd s
  | .growrd => Sys2Proof.Machine.execGrowrd s
  | .flu fx => Sys2Proof.Machine.execFlu fx s
  | .fchol fx => Sys2Proof.Machine.execFchol fx s
  | .fqr fx => Sys2Proof.Machine.execFqr fx s
  | .ftrsl fx => Sys2Proof.Machine.execFtrsl fx s
  | .ftrsu fx => Sys2Proof.Machine.execFtrsu fx s
  | .fapplyq fx => Sys2Proof.Machine.execFapplyq fx s
  | .vadd fmt => Sys2Proof.Machine.execVadd fmt s
  | .vsub fmt => Sys2Proof.Machine.execVsub fmt s
  | .vmul fmt => Sys2Proof.Machine.execVmul fmt s
  | .vfma fmt => Sys2Proof.Machine.execVfma fmt s
  | .vmax fmt => Sys2Proof.Machine.execVmax fmt s
  | .vmin fmt => Sys2Proof.Machine.execVmin fmt s
  | .vabs fmt => Sys2Proof.Machine.execVabs fmt s
  | .vcmp fmt => Sys2Proof.Machine.execVcmp fmt s
  | .vsel fmt => Sys2Proof.Machine.execVsel fmt s
  | .vcvt fmt => Sys2Proof.Machine.execVcvt fmt s
  | .vrcp fmt => Sys2Proof.Machine.execVrcp fmt s
  | .vrsq fmt => Sys2Proof.Machine.execVrsq fmt s
  | .vexp2 fmt => Sys2Proof.Machine.execVexp2 fmt s
  | .vlog2 fmt => Sys2Proof.Machine.execVlog2 fmt s
  | .vred fmt => Sys2Proof.Machine.execVred fmt s
  | .viota fmt => Sys2Proof.Machine.execViota fmt s
  | .vand fmt => Sys2Proof.Machine.execVand fmt s
  | .vor fmt => Sys2Proof.Machine.execVor fmt s
  | .vxor fmt => Sys2Proof.Machine.execVxor fmt s
  | .vshl fmt => Sys2Proof.Machine.execVshl fmt s
  | .vshr fmt => Sys2Proof.Machine.execVshr fmt s
  | .vmov fmt => Sys2Proof.Machine.execVmov fmt s
  | .vrnd => Sys2Proof.Machine.execVrnd s
  | .vtmask => Sys2Proof.Machine.execVtmask s
  | .vsmax masked fmt => Sys2Proof.Machine.execVsmax masked fmt s
  | .vtopk => Sys2Proof.Machine.execVtopk s
  | .vargmax => Sys2Proof.Machine.execVargmax s
  | .vscan fmt => Sys2Proof.Machine.execVscan fmt s
  | .vquant fmt => Sys2Proof.Machine.execVquant fmt s
  | .vdeq fmt => Sys2Proof.Machine.execVdeq fmt s
  | .xray => Sys2Proof.Machine.execXray s
  | .xrad => Sys2Proof.Machine.execXrad s
  | .xknn => Sys2Proof.Machine.execXknn s
  | .xbox => Sys2Proof.Machine.execXbox s
  | .nopw => Sys2Proof.Machine.execNopw s
  | .createContext ctx node priv paired partner l1 save status header => Sys2Proof.Machine.execCreateContext ctx node priv paired partner l1 save status header s
  | .destroyContext ctx => Sys2Proof.Machine.execDestroyContext ctx s
  | .setRegion node block => Sys2Proof.Machine.execSetRegion node block s
  | .setRegionDelete node => Sys2Proof.Machine.execSetRegionDelete node s
  | .setLayout ctx handle record => Sys2Proof.Machine.execSetLayout ctx handle record s
  | .declarePipeline ctx record => Sys2Proof.Machine.execDeclarePipeline ctx record s
  | .setPlank record => Sys2Proof.Machine.execSetPlank record s
  | .submit ctx queue card => Sys2Proof.Machine.execSubmit ctx queue card s
  | .tlbInvalidateAll operand => Sys2Proof.Machine.execTlbInvalidateAll operand s
  | .tlbInvalidateAsid operand => Sys2Proof.Machine.execTlbInvalidateAsid operand s
  | .tlbInvalidatePage operand => Sys2Proof.Machine.execTlbInvalidatePage operand s
  | .resume ctx core slot => Sys2Proof.Machine.execResume ctx core slot s
  | .resumeAll ctx => Sys2Proof.Machine.execResumeAll ctx s
  | .abort ctx core slot => Sys2Proof.Machine.execAbort ctx core slot s
  | .abortAll ctx => Sys2Proof.Machine.execAbortAll ctx s
  | .resetPartition core slot => Sys2Proof.Machine.execResetPartition core slot s
  | .hostHalt ctx => Sys2Proof.Machine.execHostHalt ctx s
  | .stepStream ctx core slot eng => Sys2Proof.Machine.execStepStream ctx core slot eng s
  | .queueTailWrite queue tail => Sys2Proof.Machine.execQueueTailWrite queue tail s
  | .ctrlGo => Sys2Proof.Machine.execCtrlGo s
  | .ctrlRst => Sys2Proof.Machine.execCtrlRst s
  | .attgo => Sys2Proof.Machine.execAttgo s
  | .dbgResp response challenge => Sys2Proof.Machine.execDbgResp response challenge s
  | .fwgo => Sys2Proof.Machine.execFwgo s
  | .w0Write off value => Sys2Proof.Machine.execW0Write off value s
  | .hostW2 write addr n data => Sys2Proof.Machine.execHostW2 write addr n data s
  | .hostAtomicOp op wide addr operand compare => Sys2Proof.Machine.execHostAtomicOp op wide addr operand compare s
  | .hostReadCompletion pa success data => Sys2Proof.Machine.execHostReadCompletion pa success data s
  | .completionTimeout pa n => Sys2Proof.Machine.execCompletionTimeout pa n s
  | .t1Frame port etype queue seq entries => Sys2Proof.Machine.execT1Frame port etype queue seq entries s
  | .t1Reply port => Sys2Proof.Machine.execT1Reply port s
  | .ptpSync port ns => Sys2Proof.Machine.execPtpSync port ns s
  | .coldStart report => Sys2Proof.Machine.execColdStart report s
  | .perst report => Sys2Proof.Machine.execPerst report s
  | .startTimeout => Sys2Proof.Machine.execStartTimeout s
  | .startRetry report => Sys2Proof.Machine.execStartRetry report s
  | .clockStretch edges => Sys2Proof.Machine.execClockStretch edges s
  | .supplyPause => Sys2Proof.Machine.execSupplyPause s
  | .supplyRecover => Sys2Proof.Machine.execSupplyRecover s
  | .pauseTimeout report => Sys2Proof.Machine.execPauseTimeout report s
  | .linkCrcRetry link => Sys2Proof.Machine.execLinkCrcRetry link s
  | .linkTrainingLost link => Sys2Proof.Machine.execLinkTrainingLost link s
  | .linkRetrained link => Sys2Proof.Machine.execLinkRetrained link s
  | .linkRetrainTimeout link report => Sys2Proof.Machine.execLinkRetrainTimeout link report s
  | .remoteWriteApply die index => Sys2Proof.Machine.execRemoteWriteApply die index s
  | .alarm source report => Sys2Proof.Machine.execAlarm source report s
  | .admissionDecision => Sys2Proof.Machine.execAdmissionDecision s
  | .placement => Sys2Proof.Machine.execPlacement s
  | .jobStart slot => Sys2Proof.Machine.execJobStart slot s
  | .jobRetire slot => Sys2Proof.Machine.execJobRetire slot s
  | .pipelineAllocator => Sys2Proof.Machine.execPipelineAllocator s
  | .plankWindowEnd cluster => Sys2Proof.Machine.execPlankWindowEnd cluster s
  | .segmentOverrun slot => Sys2Proof.Machine.execSegmentOverrun slot s
  | .waitConditionMet slot eng => Sys2Proof.Machine.execWaitConditionMet slot eng s
  | .launchStart slot eng => Sys2Proof.Machine.execLaunchStart slot eng s
  | .launchComplete slot eng index => Sys2Proof.Machine.execLaunchComplete slot eng index s
  | .copyByteLand slot src => Sys2Proof.Machine.execCopyByteLand slot src s
  | .mmasStamp slot => Sys2Proof.Machine.execMmasStamp slot s
  | .chainRecordRead slot ch => Sys2Proof.Machine.execChainRecordRead slot ch s
  | .chainRecordComplete slot ch => Sys2Proof.Machine.execChainRecordComplete slot ch s
  | .tileLineFill index => Sys2Proof.Machine.execTileLineFill index s
  | .dieUnitRequest die unit => Sys2Proof.Machine.execDieUnitRequest die unit s
  | .dieUnitReply slot => Sys2Proof.Machine.execDieUnitReply slot s
  | .rdysetApply die => Sys2Proof.Machine.execRdysetApply die s
  | .handlerEntry slot => Sys2Proof.Machine.execHandlerEntry slot s
  | .jobStopComplete slot steps => Sys2Proof.Machine.execJobStopComplete slot steps s
  | .faultQueuePost => Sys2Proof.Machine.execFaultQueuePost s
  | .faultDomainDrain slot => Sys2Proof.Machine.execFaultDomainDrain slot s
  | .softError target uncorrectable => Sys2Proof.Machine.execSoftError target uncorrectable s
  | .launchFault slot eng index => Sys2Proof.Machine.execLaunchFault slot eng index s
  | .chainFault slot ch => Sys2Proof.Machine.execChainFault slot ch s
  | .hostAtomicOpCompletion success old => Sys2Proof.Machine.execHostAtomicOpCompletion success old s
  | .tileLineWriteBack index => Sys2Proof.Machine.execTileLineWriteBack index s

end Sys2Proof.Machine
end

