-- ==== Sys2Proof/Machine/Step.lean ====
section
/-! DEFINITION. Machine/Step.lean: one step of the module: the next move of the agenda, or a cycle when none is left
(notes/assumptions/1), and an instruction placed where the next step fetches it (notes/assumptions/5). -/

namespace Sys2Proof.Machine

/-- One step. A stream that may not issue, and a word offered as an event, change nothing but the agenda; a request of the host that
comes during a supply pause (R365), or that a link holds up (R377), is held. -/
def step (s : State) : Host.Outcome State Fault Refusal :=
  match s.agenda with
  | [] => .next (tick s)
  | .issue k e :: rest =>
    let s1 := { s with agenda := rest }
    if mayIssue s1 k e then
      match fetchWord s1 k e with
      | .word t i => exec i t
      | .taken t => .next t
    else .next s1
  | .command q :: rest =>
    match takeCommand { s with agenda := rest, curCmd := none } q with
    | .run t i => exec i t
    | .done t => .next t
  | .event i :: rest =>
    let s1 := { s with agenda := rest, curCmd := none }
    if (encode i).isSome then .next s1
    else if isHostRequest i && (s1.paused || !hostReach s1 i) then .next (holdRequest s1 i)
    else exec i s1

/-- The stream that runs an engine word (R146): by its major; a word of every stream runs in the matrix stream. -/
def fetchStream (nbits w : Nat) : EngId :=
  if nbits ≠ 16 then 0
  else match w / 4096 % 16 with
    | 4 => 3
    | 8 => 2
    | 9 => 2
    | 10 => 2
    | 11 => 4
    | _ => 1

/-- Where withFetchWord places the word, a virtual address that is also the physical one. -/
def fetchPlace : Nat := 0x20_0000

/-- A card whose control stream stands at the placed word. -/
def fetchCard : Card := ⟨0, BitVec.ofNat 64 fetchPlace, 0, 0, 0, 0, 0, 0x3F8, 1, 0, 0, 0, Vector.replicate 4 0, 0⟩

/-- The memory that the fetch reads: an L1 and an L2 entry that map the first 512 MiB to themselves, and the word. -/
def fetchCells (nbits w : Nat) : List (Nat × Byte) :=
  cellsAt 0x10_0000 (natBytes 8 0x11_0001) ++ cellsAt 0x11_0000 (natBytes 8 0xC1F) ++ cellsAt fetchPlace (natBytes (nbits / 8) w)

/-- The slot that runs the placed word: its job has started, nothing holds it, and its stream's PC is at the word. -/
def fetchSlot (x : Slot) (e : EngId) (mem : Memory) : Slot :=
  let y : Slot := { x with
    resident := some 0, wait := none, await := none, reply := none, stop := none, jend := false
    job := some ⟨0, 0, 1, fetchCard, [], [], [], none, true, 0, none, [], true, 0, mem, 0, [], [], 0, 2, []⟩ }
  match engIndex e with
  | none => { y with pc := BitVec.ofNat 64 fetchPlace }
  | some p =>
    let z : EngStream := { y.engs[p] with started := true, arrived := false, held := false, wait := none, pc := BitVec.ofNat 64 fetchPlace }
    { y with engs := y.engs.set p.val z p.isLt }

/-- The state with an instruction stored where the next step fetches it: in slot 0, in the stream that its word belongs to. -/
def State.withFetchWord (s : State) (nbits w : Nat) : State :=
  let e := fetchStream nbits w
  let cs := fetchCells nbits w
  let mem := cellsSet s.mem cs
  let clean : Core := { s.cores[(0 : Fin 96)] with tlbs := Vector.replicate 5 [], walks := [], fetched := [] }
  { s with
    agenda := [.issue 0 e]
    mem := mem
    poison := s.poison.filter (fun a => !cs.any (fun p => p.1 == a))
    log := []
    paused := false
    contexts := Context.new 0 0 true none 0x10_0000 0 0 0 :: s.contexts.filter (fun y => decide (y.id ≠ 0))
    cores := s.cores.set 0 clean
    slots := s.slots.set 0 (fetchSlot s.slots[(0 : Fin 192)] e mem) }

end Sys2Proof.Machine
end

