-- ==== Sys2Proof/Safety.lean ====
section
/-! DEFINITION. Safety.lean: what a safe run of the module is: no step stops it, and memory stays in its one form. -/

namespace Sys2Proof

open Machine

/-- A step goes on: it neither faults nor is refused. Every fault of the spec is an exception that the machine takes. -/
def GoesOn (s : State) : Prop := ∃ t, step s = .next t

/-- Memory is in canonical form: equal memories are equal lists. -/
def MemoryCanonical (s : State) : Prop := Memory.wf s.mem = true

/-- The states that n steps reach from s, without a stop. -/
def reaches : Nat → State → State → Prop
  | 0, s, t => s = t
  | n + 1, s, t => ∃ u, step s = .next u ∧ reaches n u t

/-- A safe run: every state that it reaches goes on, with memory canonical. -/
def SafeRun (s : State) : Prop := ∀ n t, reaches n s t → GoesOn t ∧ MemoryCanonical t

end Sys2Proof
end

