-- ==== Sys2Proof/Certificates/Slice0/Obligations.lean ====
section
/-! DEFINITION. Certificates/Slice0/Obligations.lean: the statements about the model, and the words they are said in. -/

namespace Sys2Proof.Claim

open Sys2Proof.Machine

/-! How statements speak of a word of the control stream. -/

/-- The bytes in which the hardware stores an instruction: eight for a control word, two for an engine word, the least
significant first (R8, R136, R145). -/
def Stored (i : Instr) (bs : Bytes) : Prop :=
  (∃ w, encodeControl i = some w ∧ bs = toBytes 8 w) ∨ (∃ w, encodeEngine i = some w ∧ bs = toBytes 2 w)

/-- The guard of a control word, and its source fields in the order of R141: sa, sb, sc, data. None for any other
instruction. -/
def operands : Instr → Option (Guard × List Src)
  | .nop g => some (g, [])
  | .add g _ a b => some (g, [a, b])
  | .sub g _ a b => some (g, [a, b])
  | .mul g _ a b => some (g, [a, b])
  | .mulh g _ a b => some (g, [a, b])
  | .mulhu g _ a b => some (g, [a, b])
  | .div g _ a b => some (g, [a, b])
  | .divu g _ a b => some (g, [a, b])
  | .rem g _ a b => some (g, [a, b])
  | .remu g _ a b => some (g, [a, b])
  | .and g _ a b => some (g, [a, b])
  | .or g _ a b => some (g, [a, b])
  | .xor g _ a b => some (g, [a, b])
  | .andn g _ a b => some (g, [a, b])
  | .shl g _ a b => some (g, [a, b])
  | .shr g _ a b => some (g, [a, b])
  | .sra g _ a b => some (g, [a, b])
  | .ror g _ a b => some (g, [a, b])
  | .min g _ a b => some (g, [a, b])
  | .max g _ a b => some (g, [a, b])
  | .minu g _ a b => some (g, [a, b])
  | .maxu g _ a b => some (g, [a, b])
  | .clz g _ a => some (g, [a])
  | .ctz g _ a => some (g, [a])
  | .popc g _ a => some (g, [a])
  | .bext g _ a b c => some (g, [a, b, c])
  | .bins g _ a b c => some (g, [a, b, c])
  | .sel g _ _ a b => some (g, [a, b])
  | .madd g _ a b c => some (g, [a, b, c])
  | .addi g _ a _ => some (g, [a])
  | .andi g _ a _ => some (g, [a])
  | .ori g _ a _ => some (g, [a])
  | .xori g _ a _ => some (g, [a])
  | .shli g _ a _ => some (g, [a])
  | .shri g _ a _ => some (g, [a])
  | .srai g _ a _ => some (g, [a])
  | .muli g _ a _ => some (g, [a])
  | .movi g _ _ => some (g, [])
  | .movhi g _ a _ => some (g, [a])
  | .leapc g _ _ => some (g, [])
  | .cmp g _ _ _ a b => some (g, [a, b])
  | .cmpi g _ _ _ a _ => some (g, [a])
  | .fcmp g _ _ _ _ a b => some (g, [a, b])
  | .pand g _ _ _ _ _ => some (g, [])
  | .por g _ _ _ _ _ => some (g, [])
  | .pxor g _ _ _ _ _ => some (g, [])
  | .pget g _ _ => some (g, [])
  | .pput g _ a => some (g, [a])
  | .br g _ => some (g, [])
  | .call g _ => some (g, [])
  | .jmp g a => some (g, [a])
  | .callr g _ a => some (g, [a])
  | .dbnz g _ a _ => some (g, [a])
  | .fadd g _ _ _ a b => some (g, [a, b])
  | .fsub g _ _ _ a b => some (g, [a, b])
  | .fmul g _ _ _ a b => some (g, [a, b])
  | .ffma g _ _ _ a b c => some (g, [a, b, c])
  | .fdiv g _ _ _ a b => some (g, [a, b])
  | .fsqrt g _ _ _ a => some (g, [a])
  | .fmin g _ _ a b => some (g, [a, b])
  | .fmax g _ _ a b => some (g, [a, b])
  | .fcvt g _ _ _ a => some (g, [a])
  | .fclass g _ _ a => some (g, [a])
  | .fexp2 g _ _ _ a => some (g, [a])
  | .flog2 g _ _ _ a => some (g, [a])
  | .ld g _ a _ _ _ _ _ => some (g, [a])
  | .st g data a _ _ _ _ => some (g, [a, data])
  | .ldsp g _ a _ _ _ _ => some (g, [a])
  | .stsp g data a _ _ _ _ => some (g, [a, data])
  | .pref g a _ => some (g, [a])
  | .chk g a => some (g, [a])
  | .clean g a _ _ => some (g, [a])
  | .inval g a _ _ => some (g, [a])
  | .aadd g _ a b _ _ _ _ => some (g, [a, b])
  | .aand g _ a b _ _ _ _ => some (g, [a, b])
  | .aor g _ a b _ _ _ _ => some (g, [a, b])
  | .axor g _ a b _ _ _ _ => some (g, [a, b])
  | .amin g _ a b _ _ _ _ => some (g, [a, b])
  | .amax g _ a b _ _ _ _ => some (g, [a, b])
  | .aminu g _ a b _ _ _ _ => some (g, [a, b])
  | .amaxu g _ a b _ _ _ _ => some (g, [a, b])
  | .aswp g _ a b _ _ _ _ => some (g, [a, b])
  | .acas g _ a b c _ _ _ _ => some (g, [a, b, c])
  | .afadd g _ a b _ _ _ _ => some (g, [a, b])
  | .fence g _ _ => some (g, [])
  | .barinit g _ a b _ => some (g, [a, b])
  | .bararrive g _ a => some (g, [a])
  | .barexpect g a b => some (g, [a, b])
  | .barwait g a b => some (g, [a, b])
  | .bartest g _ a b => some (g, [a, b])
  | .tagwaitany g _ a => some (g, [a])
  | .tagwaitall g a => some (g, [a])
  | .tagfirst g _ a => some (g, [a])
  | .tagclr g a => some (g, [a])
  | .estart g _ _ a => some (g, [a])
  | .eput g _ _ a => some (g, [a])
  | .eget g _ _ _ => some (g, [])
  | .fmtq g a => some (g, [a])
  | .join g _ => some (g, [])
  | .spawn g _ a _ _ => some (g, [a])
  | .jend g => some (g, [])
  | .cpchainBind g _ a b _ => some (g, [a, b])
  | .cpchainKick g _ _ => some (g, [])
  | .cpchainStop g _ _ => some (g, [])
  | .cpstat g _ _ => some (g, [])
  | .rdyset g _ a b => some (g, [a, b])
  | .rdytest g _ a b => some (g, [a, b])
  | .tcpref g a b _ _ => some (g, [a, b])
  | .tcinv g a b _ => some (g, [a, b])
  | .tcclean g a b _ => some (g, [a, b])
  | .tcpin g _ a b => some (g, [a, b])
  | .tcunpin g a b => some (g, [a, b])
  | .tclook g _ a b => some (g, [a, b])
  | .tchalo g a b c => some (g, [a, b, c])
  | .kvappend g _ a b c => some (g, [a, b, c])
  | .kvcommit g _ a b c => some (g, [a, b, c])
  | .kvsquash g _ a b => some (g, [a, b])
  | .kvtrunc g _ a b c => some (g, [a, b, c])
  | .kvfork g _ a b c => some (g, [a, b, c])
  | .kvfree g _ a b => some (g, [a, b])
  | .cksnap g _ a b => some (g, [a, b])
  | .cksel g _ a => some (g, [a])
  | .ckdrop g a => some (g, [a])
  | .smpstart g _ a => some (g, [a])
  | .acctest g _ a => some (g, [a])
  | .rndc g _ => some (g, [])
  | .rngset g _ a b => some (g, [a, b])
  | .rngget g _ _ _ => some (g, [])
  | .txenc g _ a b => some (g, [a, b])
  | .txdec g _ a b => some (g, [a, b])
  | .txcons g _ a b => some (g, [a, b])
  | .txvocabOpen g _ a b => some (g, [a, b])
  | .txvocabRebind g _ a b => some (g, [a, b])
  | .txvocabClose g _ a b => some (g, [a, b])
  | .txmask g _ a b => some (g, [a, b])
  | .csrr g _ _ => some (g, [])
  | .csrw g _ _ a => some (g, [a])
  | .csrset g _ _ a => some (g, [a])
  | .csrclr g _ _ a => some (g, [a])
  | .trap g a _ => some (g, [a])
  | .eret g => some (g, [])
  | .halt g => some (g, [])
  | .tlbinvAll g a => some (g, [a])
  | .tlbinvAsid g a => some (g, [a])
  | .tlbinvPage g a => some (g, [a])
  | .cyc g _ => some (g, [])
  | .sigmix g a => some (g, [a])
  | .waitcyc g a => some (g, [a])
  | _ => none

/-- The words and operands that only a privileged context may use (R114, R219, R292): TLBINV, a scope code from 10 on, and a
write of AGE. -/
def needsPrivilege : Instr → Bool
  | .tlbinvAll _ _ | .tlbinvAsid _ _ | .tlbinvPage _ _ => true
  | .csrw _ _ n _ | .csrset _ _ n _ | .csrclr _ _ n _ => n == 0x032
  | .ld _ _ _ _ _ scope _ _ | .st _ _ _ _ _ scope _ | .ldsp _ _ _ _ _ scope _ | .stsp _ _ _ _ _ scope _
  | .clean _ _ scope _ | .inval _ _ scope _ | .fence _ _ scope | .aadd _ _ _ _ _ scope _ _ | .aand _ _ _ _ _ scope _ _
  | .aor _ _ _ _ _ scope _ _ | .axor _ _ _ _ _ scope _ _ | .amin _ _ _ _ _ scope _ _ | .amax _ _ _ _ _ scope _ _
  | .aminu _ _ _ _ _ scope _ _ | .amaxu _ _ _ _ _ scope _ _ | .aswp _ _ _ _ _ scope _ _ | .acas _ _ _ _ _ _ scope _ _
  | .afadd _ _ _ _ _ scope _ _ => decide (10 ≤ scope.toNat)
  | _ => false

/-- The feature that a control word belongs to (R4, R378): 3 speculation, 4 text. -/
def needsFeature : Instr → Option Nat
  | .kvappend _ _ _ _ _ | .kvcommit _ _ _ _ _ | .kvsquash _ _ _ _ | .kvtrunc _ _ _ _ _ | .kvfork _ _ _ _ _ | .kvfree _ _ _ _
  | .cksnap _ _ _ _ | .cksel _ _ _ | .ckdrop _ _ | .acctest _ _ _ => some 3
  | .txenc _ _ _ _ | .txdec _ _ _ _ | .txcons _ _ _ _ | .txvocabOpen _ _ _ _ | .txvocabRebind _ _ _ _ | .txvocabClose _ _ _ _
  | .txmask _ _ _ _ => some 4
  | _ => none

/-- The word's feature is accepted. -/
def Accepted (s : State) (i : Instr) : Prop := ∀ n, needsFeature i = some n → feature s n = true
/-- The word's feature is accepted, and the context may use its operands. -/
def Permitted (s : State) (i : Instr) : Prop :=
  Accepted s i ∧ (needsPrivilege i = true → ctxPriv s (curSlot s).ctx = true)

/-- A control word executes: its guard holds (R137) and none of its sources is dead (R138). -/
def Executes (s : State) (g : Guard) (srcs : List Src) : Prop :=
  (curSlot s).guard g = true ∧ ∀ a ∈ srcs, (curSlot s).isDead a.reg = false
/-- No source is poisoned (R160). -/
def Clean (s : State) (srcs : List Src) : Prop := ∀ a ∈ srcs, (curSlot s).poisoned a.reg = false
/-- A control word takes effect: it executes, and none of its sources is poisoned. -/
def Runs (s : State) (g : Guard) (srcs : List Src) : Prop := Executes s g srcs ∧ Clean s srcs

/-- The issuing slot past a word: last-use bits applied, PC at the next word, nothing waiting. -/
def past (s : State) (srcs : List Src) : Slot :=
  { (curSlot s).markDead srcs with pc := (curSlot s).pc + 8, wait := none }
/-- The state in which a word has its effect: last-use bits applied, PC at the next word. -/
def inBody (s : State) (srcs : List Src) : State := setSlot s s.cur.slot (past s srcs)
/-- The value of a source field. -/
def val (s : State) (a : Src) : Word := (curSlot s).readS a.reg

/-- A byte of memory reads as before, however old the writes to it that a reader may still miss (R115, R124). -/
def SameByte (s t : State) (a : Nat) : Prop := ∀ n, Machine.byteAt t n a = Machine.byteAt s n a
/-- What one view knows, another knows (R119, R123, R125; log entry 6). -/
def Sees (v w : View) : Prop := ∀ a, v.at a ≤ w.at a
/-- What a stream of a slot knows of the writes to memory. -/
def known (x : Slot) (e : EngId) : View := (x.order[e]).cur.view
/-- Slots that differ at most in what their streams know of other accesses (R113 to R133; log entry 6). -/
def SameSlot (x y : Slot) : Prop := { x with det := y.det, order := y.order, made := y.made } = y

/-- t is s with slot k holding x: every other slot, every byte of memory as each agent may read it, and every other part of the
module are as before. -/
def OnlySlot (s t : State) (k : SlotId) (x : Slot) : Prop :=
  t = setSlot s k x ∧ getSlot t k = x ∧ (∀ j, j ≠ k → getSlot t j = getSlot s j) ∧ ∀ a, SameByte s t a
/-- t has x in slot k and every other slot as in s. -/
def SlotIs (s t : State) (k : SlotId) (x : Slot) : Prop := getSlot t k = x ∧ ∀ j, j ≠ k → getSlot t j = getSlot s j
/-- Memory is as before for every agent. -/
def SameMemory (s t : State) : Prop := t.mem = s.mem ∧ t.log = s.log ∧ ∀ a, SameByte s t a

/-- The instruction completes, and all that it changes is the issuing slot, which becomes x. -/
def Completes (i : Instr) (s : State) (x : Slot) : Prop := ∃ t, exec i s = .next t ∧ OnlySlot s t s.cur.slot x

/-- The state with an answer that the slot held for its word forgotten: no word but one that waits for host memory holds one. -/
def quiet (s : State) : State := modCur s (fun x => { x with reply := none })
/-- The instruction raises a fault at its own word: the exception is taken, and the word writes nothing. -/
def Raises (i : Instr) (s : State) (code : BitVec 8) (v : Word) : Prop := exec i s = .next (controlFault (quiet s) (code, v))
/-- The same after the word's translations, which have led to t: the accessed and dirty bits that they have set stand (R13, R106). -/
def RaisesAfter (i : Instr) (s t : State) (code : BitVec 8) (v : Word) : Prop :=
  exec i s = .next (controlFault (quiet { t with slots := s.slots }) (code, v))
/-- The word waits at its PC (R182): nothing has changed but the slot's record of it. -/
def Waits (i : Instr) (s : State) : Prop := Completes i s { curSlot s with wait := some i }

/-! Results of the arithmetic words, in the arithmetic of R163 to R168. -/

/-- What a word writes: its guard, its destination, its sources, those whose poison counts, and the value. -/
structure Row where
  g     : Guard
  sd    : Reg
  srcs  : List Src
  reads : List Src
  v     : Word

/-- A row all of whose sources count. -/
def row (g : Guard) (sd : Reg) (srcs : List Src) (v : Word) : Option Row := some ⟨g, sd, srcs, srcs, v⟩

/-- The words of R163 to R168 over the values a slot holds. -/
def arithmetic (x : Slot) : Instr → Option Row
  | .add g sd a b => row g sd [a, b] (.ofNat 64 ((x.readS a.reg).toNat + (x.readS b.reg).toNat))
  | .sub g sd a b => row g sd [a, b] (.ofInt 64 ((x.readS a.reg).toInt - (x.readS b.reg).toInt))
  | .mul g sd a b => row g sd [a, b] (.ofNat 64 ((x.readS a.reg).toNat * (x.readS b.reg).toNat))
  | .mulh g sd a b => row g sd [a, b] (.ofInt 64 ((x.readS a.reg).toInt * (x.readS b.reg).toInt / 2 ^ 64))
  | .mulhu g sd a b => row g sd [a, b] (.ofNat 64 ((x.readS a.reg).toNat * (x.readS b.reg).toNat / 2 ^ 64))
  | .div g sd a b => row g sd [a, b] (if x.readS b.reg = 0 then .allOnes 64 else (x.readS a.reg).sdiv (x.readS b.reg))
  | .divu g sd a b => row g sd [a, b] (if x.readS b.reg = 0 then .allOnes 64 else x.readS a.reg / x.readS b.reg)
  | .rem g sd a b => row g sd [a, b] (if x.readS b.reg = 0 then x.readS a.reg else (x.readS a.reg).srem (x.readS b.reg))
  | .remu g sd a b => row g sd [a, b] (if x.readS b.reg = 0 then x.readS a.reg else x.readS a.reg % x.readS b.reg)
  | .and g sd a b => row g sd [a, b] (x.readS a.reg &&& x.readS b.reg)
  | .or g sd a b => row g sd [a, b] (x.readS a.reg ||| x.readS b.reg)
  | .xor g sd a b => row g sd [a, b] (x.readS a.reg ^^^ x.readS b.reg)
  | .andn g sd a b => row g sd [a, b] (x.readS a.reg &&& ~~~(x.readS b.reg))
  | .shl g sd a b => row g sd [a, b] (.ofNat 64 ((x.readS a.reg).toNat * 2 ^ ((x.readS b.reg).toNat % 64)))
  | .shr g sd a b => row g sd [a, b] (.ofNat 64 ((x.readS a.reg).toNat / 2 ^ ((x.readS b.reg).toNat % 64)))
  | .sra g sd a b => row g sd [a, b] (.ofInt 64 ((x.readS a.reg).toInt / 2 ^ ((x.readS b.reg).toNat % 64)))
  | .ror g sd a b => row g sd [a, b] ((x.readS a.reg).rotateRight ((x.readS b.reg).toNat % 64))
  | .min g sd a b => row g sd [a, b] (.ofInt 64 (Min.min (x.readS a.reg).toInt (x.readS b.reg).toInt))
  | .max g sd a b => row g sd [a, b] (.ofInt 64 (Max.max (x.readS a.reg).toInt (x.readS b.reg).toInt))
  | .minu g sd a b => row g sd [a, b] (.ofNat 64 (Min.min (x.readS a.reg).toNat (x.readS b.reg).toNat))
  | .maxu g sd a b => row g sd [a, b] (.ofNat 64 (Max.max (x.readS a.reg).toNat (x.readS b.reg).toNat))
  | .clz g sd a => row g sd [a] (.ofNat 64 (64 - (x.readS a.reg).toNat.size))
  | .ctz g sd a => row g sd [a] (if x.readS a.reg = 0 then 64 else .ofNat 64 (padicValNat 2 (x.readS a.reg).toNat))
  | .popc g sd a => row g sd [a] (.ofNat 64 (∑ i : Fin 64, ((x.readS a.reg).getLsbD i).toNat))
  | .bext g sd a b c => row g sd [a, b, c]
      ((x.readS a.reg >>> ((x.readS b.reg).toNat % 64)) &&& .ofNat 64 (2 ^ Min.min ((x.readS c.reg).toNat % 128) 64 - 1))
  | .bins g sd a b c =>
      let mask : Word := .ofNat 64 ((2 ^ Min.min ((x.readS c.reg).toNat / 256 % 128) 64 - 1) * 2 ^ ((x.readS c.reg).toNat % 64))
      row g sd [a, b, c] ((x.readS a.reg &&& ~~~mask) ||| ((x.readS b.reg <<< ((x.readS c.reg).toNat % 64)) &&& mask))
  | .sel g sd p a b => some ⟨g, sd, [a, b], [if x.readP p then a else b], if x.readP p then x.readS a.reg else x.readS b.reg⟩
  | .madd g sd a b c => row g sd [a, b, c]
      (.ofNat 64 ((x.readS a.reg).toNat * (x.readS b.reg).toNat + (x.readS c.reg).toNat))
  | .addi g sd a imm => row g sd [a] (.ofInt 64 ((x.readS a.reg).toInt + imm.toInt))
  | .andi g sd a imm => row g sd [a] (x.readS a.reg &&& .ofInt 64 imm.toInt)
  | .ori g sd a imm => row g sd [a] (x.readS a.reg ||| .ofNat 64 imm.toNat)
  | .xori g sd a imm => row g sd [a] (x.readS a.reg ^^^ .ofNat 64 imm.toNat)
  | .shli g sd a imm => row g sd [a] (.ofNat 64 ((x.readS a.reg).toNat * 2 ^ imm.toNat))
  | .shri g sd a imm => row g sd [a] (.ofNat 64 ((x.readS a.reg).toNat / 2 ^ imm.toNat))
  | .srai g sd a imm => row g sd [a] (.ofInt 64 ((x.readS a.reg).toInt / 2 ^ imm.toNat))
  | .muli g sd a imm => row g sd [a] (.ofInt 64 ((x.readS a.reg).toInt * imm.toInt))
  | .movi g sd imm => row g sd [] (.ofInt 64 imm.toInt)
  | .movhi g sd a imm => row g sd [a] (.ofNat 64 (imm.toNat * 2 ^ 32 + (x.readS a.reg).toNat % 2 ^ 32))
  | .leapc g sd imm => row g sd [] (.ofInt 64 (x.pc.toInt + 8 * imm.toInt))
  | _ => none

/-- The conditions of R140 on integers. -/
def IntCondition (cc : BitVec 4) (x y : Word) : Bool :=
  if cc = 0 then x == y else if cc = 1 then x != y else if cc = 2 then x.slt y else if cc = 3 then !x.slt y
  else if cc = 4 then x.ult y else !x.ult y

/-- A word that changes the issuing slot alone: its guard, its sources, and the slot after it. -/
structure Change where
  g    : Guard
  srcs : List Src
  y    : Slot

/-- The words of R169 and R171. -/
def predicates (s : State) : Instr → Option Change
  | .cmp g pd pe cc a b =>
    let t := IntCondition cc (val s a) (val s b)
    some ⟨g, [a, b], ((past s [a, b]).writeP pd t).writeP pe (!t)⟩
  | .cmpi g pd pe cc a imm =>
    let t := IntCondition cc (val s a) (.ofInt 64 imm.toInt)
    some ⟨g, [a], ((past s [a]).writeP pd t).writeP pe (!t)⟩
  | .pand g pd pa pb na nb =>
    some ⟨g, [], (past s []).writeP pd (((curSlot s).readP pa ^^ na) && ((curSlot s).readP pb ^^ nb))⟩
  | .por g pd pa pb na nb =>
    some ⟨g, [], (past s []).writeP pd (((curSlot s).readP pa ^^ na) || ((curSlot s).readP pb ^^ nb))⟩
  | .pxor g pd pa pb na nb =>
    some ⟨g, [], (past s []).writeP pd (((curSlot s).readP pa ^^ na) ^^ ((curSlot s).readP pb ^^ nb))⟩
  | _ => none

/-- The words of R173 to R175, for a JMP and a CALLR whose target is aligned. -/
def branches (s : State) : Instr → Option Change
  | .br g off => some ⟨g, [], { past s [] with pc := .ofInt 64 ((curSlot s).pc.toInt + 8 * off.toInt) }⟩
  | .call g off =>
    some ⟨g, [], { (past s []).writeS 63 ((curSlot s).pc + 8) with pc := .ofInt 64 ((curSlot s).pc.toInt + 8 * off.toInt) }⟩
  | .jmp g a => if (val s a).toNat % 8 = 0 then some ⟨g, [a], { past s [a] with pc := val s a }⟩ else none
  | .callr g sd a =>
    if (val s a).toNat % 8 = 0 then some ⟨g, [a], { (past s [a]).writeS sd ((curSlot s).pc + 8) with pc := val s a }⟩ else none
  | .dbnz g sd a imm =>
    let y := (past s [a]).writeS sd (val s a - 1)
    some ⟨g, [a], if val s a = 1 then y else { y with pc := .ofInt 64 ((curSlot s).pc.toInt + 8 * imm.toInt) }⟩
  | _ => none

/-! The floating-point words (R161, R177 to R180). -/

/-- A floating-point word: what it writes, the flags it sets, and whether it uses mode 5. -/
structure FloatRow where
  g     : Guard
  sd    : Reg
  srcs  : List Src
  v     : Nat
  flags : BitVec 6
  draws : Bool

/-- An operand of the D bit: FP32 takes a[31:0] (R161). -/
def fpIn (s : State) (d : Bool) (a : Src) : Nat := if d then (val s a).toNat else (val s a).toNat % 2 ^ 32
/-- The effective mode (R66, R67). -/
def modeOf (s : State) (rm : BitVec 3) : BitVec 3 := if rm = 6 then (curSlot s).frm else rm
/-- A row of a word in mode m, over a result for the mode and the random word RNG32(key, ctr). -/
def rounded (s : State) (g : Guard) (sd : Reg) (rm : BitVec 3) (srcs : List Src)
    (f : BitVec 3 → BitVec 32 → Nat × BitVec 6) : Option FloatRow :=
  let m := modeOf s rm
  let r := f m (if m = 5 then rng32 (curSlot s).key (curSlot s).ctr else 0)
  some ⟨g, sd, srcs, r.1, r.2, m == 5⟩
/-- A row of a word that does not round. -/
def exactly (g : Guard) (sd : Reg) (srcs : List Src) (r : Nat × BitVec 6) : Option FloatRow :=
  some ⟨g, sd, srcs, r.1, r.2, false⟩

/-- The words of R177 to R180, over the number formats' own operations. -/
def floating (s : State) : Instr → Option FloatRow
  | .fadd g sd rm d a b => rounded s g sd rm [a, b] (fun m r => fpAdd (if d then fp64 else fp32) m r (fpIn s d a) (fpIn s d b))
  | .fsub g sd rm d a b => rounded s g sd rm [a, b] (fun m r => fpSub (if d then fp64 else fp32) m r (fpIn s d a) (fpIn s d b))
  | .fmul g sd rm d a b => rounded s g sd rm [a, b] (fun m r => fpMul (if d then fp64 else fp32) m r (fpIn s d a) (fpIn s d b))
  | .ffma g sd rm d a b c =>
    rounded s g sd rm [a, b, c] (fun m r => fpFma (if d then fp64 else fp32) m r (fpIn s d a) (fpIn s d b) (fpIn s d c))
  | .fdiv g sd rm d a b => rounded s g sd rm [a, b] (fun m r => fpDiv (if d then fp64 else fp32) m r (fpIn s d a) (fpIn s d b))
  | .fsqrt g sd rm d a => rounded s g sd rm [a] (fun m r => fpSqrt (if d then fp64 else fp32) m r (fpIn s d a))
  | .fexp2 g sd rm d a => rounded s g sd rm [a] (fun m r => fpExp2 (if d then fp64 else fp32) m r (fpIn s d a))
  | .flog2 g sd rm d a => rounded s g sd rm [a] (fun m r => fpLog2 (if d then fp64 else fp32) m r (fpIn s d a))
  | .fmin g sd d a b => exactly g sd [a, b] (fpMinMax (if d then fp64 else fp32) false (fpIn s d a) (fpIn s d b))
  | .fmax g sd d a b => exactly g sd [a, b] (fpMinMax (if d then fp64 else fp32) true (fpIn s d a) (fpIn s d b))
  | .fclass g sd d a => exactly g sd [a] (fpClass (if d then fp64 else fp32) (fpIn s d a), 0)
  | .fcvt g sd rm code a => rounded s g sd rm [a] (fun m r =>
      let lo := (val s a).toNat % 2 ^ 32
      let int (p : Int × BitVec 6) : Nat × BitVec 6 := ((BitVec.ofInt 64 p.1).toNat, p.2)
      if code = 0 then fpToFp fp32 fp64 m false r lo
      else if code = 1 then fpToFp fp64 fp32 m false r (val s a).toNat
      else if code = 2 then fpToFp fp32 bf16 m false r lo
      else if code = 3 then fpToFp bf16 fp32 m false r ((val s a).toNat % 2 ^ 16)
      else if code = 4 then int (fpToInt fp32 64 m r lo)
      else if code = 5 then int (fpToInt fp64 64 m r (val s a).toNat)
      else if code = 6 then intToFp fp32 m false r (val s a).toInt
      else if code = 7 then intToFp fp64 m false r (val s a).toInt
      else if code = 8 then int (fpToInt fp32 32 m r lo)
      else intToFp fp32 m false r ((val s a).setWidth 32).toInt)
  | _ => none

/-- The slot past a floating-point word, before its destination: mode 5 has drawn. -/
def drawn (x : Slot) (draws : Bool) : Slot := if draws then { x with ctr := x.ctr + 1 } else x

end Sys2Proof.Claim

open Sys2Proof Sys2Proof.Machine Sys2Proof.Claim

/-- Words of the spec's own listings, and words written out from the tables of R139 to R147, are read as the instructions that
they stand for; an engine word beyond its class is read as none (R146, R148). -/
def Obligations.SampleWordsDecode : Prop :=
  decodeBytes (toBytes 8 (0x0500430414000000 : BitVec 64)) = some (.add ⟨false, 5⟩ 3 ⟨1, false⟩ ⟨2, true⟩) ∧
  decodeBytes (toBytes 8 (0x002807F86B3FFFF0 : BitVec 64)) = some (.ld ⟨false, 0⟩ 7 ⟨62, false⟩ 3 1 6 false (-16)) ∧
  decodeBytes (toBytes 8 (0x00104184249FFFFF : BitVec 64)) = some (.cmpi ⟨false, 0⟩ 3 4 4 ⟨9, false⟩ (-1)) ∧
  decodeBytes (toBytes 8 (0x8F183FFFFFFFFFFD : BitVec 64)) = some (.br ⟨true, 15⟩ (-3)) ∧
  decodeBytes (toBytes 8 (0x0020CA2C60D88000 : BitVec 64)) = some (.ffma ⟨false, 0⟩ 10 0 true ⟨11, false⟩ ⟨12, false⟩ ⟨13, true⟩) ∧
  decodeBytes (toBytes 8 (0x003000285804D600 : BitVec 64)) = some (.aadd ⟨false, 0⟩ 0 ⟨10, false⟩ ⟨11, false⟩ 2 6 2 3) ∧
  decodeBytes (toBytes 8 (0x0041803000000000 : BitVec 64)) = some (.tagwaitall ⟨false, 0⟩ ⟨12, false⟩) ∧
  decodeBytes (toBytes 8 (0x0071400000000000 : BitVec 64)) = some (.eret ⟨false, 0⟩) ∧
  decodeBytes (toBytes 8 (0x0068090818000000 : BitVec 64)) = some (.txenc ⟨false, 0⟩ 9 ⟨2, false⟩ ⟨3, false⟩) ∧
  decodeBytes (toBytes 8 (0x0062881400000000 : BitVec 64)) = some (.acctest ⟨false, 0⟩ 8 ⟨5, false⟩) ∧
  decodeBytes (toBytes 8 (0x0000000000000000 : BitVec 64)) = some (.nop ⟨false, 0⟩) ∧
  decodeBytes (toBytes 2 (0x0003 : BitVec 16)) = some (.lit 3) ∧
  decodeBytes (toBytes 2 (0x4042 : BitVec 16)) = some (.cpy2d true false) ∧
  decodeBytes (toBytes 2 (0x5270 : BitVec 16)) = some (.mmas true true) ∧
  decodeBytes (toBytes 2 (0x8245 : BitVec 16)) = some (.vcvt 5) ∧
  decodeBytes (toBytes 2 (0x30C1 : BitVec 16)) = some (.loopw 1) ∧
  decodeBytes (toBytes 2 (0x2380 : BitVec 16)) = none

/-- What the encoder writes for a well-formed instruction, stored as the hardware stores it, the decoder reads as that
instruction: no bit of an operand is dropped (R136, R139 to R147). -/
def Obligations.EncodedInstructionsDecode : Prop := ∀ i bs, i.WellFormed → Stored i bs → decodeBytes bs = some i

/-- Bytes that the decoder reads as an instruction are those in which the hardware stores it, and the instruction is well
formed: no two words stand for one instruction, and a word with a field out of place stands for none (R141, R148). -/
def Obligations.DecodedBytesEncode : Prop := ∀ i bs, decodeBytes bs = some i → i.WellFormed ∧ Stored i bs

/-- Each word of R163 to R168 whose guard holds, with its sources live and not poisoned, writes the value that the rules give,
and changes nothing else but PC and the dead bits of its last uses. -/
def Obligations.ArithmeticWordsWriteTheirResult : Prop :=
  ∀ (s : State) (i : Instr) (r : Row), arithmetic (curSlot s) i = some r → Executes s r.g r.srcs → Clean s r.reads →
    Completes i s ((past s r.srcs).writeS r.sd r.v)

/-- R160: a word of R163 to R168 that reads a poisoned source executes without fault and writes 0 with the poison bit; SEL
propagates only the poison of the source it selects. -/
def Obligations.ArithmeticWordsPropagatePoison : Prop :=
  ∀ (s : State) (i : Instr) (r : Row), arithmetic (curSlot s) i = some r → Executes s r.g r.srcs → ¬ Clean s r.reads →
    Completes i s ((past s r.srcs).writePoison r.sd)

/-- R164, whole: DIV, DIVU, REM and REMU write the quotient and the remainder of the rule's text. -/
def Obligations.DivisionFollowsTheRule : Prop :=
  ∀ (s : State) (g : Guard) (sd : Reg) (a b : Src), Runs s g [a, b] →
    let sx := (val s a).toInt
    let sy := (val s b).toInt
    let ux : Int := (val s a).toNat
    let uy : Int := (val s b).toNat
    let sq : Int := if sy = 0 then 2 ^ 64 - 1 else if sx = -2 ^ 63 ∧ sy = -1 then 2 ^ 63 else Int.tdiv sx sy
    let sm : Int := if sy = 0 then sx else if sx = -2 ^ 63 ∧ sy = -1 then 0 else sx - Int.tdiv sx sy * sy
    let uq : Int := if uy = 0 then 2 ^ 64 - 1 else Int.tdiv ux uy
    let um : Int := if uy = 0 then ux else ux - Int.tdiv ux uy * uy
    Completes (.div g sd a b) s ((past s [a, b]).writeS sd (.ofInt 64 sq)) ∧
    Completes (.rem g sd a b) s ((past s [a, b]).writeS sd (.ofInt 64 sm)) ∧
    Completes (.divu g sd a b) s ((past s [a, b]).writeS sd (.ofInt 64 uq)) ∧
    Completes (.remu g sd a b) s ((past s [a, b]).writeS sd (.ofInt 64 um))

/-- What a destination write does (R137, R138, R158, R160): the scalar named takes the value and loses its dead and poison
bits; s0 discards it and reads 0; a poisoned result is 0 with the poison bit; a last use marks its register dead, and s0
never is. No other part of the slot changes. -/
def Obligations.RegisterWritesFrame : Prop :=
  ∀ (x : Slot) (sd r : Reg) (v : Word) (srcs : List Src) (p q : Pred) (b : Bool),
    (x.writeS sd v).readS r = (if r = sd ∧ r ≠ 0 then v else x.readS r) ∧
    (x.writeS sd v).poisoned r = (x.poisoned r && decide (r ≠ sd)) ∧
    (x.writeS sd v).isDead r = (x.isDead r && decide (r ≠ sd)) ∧
    { x.writeS sd v with scalars := x.scalars, poison := x.poison, dead := x.dead } = x ∧
    (x.writePoison sd).readS r = (if r = sd then 0 else x.readS r) ∧
    (x.writePoison sd).poisoned r = (if r = sd then decide (r ≠ 0) else x.poisoned r) ∧
    (x.writePoison sd).isDead r = (x.isDead r && decide (r ≠ sd)) ∧
    { x.writePoison sd with scalars := x.scalars, poison := x.poison, dead := x.dead } = x ∧
    ((x.markDead srcs).isDead r = true ↔ x.isDead r = true ∨ (r ≠ 0 ∧ ∃ a ∈ srcs, a.reg = r ∧ a.last = true)) ∧
    { x.markDead srcs with dead := x.dead } = x ∧
    (x.writeP p b).readP q = (if q = p ∧ q ≠ 0 then b else x.readP q) ∧
    { x.writeP p b with preds := x.preds } = x ∧ x.readS 0 = 0 ∧ x.readP 0 = true ∧ x.isDead 0 = false

/-- CMP, CMPI, PAND, POR and PXOR write their predicates, and nothing else but PC and the dead bits of last uses (R140, R169,
R171). A condition code of CMP or CMPI is 0 to 5. -/
def Obligations.PredicateWordsWriteTheirPredicates : Prop :=
  ∀ (s : State) (i : Instr) (c : Change), i.WellFormed → predicates s i = some c → Runs s c.g c.srcs → Completes i s c.y

/-- PGET and PPUT (R172): predicate 64 × grp + i moves to or from bit i; p0 reads 1 and is not written. -/
def Obligations.PredicateGroupsMove : Prop :=
  (∀ (s : State) (g : Guard) (sd : Reg) (grp : Bool), (curSlot s).guard g = true →
    ∃ v, Completes (.pget g sd grp) s ((past s []).writeS sd v) ∧
      ∀ i : Nat, i < 64 → v.getLsbD i = (curSlot s).readP (.ofNat 7 (64 * grp.toNat + i))) ∧
  (∀ (s : State) (g : Guard) (grp : Bool) (a : Src), Runs s g [a] →
    ∃ y, Completes (.pput g grp a) s y ∧ { y with preds := (curSlot s).preds } = past s [a] ∧
      ∀ p : Pred, y.readP p = if p.toNat / 64 = grp.toNat ∧ p ≠ 0 then (val s a).getLsbD (p.toNat % 64) else (curSlot s).readP p)

/-- Branches, calls and jumps go where R173 to R175 say, and write their link or count. -/
def Obligations.BranchesGoToTheirTarget : Prop :=
  ∀ (s : State) (i : Instr) (c : Change), branches s i = some c → Runs s c.g c.srcs → Completes i s c.y

/-- R174: a JMP or CALLR whose register holds no multiple of 8 raises the misalignment fault, and CALLR writes no link. -/
def Obligations.MisalignedJumpsFault : Prop :=
  ∀ (s : State) (g : Guard) (sd : Reg) (a : Src), Runs s g [a] → (val s a).toNat % 8 ≠ 0 →
    Raises (.jmp g a) s 0x05 (val s a) ∧ Raises (.callr g sd a) s 0x05 (val s a)

/-- Each word of R177 to R180 writes its result, ORs its flags into FFLAGS, and advances the random counter by 1 in mode 5
alone; a poisoned source gives 0 with poison and no flag, and mode 5 still draws (R71, R75, R160, R161). -/
def Obligations.FloatingWordsWriteTheirResult : Prop :=
  ∀ (s : State) (i : Instr) (r : FloatRow), floating s i = some r → Executes s r.g r.srcs →
    (Clean s r.srcs → Completes i s
      (({ drawn (past s r.srcs) r.draws with fflags := (curSlot s).fflags ||| r.flags } : Slot).writeS r.sd (.ofNat 64 r.v))) ∧
    (¬ Clean s r.srcs → Completes i s ((drawn (past s r.srcs) r.draws).writePoison r.sd))

namespace Sys2Proof.Claim

open Sys2Proof.Machine

/-! Exceptions (R347 to R354). -/

/-- The job of the issuing slot is no provisional job (R308, R309). -/
def NotProvisional (s : State) : Prop := ∀ j, (curSlot s).job = some j → j.card.pnode = none
/-- Codes of host class (R347): page not present and permission. -/
def HostClass (code : BitVec 8) : Prop := code = 0x06 ∨ code = 0x07
/-- Codes of fatal class (R347): segment overrun, trace divergence and security alarm. -/
def FatalClass (code : BitVec 8) : Prop := code = 0x12 ∨ code = 0x14 ∨ code = 0x17
/-- A handler can be entered (R350): TRAPVEC.EN = 1, STATUS.HND = 0, and the control stream has not executed JEND. -/
def HandlerReady (x : Slot) : Prop := x.trapVec.getLsbD 0 = true ∧ x.hnd = false ∧ x.jend = false
/-- The slot in its handler (R350), for a fault of the control stream: TRAPCAUSE holds the code and INFO, TRAPVAL the value,
TRAPPC the PC given; HND is set, SKIP and DNODE are clear, and PC is TRAPVEC[47:3] × 8. -/
def inHandler (x : Slot) (code : BitVec 8) (info : Word) (v pc : Word) : Slot :=
  { x with trapCause := info * 2 ^ 16 + code.setWidth 64, trapVal := v, trapPc := pc, hnd := true, skip := false, dnode := 0,
           wait := none, pc := x.trapVec &&& 0x0000_FFFF_FFFF_FFF8 }
/-- No fault of an engine stream or a channel is pending (R351, R392). -/
def NonePending (x : Slot) : Prop := (∀ e : Fin 4, (x.engs[e]).pending = none) ∧ ∀ c : Fin 2, (x.chans[c]).pending = none
/-- The fault that is taken next (R351, R392): of the lowest engine code, the copy stream's own before its channels', and channel 0's
before channel 1's. -/
def FirstPending (x : Slot) (f : FaultInfo) : Prop :=
  (∃ e : Fin 4, (x.engs[e]).pending = some f ∧ f.eng.val = e.val + 1 ∧ f.chan = none ∧ f.node = none ∧
    (∀ p : Fin 4, p < e → (x.engs[p]).pending = none) ∧ (e = 3 → ∀ c : Fin 2, (x.chans[c]).pending = none)) ∨
  ∃ c : Fin 2, (x.chans[c]).pending = some f ∧ f.eng = 3 ∧ f.chan = some c ∧ f.node = none ∧
    (∀ p : Fin 4, p < 3 → (x.engs[p]).pending = none) ∧ ∀ d : Fin 2, d < c → (x.chans[d]).pending = none
/-- The slot with a fault no longer pending. -/
def unpended (x : Slot) (f : FaultInfo) : Slot :=
  match f.chan with
  | some c => { x with chans := x.chans.set c { x.chans[c] with pending := none } }
  | none => { x with engs := Vector.ofFn (fun e : Fin 4 => if f.eng.val = e.val + 1 then { x.engs[e] with pending := none } else x.engs[e]) }
/-- TRAPCAUSE of a fault of an engine stream or a channel (R349). -/
def causeOf (f : FaultInfo) : Word :=
  .ofNat 64 (f.info.toNat * 2 ^ 16 + f.chan.isSome.toNat * 2 ^ 12 + f.eng.val * 2 ^ 8 + f.code.toNat)
/-- A channel of the slot by its bit. -/
def chanNo (ch : Bool) : Fin 2 := if ch then 1 else 0
/-- The state with the numbers drawn that taking an exception draws: the model's own count (log entry 2). -/
def drawn4 (s : State) : State := { s with fresh := s.fresh + 4 }

/-! Control and status registers (R144, R215, R216). -/

/-- The words of EFLT (R349). -/
def efltValue (y : EngStream) : Word :=
  .ofNat 64 (y.efltPc.toNat * 2 ^ 16 + y.efltCode.toNat * 2 ^ 8 + y.efltV.toNat)

/-- What each CSR of R144 reads as. -/
def csrValue (s : State) (n : BitVec 13) : Option Word :=
  let x := curSlot s
  let k := s.cur.slot.val
  [(0x001, x.trapVec), (0x002, x.trapCause), (0x003, x.trapPc), (0x004, x.trapVal),
    (0x005, .ofNat 64 (x.dnode.toNat * 256 + x.skip.toNat * 4 + (ctxPriv s x.ctx).toNat * 2 + x.hnd.toNat)),
    (0x010, .ofNat 64 x.ctx.toNat), (0x011, .ofNat 64 (k % 2)), (0x012, .ofNat 64 (k / 2)), (0x013, .ofNat 64 (k / 48)),
    (0x014, .ofNat 64 ((x.job.map Job.seq).getD 0)), (0x020, x.partw), (0x021, x.spoob), (0x022, x.poison), (0x023, x.dead),
    (0x024, .ofNat 64 x.fflags.toNat), (0x025, .ofNat 64 x.frm.toNat), (0x030, x.tags), (0x031, .ofNat 64 x.fmtq.length),
    (0x032, .ofNat 64 x.age.toNat), (0x040, x.sig), (0x041, .ofNat 64 x.detctl.toNat), (0x042, s.time),
    (0x050, efltValue x.engs[0]), (0x051, efltValue x.engs[1]), (0x052, efltValue x.engs[2]),
    (0x053, efltValue x.engs[3])].lookup n.toNat

/-- The slot with the fields of a CSR written: RW fields take v, and W1C fields lose the bits of c. Every CSR that is not named
has RO fields only (R67, R75, R95, R215, R216, R292, R349). -/
def csrWritten (x : Slot) (n : BitVec 13) (v c : Word) : Slot :=
  if n = 0x001 then { x with trapVec := v &&& 0x0000_FFFF_FFFF_FFF9 }
  else if n = 0x003 then { x with trapPc := v }
  else if n = 0x004 then { x with trapVal := v }
  else if n = 0x005 then { x with skip := v.getLsbD 2 }
  else if n = 0x021 then (if c.getLsbD 63 then { x with spoob := x.spoob &&& 0x7FFF_FFFF_FFFF_FFFF, spoobAt := none } else x)
  else if n = 0x022 then { x with poison := v &&& 0xFFFF_FFFF_FFFF_FFFE }
  else if n = 0x023 then { x with dead := v &&& 0xFFFF_FFFF_FFFF_FFFE }
  else if n = 0x024 then { x with fflags := v.setWidth 6 }
  else if n = 0x025 then (if v.toNat % 8 ≤ 5 then { x with frm := v.setWidth 3 } else x)
  else if n = 0x030 then { x with tags := x.tags &&& ~~~c, tagKnown := x.tagKnown.filter (fun p => !c.getLsbD p.1) }
  else if n = 0x032 then (if 8 ≤ v.toNat % 65536 ∧ v.toNat % 65536 ≤ 4096 then { x with age := v.setWidth 16 } else x)
  else x

/-! TLBINV (R109, R219). -/

/-- A TLBINV: the entries that it removes, the runs of lines that stand on a removed page, and the accesses of a slot through what it
removes. -/
structure Removal where
  word   : Instr
  entry  : TlbEntry → Prop
  run    : TileLine → TileRun → Prop
  access : Slot → Word → Prop

/-- A cached entry is global: G counts in leaves alone (R106). -/
def Global (e : TlbEntry) : Prop := (e.level = 3 ∨ e.entry.getLsbD 1 = true) ∧ e.entry.getLsbD 9 = true
/-- The three forms of an invalidation, for an operand that names an ASID in [11:0], or a page in [47:16] and its ASID in [63:52]. -/
def removalsOf (v : Word) (all byAsid byPage : Instr) : List Removal :=
  let asid : Ctx := v.setWidth 12
  let page := v.toNat / 2 ^ 16 % 2 ^ 32
  let pageAsid : Ctx := .ofNat 12 (v.toNat / 2 ^ 52)
  let onPage (e : TlbEntry) : Prop := e.vpage = page / (if e.level = 1 then 2 ^ 26 else if e.level = 2 then 2 ^ 13 else 1)
  [⟨all, fun _ => True, fun _ _ => True, fun _ _ => True⟩,
    ⟨byAsid, fun e => e.asid = asid ∧ ¬ Global e, fun l r => l.ctx = asid ∧ r.global = false, fun x _ => x.ctx = asid⟩,
    ⟨byPage, fun e => onPage e ∧ (e.asid = pageAsid ∨ Global e),
      fun l r => r.va.toNat / 2 ^ 16 % 2 ^ 32 ≤ page ∧ page ≤ (r.va.toNat + r.len - 1) / 2 ^ 16 % 2 ^ 32 ∧
        (l.ctx = pageAsid ∨ r.global = true),
      fun _ va => va.toNat / 2 ^ 16 % 2 ^ 32 = page⟩]

/-- TLBINV's three forms. -/
def removals (s : State) (g : Guard) (a : Src) : List Removal := removalsOf (val s a) (.tlbinvAll g a) (.tlbinvAsid g a) (.tlbinvPage g a)
/-- An invalidation has removed its entries from every TLB and walk cache, and those alone, and every line on a removed page; memory is as
before but for what lines and write-backs bring home (R109, R219). -/
def Removed (s t : State) (p : Removal) : Prop :=
  (∀ (c : Fin 96) (e : EngId) (x : TlbEntry), x ∈ (t.cores[c]).tlbs[e] ↔ x ∈ (s.cores[c]).tlbs[e] ∧ ¬ p.entry x) ∧
  (∀ (c : Fin 96) (x : TlbEntry), x ∈ (t.cores[c]).walks ↔ x ∈ (s.cores[c]).walks ∧ ¬ p.entry x) ∧
  (∀ l ∈ t.lines, l ∈ s.lines ∧ ∀ r ∈ l.runs, ¬ p.run l r) ∧
  ∀ b, (∀ l ∈ s.lines, ∀ r ∈ l.runs, ¬ (r.pa ≤ b ∧ b < r.pa + r.len)) → (∀ w ∈ s.writeBacks, ∀ q ∈ w.data, q.1 ≠ b) → SameByte s t b

/-- Some slot awaits the host's answer to an access through what a TLBINV removes (R109). -/
def InFlight (s : State) (p : Removal) : Prop :=
  ∃ k va pa n, (getSlot s k).reply = none ∧ p.access (getSlot s k) va ∧
    ((getSlot s k).await = some (.hostRead va pa n) ∨ (getSlot s k).await = some (.hostAtomic va pa n))

/-! System words that change the issuing slot alone. -/

/-- The words of R162, R185, R186, R203, R220, R221 and R323 to R325, where the wait of WAITCYC is over. -/
def system (s : State) : Instr → Option Change
  | .nop g => some ⟨g, [], past s []⟩
  | .pref g a _ => some ⟨g, [a], past s [a]⟩
  | .chk g a => some ⟨g, [a], past s [a]⟩
  | .jend g => some ⟨g, [], { past s [] with jend := true }⟩
  | .cyc g sd => some ⟨g, [], (past s []).writeS sd s.dcc⟩
  | .waitcyc g a => if (val s a).toNat ≤ s.dcc.toNat then some ⟨g, [a], past s [a]⟩ else none
  | .sigmix g a => some ⟨g, [a], { past s [a] with sig := sigFold (curSlot s).sig (val s a) }⟩
  | .rndc g sd => some ⟨g, [],
      ({ past s [] with ctr := (curSlot s).ctr + 1 } : Slot).writeS sd (.ofNat 64 (rng32 (curSlot s).key (curSlot s).ctr).toNat)⟩
  | .rngset g e a b =>
    let y := { past s [a, b] with sig := sigFold (curSlot s).sig (val s a) }
    if e = 0 then some ⟨g, [a, b], { y with key := val s a, ctr := val s b }⟩
    else if h : 1 ≤ e.toNat ∧ e.toNat ≤ 4 then
      some ⟨g, [a, b], { y with engs := y.engs.set (e.toNat - 1) { y.engs[e.toNat - 1] with key := val s a, ctr := val s b } }⟩
    else none
  | .rngget g sd e w =>
    if e = 0 then some ⟨g, [], (past s []).writeS sd (if w then (curSlot s).ctr else (curSlot s).key)⟩
    else if h : 1 ≤ e.toNat ∧ e.toNat ≤ 4 then
      let y := (curSlot s).engs[e.toNat - 1]
      some ⟨g, [], (past s []).writeS sd (if w then y.ctr else y.key)⟩
    else none
  | _ => none

end Sys2Proof.Claim

/-- The quiet and the signalling NaNs of FP32 (D = 0) and FP64. -/
abbrev Sys2Proof.Claim.IsNaN (d : Bool) (v : Nat) : Prop :=
  if d then v / 2 ^ 52 % 2 ^ 11 = 2 ^ 11 - 1 ∧ v % 2 ^ 52 ≠ 0 else v / 2 ^ 23 % 2 ^ 8 = 2 ^ 8 - 1 ∧ v % 2 ^ 23 ≠ 0
abbrev Sys2Proof.Claim.Signals (d : Bool) (v : Nat) : Prop := IsNaN d v ∧ if d then v % 2 ^ 52 < 2 ^ 51 else v % 2 ^ 23 < 2 ^ 22
/-- The number that an encoding stands for, an infinity being above or below every rational (R58, R59). -/
def Sys2Proof.Claim.number (d : Bool) (v : Nat) : WithBot (WithTop ℚ) :=
  let x : ℕ := if d then 11 else 8
  let f : ℕ := if d then 52 else 23
  let bias : ℤ := if d then 1023 else 127
  let sign : ℚ := if v / 2 ^ (x + f) % 2 = 1 then -1 else 1
  let e := v / 2 ^ f % 2 ^ x
  if e = 2 ^ x - 1 then (if sign = 1 then ((⊤ : WithTop ℚ) : WithBot (WithTop ℚ)) else ⊥)
  else if e = 0 then ((sign * (v % 2 ^ f : ℕ) * (2 : ℚ) ^ (1 - bias - (f : ℤ)) : ℚ) : WithTop ℚ)
  else ((sign * (2 ^ f + v % 2 ^ f : ℕ) * (2 : ℚ) ^ ((e : ℤ) - bias - (f : ℤ)) : ℚ) : WithTop ℚ)

/-- FCMP (R170): pd takes the condition on the numbers that the operands stand for, pe its complement; NV is set for a
signalling NaN, and by flt and fle for any NaN; no other flag changes. -/
def Obligations.FloatComparesFollowTheRule : Prop :=
  ∀ (s : State) (g : Guard) (pd pe : Pred) (cc : BitVec 4) (d : Bool) (a b : Src), Runs s g [a, b] →
    8 ≤ cc.toNat → cc.toNat ≤ 12 →
    let x := fpIn s d a
    let y := fpIn s d b
    let nan := IsNaN d x ∨ IsNaN d y
    ∃ (t nv : Bool),
      (t = true ↔ if cc = 8 then ¬ nan ∧ number d x = number d y else if cc = 9 then nan ∨ number d x ≠ number d y
        else if cc = 10 then ¬ nan ∧ number d x < number d y else if cc = 11 then ¬ nan ∧ number d x ≤ number d y else nan) ∧
      (nv = true ↔ if cc = 10 ∨ cc = 11 then nan else Signals d x ∨ Signals d y) ∧
      Completes (.fcmp g pd pe cc d a b) s
        ((({ past s [a, b] with fflags := (curSlot s).fflags ||| (if nv then 0x10 else 0) } : Slot).writeP pd t).writeP pe (!t))

/-- R74 for the words of R177: a NaN operand gives the canonical NaN, with NV exactly when an operand signals; ∞ − ∞, 0 × ∞,
0 / 0, ∞ / ∞, the square root of a value below −0 and the logarithm of one below zero give it with NV, and FFMA of 0 × ∞ or of
∞ × y − ∞. Each for every sign that its operands may have. -/
def Obligations.NanResultsAreCanonical : Prop :=
  ∀ (d : Bool) (m : BitVec 3) (r : BitVec 32) (a b c : Nat),
    a < 2 ^ (if d then 64 else 32) → b < 2 ^ (if d then 64 else 32) → c < 2 ^ (if d then 64 else 32) →
    let t := if d then fp64 else fp32
    let canon : Nat := if d then 0x7FF8_0000_0000_0000 else 0x7FC0_0000
    let quietNaN : Nat × BitVec 6 := (canon, 0)
    let invalid : Nat × BitVec 6 := (canon, 0x10)
    let top : WithBot (WithTop ℚ) := ((⊤ : WithTop ℚ) : WithBot (WithTop ℚ))
    let inf (v : Nat) : Prop := number d v = top ∨ number d v = ⊥
    let zero (v : Nat) : Prop := number d v = ((0 : ℚ) : WithTop ℚ)
    ((IsNaN d a ∨ IsNaN d b) → ∀ v ∈ [fpAdd t m r a b, fpSub t m r a b, fpMul t m r a b, fpDiv t m r a b],
      (¬ (Signals d a ∨ Signals d b) → v = quietNaN) ∧ (Signals d a ∨ Signals d b → v = invalid)) ∧
    ((IsNaN d a ∨ IsNaN d b ∨ IsNaN d c) → ¬ (Signals d a ∨ Signals d b ∨ Signals d c) →
      (fpFma t m r a b c).1 = canon) ∧
    (Signals d a ∨ Signals d b ∨ Signals d c → fpFma t m r a b c = invalid) ∧
    (∀ v ∈ [fpSqrt t m r a, fpExp2 t m r a, fpLog2 t m r a],
      (IsNaN d a → ¬ Signals d a → v = quietNaN) ∧ (Signals d a → v = invalid)) ∧
    (¬ IsNaN d a → number d a < ((0 : ℚ) : WithTop ℚ) → fpSqrt t m r a = invalid ∧ fpLog2 t m r a = invalid) ∧
    (¬ IsNaN d a → ¬ IsNaN d b →
      (inf a → inf b → number d a ≠ number d b → fpAdd t m r a b = invalid) ∧
      (inf a → inf b → number d a = number d b → fpSub t m r a b = invalid) ∧
      (inf a → inf b → fpDiv t m r a b = invalid) ∧
      (zero a → zero b → fpDiv t m r a b = invalid) ∧
      (inf a ∧ zero b ∨ zero a ∧ inf b → fpMul t m r a b = invalid ∧ (¬ IsNaN d c → fpFma t m r a b c = invalid)) ∧
      (¬ IsNaN d c → inf c → inf a ∧ ¬ zero b ∨ inf b ∧ ¬ zero a →
        (number d c = top ↔ ¬ ((number d a < ((0 : ℚ) : WithTop ℚ)) ↔ (number d b < ((0 : ℚ) : WithTop ℚ)))) →
        fpFma t m r a b c = invalid))

namespace Sys2Proof.Claim
open Sys2Proof.Machine

/-! Results on finite operands (R57 to R64, R66, R68, R70, R72, R73, R75, R76, R79). -/

/-- A floating format: exponent bits, fraction bits, and whether it has infinities (R58 to R61). -/
structure Fmt where
  x   : Nat
  f   : Nat
  inf : Bool
def Fmt.bias (F : Fmt) : Int := 2 ^ (F.x - 1) - 1
/-- The value of an encoding; none for an infinity or a NaN. -/
def Fmt.value (F : Fmt) (v : Nat) : Option ℚ :=
  let e := v / 2 ^ F.f % 2 ^ F.x
  let g : ℚ := ((v % 2 ^ F.f : Nat) : ℚ) / 2 ^ F.f
  let sign : ℚ := if v / 2 ^ (F.x + F.f) % 2 = 1 then -1 else 1
  if e = 2 ^ F.x - 1 ∧ (F.inf = true ∨ v % 2 ^ F.f = 2 ^ F.f - 1) then none
  else some (sign * (if e = 0 then g * 2 ^ (1 - F.bias) else (1 + g) * 2 ^ ((e : Int) - F.bias)))
/-- The magnitude that follows the largest finite one where the exponent range does not end (R68). -/
def Fmt.next (F : Fmt) : ℚ := if F.inf then 2 ^ (F.bias + 1) else (2 - 1 / 2 ^ F.f) * 2 ^ (F.bias + 1)
/-- FP64 (d) or FP32, BF16, and the formats with infinities in which arithmetic is done. -/
def floatFmt (d : Bool) : Fmt := if d then ⟨11, 52, true⟩ else ⟨8, 23, true⟩
def bfloat : Fmt := ⟨8, 7, true⟩
def arithmeticFmts : List (FpFmt × Fmt) := [(fp64, floatFmt true), (fp32, floatFmt false), (bf16, bfloat)]

/-- The value y is z rounded in a mode: each mode by what it is among all the values of the format and the magnitude beyond them. -/
def Nearest (F : Fmt) (m : BitVec 3) (z : ℝ) (even : Prop) (y : ℚ) : Prop :=
  ∀ u, (∃ w, F.value w = some u) ∨ |u| = F.next →
    (m = 0 ∨ m = 4 → |(y : ℝ) - z| ≤ |(u : ℝ) - z|) ∧
    (m = 0 → u ≠ y → |(u : ℝ) - z| = |(y : ℝ) - z| → even) ∧
    (m = 4 → |(u : ℝ) - z| = |(y : ℝ) - z| → |u| ≤ |y|) ∧
    (m = 1 → |(y : ℝ)| ≤ |z| ∧ (|(u : ℝ)| ≤ |z| → |u| ≤ |y|)) ∧
    (m = 2 → (y : ℝ) ≤ z ∧ ((u : ℝ) ≤ z → u ≤ y)) ∧
    (m = 3 → z ≤ (y : ℝ) ∧ (z ≤ (u : ℝ) → y ≤ u)) ∧
    (m = 5 → ¬ (min (y : ℝ) z < u ∧ (u : ℝ) < max (y : ℝ) z))
/-- A result and its flags are z rounded once in a mode, with or without saturation (R68, R73, R75). -/
def Rounds (F : Fmt) (sat : Bool) (m : BitVec 3) (z : ℝ) (w : Nat × BitVec 6) : Prop :=
  let sign : Nat := if z < 0 then 2 ^ (F.x + F.f) else 0
  (w.2.getLsbD 2 = true → w.2 = 0x05 ∧ (F.next ≤ |z| ∨ Nearest F m z (F.inf = true) (if z < 0 then -F.next else F.next)) ∧
    w.1 = if sat = true ∨ m = 1 ∨ (m = 2 ∧ 0 < z) ∨ (m = 3 ∧ z < 0) then
        sign + (if F.inf then (2 ^ F.x - 1) * 2 ^ F.f - 1 else 2 ^ (F.x + F.f) - 2)
      else if F.inf then sign + (2 ^ F.x - 1) * 2 ^ F.f else 2 ^ (F.x + F.f) - 1) ∧
  (w.2.getLsbD 2 = false → |z| < F.next ∧ ∃ y, F.value w.1 = some y ∧ w.1 < 2 ^ (1 + F.x + F.f) ∧ Nearest F m z (w.1 % 2 = 0) y ∧
    (z ≠ 0 → w.1 / 2 ^ (F.x + F.f) = if z < 0 then 1 else 0) ∧ w.2 &&& 0x38 = 0 ∧
    (w.2.getLsbD 0 = true ↔ (y : ℝ) ≠ z) ∧
    (w.2.getLsbD 1 = true ↔ (y : ℝ) ≠ z ∧ y ≠ 0 ∧ |(y : ℝ)| < 2 ^ (1 - F.bias)))

/-- An integer is z rounded in a mode (R78); stochastic rounding gives one of the two beside it. -/
def RoundsInt (m : BitVec 3) (z : ℚ) (k : Int) : Prop :=
  |z - k| < 1 ∧ (m = 0 → |z - k| ≤ 1 / 2 ∧ (|z - k| = 1 / 2 → k % 2 = 0)) ∧ (m = 1 → |(k : ℚ)| ≤ |z|) ∧ (m = 2 → (k : ℚ) ≤ z) ∧
  (m = 3 → z ≤ k) ∧ (m = 4 → |z - k| ≤ 1 / 2 ∧ (|z - k| = 1 / 2 → |z| ≤ |(k : ℚ)|))
/-- A conversion of a number to an integer of w bits (R78). -/
def ConvertsInt (w : Nat) (m : BitVec 3) (z : ℚ) (q : Int × BitVec 6) : Prop :=
  ∃ k, RoundsInt m z k ∧
    (k < -2 ^ (w - 1) → q = (-2 ^ (w - 1), 0x10)) ∧ (2 ^ (w - 1) ≤ k → q = (2 ^ (w - 1) - 1, 0x10)) ∧
    (-2 ^ (w - 1) ≤ k → k < 2 ^ (w - 1) → q = (k, if (k : ℚ) = z then 0 else 0x01))

/-- The arithmetic of R76, R177 and R243 on finite numbers: the exact result rounded once; the special operands of R72 and R76. -/
def ArithmeticRounds (t : FpFmt) (F : Fmt) (m : BitVec 3) (r : BitVec 32) (a b c : Nat) : Prop :=
  let w := F.x + F.f
  let inf : Nat := (2 ^ F.x - 1) * 2 ^ F.f
  ∀ p q : ℚ, F.value a = some p → F.value b = some q →
    Rounds F false m (p + q : ℚ) (fpAdd t m r a b) ∧ Rounds F false m (p - q : ℚ) (fpSub t m r a b) ∧ Rounds F false m (p * q : ℚ) (fpMul t m r a b) ∧
    (p ≠ 0 → p + q = 0 → (fpAdd t m r a b).1 = if m = 2 then 2 ^ w else 0) ∧ (p ≠ 0 → p - q = 0 → (fpSub t m r a b).1 = if m = 2 then 2 ^ w else 0) ∧
    (∀ z : ℚ, F.value c = some z → Rounds F false m (p * q + z : ℚ) (fpFma t m r a b c) ∧
      (p * q ≠ 0 → p * q + z = 0 → (fpFma t m r a b c).1 = if m = 2 then 2 ^ w else 0)) ∧
    (q ≠ 0 → Rounds F false m (p / q : ℚ) (fpDiv t m r a b)) ∧
    (q = 0 → p ≠ 0 → fpDiv t m r a b = ((if a / 2 ^ w = b / 2 ^ w then 0 else 2 ^ w) + inf, 0x08)) ∧
    (0 < p → Rounds F false m (Real.sqrt p) (fpSqrt t m r a)) ∧ (p = 0 → fpSqrt t m r a = (a, 0)) ∧
    (p ≠ 0 → Rounds F false m (1 / p : ℚ) (fpRcp t m r a)) ∧ (0 < p → Rounds F false m (1 / Real.sqrt p) (fpRsqrt t m r a)) ∧
    (p = 0 → fpRcp t m r a = (a + inf, 0x08) ∧ fpRsqrt t m r a = (a + inf, 0x08))
/-- The powers and logarithms of R76: integer powers and the logarithms of powers of two exactly rounded; all others between those
beside them. (That every result is the exact one rounded once rests on the precision of log entry 9.) -/
def PowersRound (t : FpFmt) (F : Fmt) (m : BitVec 3) (r : BitVec 32) (a : Nat) : Prop :=
  let inf : Nat := (2 ^ F.x - 1) * 2 ^ F.f
  let neg : Nat := 2 ^ (F.x + F.f)
  fpExp2 t m r inf = (inf, 0) ∧ fpExp2 t m r (neg + inf) = (0, 0) ∧ fpLog2 t m r inf = (inf, 0) ∧
  fpLog2 t m r 0 = (neg + inf, 0x08) ∧ fpLog2 t m r neg = (neg + inf, 0x08) ∧ fpRcp t m r inf = (0, 0) ∧ fpRcp t m r (neg + inf) = (neg, 0) ∧
  fpRsqrt t m r inf = (0, 0) ∧
  ∀ p : ℚ, F.value a = some p →
    (∀ n : Int, p = n → Rounds F false m ((2 : ℝ) ^ n) (fpExp2 t m r a)) ∧
    (∀ n : Int, -126 ≤ n → n < 127 → (n : ℚ) < p → p < n + 1 →
      ∃ y : ℚ, F.value (fpExp2 t m r a).1 = some y ∧ (2 : ℚ) ^ n ≤ y ∧ y ≤ 2 ^ (n + 1) ∧ (fpExp2 t m r a).2 = 0x01) ∧
    (∀ n : Int, p = 2 ^ n → Rounds F false m (n : ℝ) (fpLog2 t m r a)) ∧
    (∀ n : Int, (2 : ℚ) ^ n < p → p < 2 ^ (n + 1) → ∃ y : ℚ, F.value (fpLog2 t m r a).1 = some y ∧ (n : ℚ) ≤ y ∧ y ≤ n + 1)
/-- FMIN, FMAX and FCLASS (R178, R180). -/
def ChoosesAndClasses (d : Bool) (a b : Nat) : Prop :=
  let t := if d then fp64 else fp32
  let neg : Nat := if d then 2 ^ 63 else 2 ^ 31
  let flags : BitVec 6 := if Signals d a ∨ Signals d b then 0x10 else 0
  (¬ IsNaN d a → ¬ IsNaN d b →
    (number d a < number d b ∨ (number d a = number d b ∧ neg ≤ a) → fpMinMax t false a b = (a, 0) ∧ fpMinMax t true a b = (b, 0)) ∧
    (number d b < number d a ∨ (number d a = number d b ∧ a < neg) → fpMinMax t false a b = (b, 0) ∧ fpMinMax t true a b = (a, 0))) ∧
  (∀ top, (IsNaN d a → ¬ IsNaN d b → fpMinMax t top a b = (b, flags)) ∧ (¬ IsNaN d a → IsNaN d b → fpMinMax t top a b = (a, flags)) ∧
    (IsNaN d a → IsNaN d b → fpMinMax t top a b = (if d then 0x7FF8_0000_0000_0000 else 0x7FC0_0000, flags))) ∧
  (IsNaN d a → fpClass t a = if Signals d a then 2 ^ 8 else 2 ^ 9) ∧
  (¬ IsNaN d a → (floatFmt d).value a = none → fpClass t a = if neg ≤ a then 2 ^ 0 else 2 ^ 7) ∧
  ∀ p : ℚ, (floatFmt d).value a = some p →
    let least : ℚ := if d then 2 ^ (-1022 : Int) else 2 ^ (-126 : Int)
    fpClass t a = if p = 0 then (if neg ≤ a then 2 ^ 3 else 2 ^ 4) else if p < 0 then (if p ≤ -least then 2 ^ 1 else 2 ^ 2)
      else if p < least then 2 ^ 5 else 2 ^ 6
/-- The conversions of FCVT (R77 to R79, R179) on the source's bits v. -/
def ConvertsByTheTable (m : BitVec 3) (r : BitVec 32) (v : Nat) : Prop :=
  let double := floatFmt true
  let single := floatFmt false
  (∀ p, double.value v = some p → Rounds single false m p (fpToFp fp64 fp32 m false r v) ∧ ConvertsInt 64 m p (fpToInt fp64 64 m r v)) ∧
  (v < 2 ^ 32 → ∀ p, single.value v = some p →
    Rounds bfloat false m p (fpToFp fp32 bf16 m false r v) ∧ ConvertsInt 64 m p (fpToInt fp32 64 m r v) ∧ ConvertsInt 32 m p (fpToInt fp32 32 m r v) ∧
    double.value (fpToFp fp32 fp64 m false r v).1 = some p ∧ (fpToFp fp32 fp64 m false r v).2 = 0) ∧
  (v < 2 ^ 16 → ∀ p, bfloat.value v = some p → single.value (fpToFp bf16 fp32 m false r v).1 = some p ∧ (fpToFp bf16 fp32 m false r v).2 = 0) ∧
  (∀ i : Int, -2 ^ 63 ≤ i → i < 2 ^ 63 → Rounds single false m i (intToFp fp32 m false r i) ∧ Rounds double false m i (intToFp fp64 m false r i)) ∧
  -- infinities and NaNs
  (∀ neg : Bool, let s (n : Nat) : Nat := if neg then 2 ^ n else 0
    let bound (w : Nat) : Int × BitVec 6 := (if neg then -2 ^ (w - 1) else 2 ^ (w - 1) - 1, 0x10)
    (v = s 63 + 0x7FF0_0000_0000_0000 → fpToFp fp64 fp32 m false r v = (s 31 + 0x7F80_0000, 0) ∧ fpToInt fp64 64 m r v = bound 64) ∧
    (v = s 31 + 0x7F80_0000 → fpToFp fp32 fp64 m false r v = (s 63 + 0x7FF0_0000_0000_0000, 0) ∧
      fpToFp fp32 bf16 m false r v = (s 15 + 0x7F80, 0) ∧ fpToInt fp32 64 m r v = bound 64 ∧ fpToInt fp32 32 m r v = bound 32) ∧
    (v = s 15 + 0x7F80 → fpToFp bf16 fp32 m false r v = (s 31 + 0x7F80_0000, 0))) ∧
  (IsNaN true v → fpToFp fp64 fp32 m false r v = (0x7FC0_0000, if Signals true v then 0x10 else 0) ∧ fpToInt fp64 64 m r v = (0, 0x10)) ∧
  (IsNaN false v → fpToFp fp32 fp64 m false r v = (0x7FF8_0000_0000_0000, if Signals false v then 0x10 else 0) ∧
    fpToFp fp32 bf16 m false r v = (0x7FC0, if Signals false v then 0x10 else 0) ∧ fpToInt fp32 64 m r v = (0, 0x10) ∧
    fpToInt fp32 32 m r v = (0, 0x10))

/-! Elements by the codes of R57, and their conversion (R77 to R79, R245). -/

def codeFmt (c : Nat) : Option Fmt :=
  match c with
  | 0 => some ⟨4, 3, false⟩
  | 1 => some ⟨5, 2, true⟩
  | 4 => some bfloat
  | 5 => some (floatFmt false)
  | _ => none
/-- Bytes of an element. -/
def codeSize (c : Nat) : Nat := if c < 4 then 1 else if c = 4 then 2 else 4
/-- A TS8 element: the sum of its two terms (R63). -/
def tsValue (v : Nat) : ℚ :=
  let term (s e : Nat) : ℚ := if e = 7 then 0 else (if s = 1 then -1 else 1) / 2 ^ e
  term (v / 128 % 2) (v / 16 % 8) + term (v / 8 % 2) (v % 8)
/-- The value of an element; none for an infinity or a NaN. -/
def codeValue (c v : Nat) : Option ℚ :=
  match codeFmt c with
  | some F => F.value v
  | none => some (if c = 3 then tsValue v else (BitVec.ofNat (8 * codeSize c) v).toInt)
/-- The canonical encodings of TS8 (R79). -/
def TsCanonical (v : Nat) : Prop :=
  let one (u : Nat) : Prop := u / 16 % 8 < u % 8 ∧ u % 8 < 7
  let like (u : Nat) : Prop := u / 128 % 2 = u / 8 % 2
  if tsValue v = 0 then v = 0x77 else if tsValue v = 2 then v = 0x00 else if tsValue v = -2 then v = 0x88
  else if ∃ k < 7, |tsValue v| = 1 / 2 ^ k then v % 8 = 7 ∧ like v
  else one v ∧ (like v ∨ ∀ u < 256, one u → tsValue u = tsValue v → ¬ like u)
/-- A number becomes the nearest TS8 value, a tie the smaller magnitude (R79). -/
def RoundsTs (z : ℚ) (w : Nat × BitVec 6) : Prop :=
  w.1 < 256 ∧ TsCanonical w.1 ∧ w.2 = (if tsValue w.1 = z then 0 else 0x01) ∧
  ∀ u < 256, |z - tsValue w.1| ≤ |z - tsValue u| ∧ (|z - tsValue w.1| = |z - tsValue u| → |tsValue w.1| ≤ |tsValue u|)
/-- VCVT of one element between two formats: finite numbers, infinities and NaNs. An integer target clamps with NV (R78; log entry 21). -/
def ConvertsElement (src dst : Nat) (m : BitVec 3) (sat : Bool) (r : BitVec 32) (v : Nat) : Prop :=
  let w := convertElem src dst m sat r v
  let bits := 8 * codeSize dst
  let bounded (q : Int × BitVec 6) : Prop := w = ((q.1 % 2 ^ bits).toNat, q.2)
  (src = dst → w = (v, 0)) ∧
  (src ≠ dst →
    (∀ p, codeValue src v = some p →
      (∀ F, codeFmt dst = some F → Rounds F (sat && decide (bits = 8)) m p w) ∧
      (dst = 2 ∨ dst = 6 → ∃ q, ConvertsInt bits m p q ∧ bounded q) ∧ (dst = 3 → RoundsTs p w)) ∧
    ∀ F, codeFmt src = some F → F.value v = none →
      let neg := v / 2 ^ (F.x + F.f) % 2 = 1
      let nan := F.inf = false ∨ v % 2 ^ F.f ≠ 0
      (nan →
        let flag : BitVec 6 := if (src = 4 ∨ src = 5) ∧ v % 2 ^ F.f < 2 ^ (F.f - 1) then 0x10 else 0
        (∀ G, codeFmt dst = some G → w = (if G.inf then (2 ^ G.x - 1) * 2 ^ G.f + 2 ^ (G.f - 1) else 0x7F, flag)) ∧
        (dst = 2 ∨ dst = 6 → w = (0, 0x10)) ∧ (dst = 3 → w = (0x77, 0x10))) ∧
      (¬ nan →
        (∀ G, codeFmt dst = some G → ∃ u, w = (u, 0) ∧
          let sign : Nat := if neg then 2 ^ (G.x + G.f) else 0
          u = if G.inf then (if sat = true ∧ bits = 8 then sign + (2 ^ G.x - 1) * 2 ^ G.f - 1 else sign + (2 ^ G.x - 1) * 2 ^ G.f)
            else if sat = true ∨ m = 1 ∨ (m = 2 ∧ ¬ neg) ∨ (m = 3 ∧ neg) then sign + 0x7E else 0x7F) ∧
        (dst = 2 ∨ dst = 6 → bounded (if neg then -2 ^ (bits - 1) else 2 ^ (bits - 1) - 1, 0x10)) ∧
        (dst = 3 → w = (if neg then 0x88 else 0x00, 0x01))))

end Sys2Proof.Claim

open Sys2Proof Sys2Proof.Machine Sys2Proof.Claim

/-- The results of R177 to R180, and of the vector words that compute like them (R76, R243, R245), on ordinary operands. A sum,
difference or product of finite numbers that sets no flag is exact, in every mode: NX and OF tell every result that is not (R68, R73, R75).
Sums, differences, products, fused products, quotients, square roots, reciprocals and their roots are, in FP64, FP32 and BF16, the exact
result rounded once in each mode, with the flags and the overflow row of R68 and R75; powers and logarithms are so where they are exact, and
lie between those beside them (log entry 9); FMIN and FMAX choose, FCLASS classes, FCVT converts by its table, and an element converts
between any two of the formats of R57 by R77 to R79. -/
def Obligations.UnflaggedResultsAreExact : Prop :=
  (∀ (d : Bool) (m : BitVec 3) (r : BitVec 32) (a b : Nat) (p q : ℚ),
    a < 2 ^ (if d then 64 else 32) → b < 2 ^ (if d then 64 else 32) → ¬ IsNaN d a → ¬ IsNaN d b →
    number d a = (p : WithTop ℚ) → number d b = (q : WithTop ℚ) →
    let t := if d then fp64 else fp32
    ((fpAdd t m r a b).2 = 0 → number d (fpAdd t m r a b).1 = ((p + q : ℚ) : WithTop ℚ)) ∧
    ((fpSub t m r a b).2 = 0 → number d (fpSub t m r a b).1 = ((p - q : ℚ) : WithTop ℚ)) ∧
    ((fpMul t m r a b).2 = 0 → number d (fpMul t m r a b).1 = ((p * q : ℚ) : WithTop ℚ))) ∧
  ∀ (d : Bool) (m : BitVec 3) (r : BitVec 32) (a b c : Nat), m.toNat ≤ 5 →
    (a < 2 ^ (if d then 64 else 32) → b < 2 ^ (if d then 64 else 32) → ChoosesAndClasses d a b) ∧ (∀ v, v < 2 ^ 64 → ConvertsByTheTable m r v) ∧
    (∀ t ∈ arithmeticFmts, a < 2 ^ (1 + t.2.x + t.2.f) → b < 2 ^ (1 + t.2.x + t.2.f) → c < 2 ^ (1 + t.2.x + t.2.f) →
      ArithmeticRounds t.1 t.2 m r a b c ∧ PowersRound t.1 t.2 m r a) ∧
    (∀ src dst sat, src ≤ 6 → dst ≤ 6 → ∀ v, v < 2 ^ (8 * codeSize src) → ConvertsElement src dst m sat r v)

/-- A control word whose guard is false only advances PC by 8 (R137), whatever its sources hold; the checks of R141 come first,
so its feature is accepted and its operands are permitted. -/
def Obligations.FalseGuardsSkip : Prop :=
  ∀ (s : State) (i : Instr) (g : Guard) (srcs : List Src), operands i = some (g, srcs) → Permitted s i →
    (curSlot s).guard g = false → Completes i s { curSlot s with pc := (curSlot s).pc + 8, wait := none }

/-- A control word that executes and reads a dead scalar raises code 0x03 with the number of the first in field order, before
any effect (R138, R141). -/
def Obligations.DeadSourcesFault : Prop :=
  ∀ (s : State) (i : Instr) (g : Guard) (before after : List Src) (a : Src), operands i = some (g, before ++ a :: after) →
    Permitted s i → (curSlot s).guard g = true → (∀ b ∈ before, (curSlot s).isDead b.reg = false) →
    (curSlot s).isDead a.reg = true → exec i s = .next (controlFault s (0x03, .ofNat 64 a.reg.toNat))

/-- A control word that consumes poison raises code 0x04 with the number of the first poisoned source, before any effect (R160,
R181): every word but those of R163 to R168 and R177 to R180, and LD with .spec. -/
def Obligations.PoisonedSourcesFault : Prop :=
  ∀ (s : State) (i : Instr) (g : Guard) (before after : List Src) (a : Src), operands i = some (g, before ++ a :: after) →
    Permitted s i → Executes s g (before ++ a :: after) → arithmetic (curSlot s) i = none → floating s i = none →
    (∀ g sd a size order scope off, i ≠ .ld g sd a size order scope true off) →
    (∀ b ∈ before, (curSlot s).poisoned b.reg = false) → (curSlot s).poisoned a.reg = true →
    Raises i s 0x04 (.ofNat 64 a.reg.toNat)

/-- A word of a feature that is not accepted raises the illegal-instruction fault with the word; a privileged word or operand in
a context that is not privileged raises the privileged fault with the word, whatever its guard (R4, R114, R141, R219, R292). -/
def Obligations.RefusedWordsFault : Prop :=
  ∀ (s : State) (i : Instr) (w : Word), encodeControl i = some w →
    (¬ Accepted s i → exec i s = .next (controlFault s (0x01, w))) ∧
    (Accepted s i → needsPrivilege i = true → ctxPriv s (curSlot s).ctx = false →
      exec i s = .next (controlFault s (0x02, w)))

/-- R350: a program-class fault of the control stream enters the handler when one can be entered: the trap registers are
written, HND set, SKIP and DNODE cleared, and PC goes to the handler; nothing else of the module changes. -/
def Obligations.HandlerEntryFollowsTheRule : Prop :=
  ∀ (s : State) (code : BitVec 8) (v : Word), NotProvisional s → ¬ HostClass code → ¬ FatalClass code →
    HandlerReady (curSlot s) →
    OnlySlot (drawn4 s) (controlFault s (code, v)) s.cur.slot (inHandler (curSlot s) code 0 v (curSlot s).pc)

/-- R348 and R353: a host-class fault of the control stream, or one of program class where no handler can be entered, suspends
the job at the faulting word; the stop is marked NEST when a handler was running. -/
def Obligations.OtherFaultsSuspend : Prop :=
  ∀ (s : State) (code : BitVec 8) (v : Word), NotProvisional s → ¬ FatalClass code →
    HostClass code ∨ ¬ HandlerReady (curSlot s) → (curSlot s).stop = none →
    ∃ nest : Bool, (nest = true ↔ ¬ HostClass code ∧ (curSlot s).hnd = true) ∧
      OnlySlot (drawn4 s) (controlFault s (code, v)) s.cur.slot { curSlot s with
        wait := none, stop := some ⟨.fault, some ⟨code, v, 0, (curSlot s).pc, 0, none, none⟩, nest, false, none, false⟩ }

/-- R309: a fault of a provisional job is recorded against its node, the first alone, and the job ends; R308: after the advance
point it is discarded. (How a job's hood is told from a later one of the same sequence is log entry 44.) -/
def Obligations.ProvisionalFaultsAreRecorded : Prop :=
  ∀ (s : State) (code : BitVec 8) (v : Word) (j : Job) (n : Nat), (curSlot s).job = some j → j.card.pnode = some n →
    code ≠ 0x17 → code ≠ 0x10 → (curSlot s).stop = none →
    let t := controlFault s (code, v)
    getSlot t s.cur.slot = { curSlot s with stop := some ⟨.ending, none, false, false, none, false⟩ } ∧
    (∀ k, k ≠ s.cur.slot → getSlot t k = getSlot s k) ∧ t.mem = s.mem ∧
    (jobHood s j = none → t.seqs = s.seqs) ∧
    (∀ q, jobHood s j = some q →
      t.seqs = s.seqs.map (fun p => if p.hid = q.hid ∧ p.faults.any (fun f => f.1 == n) = false then
        { p with faults := tableSet p.faults n ⟨code, v, 0, (curSlot s).pc, (curSlot s).pc.setWidth 48, none, none⟩ } else p))

/-- R217: TRAP raises code 0x10 with TRAPVAL = a, the trap number in TRAPCAUSE[35:16] and the next word's address as the saved
PC: with a handler ready, that is the state it completes in. -/
def Obligations.TrapEntersTheHandler : Prop :=
  ∀ (s : State) (g : Guard) (a : Src) (num : BitVec 20), Runs s g [a] → NotProvisional s → HandlerReady (curSlot s) →
    ∃ t, exec (.trap g a num) s = .next t ∧ OnlySlot (drawn4 s) t s.cur.slot
      (inHandler { curSlot s with reply := none } 0x10 (.ofNat 64 num.toNat) (val s a) ((curSlot s).pc + 8))

/-- R352: in a handler, ERET clears HND, DNODE and SKIP and continues at TRAPPC. After a fault of the control stream that is all; after a
fault of an engine word the stream is released, at its word with SKIP = 0 or at the next with SKIP = 1; after a fault of a launch, the
launch starts again or is discarded; after a chain fault the channel goes on at its record or is asked to abandon it (R392). Where another
fault is pending and a handler can be entered, it is entered again, with TRAPPC as it is. Outside a handler ERET is an illegal
instruction. -/
def Obligations.EretReturns : Prop :=
  ∀ (s : State) (g : Guard), (curSlot s).guard g = true →
    let x := curSlot s
    let y : Slot := { past s [] with hnd := false, dnode := 0, skip := false, pc := x.trapPc }
    let released (e : EngStream) : EngStream :=
      { e with held := false, efltV := false, faulted := none, launches := e.launches.map (fun l => { l with parked := false }) }
    ((x.hnd = false) → Raises (.eret g) s 0x01 (0x0071_4000_0000_0000 ||| .ofNat 64 (g.neg.toNat * 2 ^ 63 + g.pred.toNat * 2 ^ 56))) ∧
    (x.hnd = true → (x.trapCause.extractLsb' 8 5 = 0 ∨ x.trapCause.getLsbD 11 = true) →
      (NonePending x → Completes (.eret g) s y) ∧
      (∀ f, FirstPending x f → x.trapVec.getLsbD 0 = true → x.jend = false →
        Completes (.eret g) s { unpended y f with trapCause := causeOf f, trapVal := f.val, hnd := true,
                                                  pc := x.trapVec &&& 0x0000_FFFF_FFFF_FFF8 }) ∧
      (∀ f, FirstPending x f → x.trapVec.getLsbD 0 = false ∨ x.jend = true → Completes (.eret g) s y)) ∧
    (∀ e : Fin 4, x.hnd = true → x.trapCause.extractLsb' 8 5 = .ofNat 5 (e.val + 1) → NonePending x → (x.engs[e]).held = true →
      let z := released x.engs[e]
      let next : EngStream :=
        { z with pc := (loopStep z.loops (z.pc + 2)).2, loops := (loopStep z.loops (z.pc + 2)).1, wpv := false }
      ((x.engs[e]).faulted = none → Completes (.eret g) s { y with engs := y.engs.set e (if x.skip then next else z) }) ∧
      ∀ n, (x.engs[e]).faulted = some n →
        let kept := z.launches.filter (fun l => decide (l.seq ≠ n))
        let again := z.launches.map (fun l => if l.seq = n then { l with started := l.started && decide (l.prog ≠ 0) } else l)
        let u : EngStream := { z with launches := if x.skip then kept else again }
        Completes (.eret g) s { y with engs := y.engs.set e u }) ∧
    (x.hnd = true → x.trapCause.extractLsb' 8 5 = 0b10011 → NonePending x →
      let ch := chanNo (x.trapCause.getLsbD 16)
      let c := x.chans[ch]
      (x.skip = true → Completes (.eret g) s { y with chans := y.chans.set ch { c with abandon := c.halt.isSome } }) ∧
      (x.skip = false → c.halt = none → Completes (.eret g) s y) ∧
      (x.skip = false → ∀ h, c.halt = some h →
        let d : Channel := { c with halt := none, abandon := false, fix := c.fix || decide (h = .byte ∨ h = .check),
                                    rcd := if h = .read ∨ h = .check then none else c.rcd }
        Completes (.eret g) s { y with chans := y.chans.set ch d }))

/-- CSRR reads the CSR that it names, as R144, R215 and R216 give it. -/
def Obligations.CsrReadsTheRegister : Prop :=
  ∀ (s : State) (g : Guard) (sd : Reg) (n : BitVec 13) (v : Word), (curSlot s).guard g = true → csrValue s n = some v →
    Completes (.csrr g sd n) s ((past s []).writeS sd v)

/-- CSRW, CSRSET and CSRCLR (R215): the CSR's RW fields take a, old or a, old and not a; W1C fields lose their bits; RO fields
stand; sd takes the old value, after the CSR's own update (R216). A write of AGE needs a privileged context (R292). The old value
is read after the word's last-use bits are applied, which DEAD alone shows (log entry 30). -/
def Obligations.CsrWritesTheRegister : Prop :=
  ∀ (s : State) (g : Guard) (sd : Reg) (n : BitVec 13) (a : Src) (old : Word), Runs s g [a] →
    (n = 0x032 → ctxPriv s (curSlot s).ctx = true) → csrValue (inBody s [a]) n = some old →
    let v := val s a
    Completes (.csrw g sd n a) s ((csrWritten (past s [a]) n v v).writeS sd old) ∧
    Completes (.csrset g sd n a) s ((csrWritten (past s [a]) n (old ||| v) (old ||| v)).writeS sd old) ∧
    Completes (.csrclr g sd n a) s ((csrWritten (past s [a]) n (old &&& ~~~v) 0).writeS sd old)

/-- NOP, PREF, CHK, JEND, CYC, WAITCYC whose time has come, SIGMIX, RNDC, RNGSET and RNGGET have the effect that R162, R185,
R186, R203, R220, R221 and R323 to R325 give them, and change nothing else. A WAITCYC whose time has not come waits (R220, R182). -/
def Obligations.SystemWordsHaveTheirEffect : Prop :=
  (∀ (s : State) (i : Instr) (c : Change), system s i = some c → Runs s c.g c.srcs → Completes i s c.y) ∧
  ∀ (s : State) (g : Guard) (a : Src), Runs s g [a] → s.dcc.toNat < (val s a).toNat → Waits (.waitcyc g a) s

/-- R218, R362: HALT stops every running job of the context with WHY debug halt and its stream's PC at the next word, and marks
the context halted; jobs of other contexts, stopped jobs and memory stand. -/
def Obligations.HaltStopsTheContext : Prop :=
  ∀ (s : State) (g : Guard), (curSlot s).guard g = true →
    ∃ t, exec (.halt g) s = .next t ∧ SameMemory s t ∧
      t.contexts = s.contexts.map (fun y => if y.id = (curSlot s).ctx then { y with halted := true } else y) ∧
      ∀ k, let x := if k = s.cur.slot then past s [] else getSlot s k
        getSlot t k = if x.stop = none ∧ ∃ j, x.job = some j ∧ j.ctx = (curSlot s).ctx ∧ j.started = true
          then { x with stop := some ⟨.halt, none, false, false, none, false⟩ } else x

/-- R219, R109: TLBINV in a privileged context removes from every TLB and walk cache of every core the entries of its kind, and those
alone; no tile-cache line that stands on a removed page is left; memory is as before but for what lines and write-backs bring home. While
an access already translated through what is removed is in flight, the word waits (log entry 67). -/
def Obligations.TlbinvRemovesItsEntries : Prop :=
  ∀ (s : State) (g : Guard) (a : Src), MemoryCanonical s → Runs s g [a] → ctxPriv s (curSlot s).ctx = true →
    ∀ p ∈ removals s g a,
      (¬ InFlight s p → ∃ t, exec p.word s = .next t ∧ SlotIs s t s.cur.slot (past s [a]) ∧ Removed s t p) ∧
      (InFlight s p → ∃ t, exec p.word s = .next t ∧ SlotIs s t s.cur.slot { curSlot s with wait := some p.word } ∧ SameMemory s t ∧
        t.cores = s.cores ∧ t.lines = s.lines)

namespace Sys2Proof.Claim

/-! Steps (R45, R136, R176, R182, R290; notes/assumptions/1). -/

/-- A stream may issue its next word: the module is not paused, the slot's job has started and does not stop, and no waiting
word, fault, request or rendezvous holds the stream (R45, R182, R290, R351, R354). -/
def MayIssue (s : State) (k : SlotId) (e : EngId) : Prop :=
  s.paused = false ∧ (∃ j, (getSlot s k).job = some j ∧ j.started = true) ∧ (getSlot s k).stop = none ∧
  (e = 0 → (getSlot s k).jend = false ∧ (getSlot s k).wait = none ∧ (getSlot s k).await = none) ∧
  ∀ p : Fin 4, e.val = p.val + 1 → ((getSlot s k).engs[p]).started = true ∧ ((getSlot s k).engs[p]).arrived = false ∧
    ((getSlot s k).engs[p]).held = false ∧ ((getSlot s k).engs[p]).wait = none

/-- The PC of a stream of a slot. -/
def pcOf (s : State) (k : SlotId) (e : EngId) : Word :=
  if h : e.val = 0 then (getSlot s k).pc else ((getSlot s k).engs[e.val - 1]'(by omega)).pc

/-- The state in which the next move, of a stream, is taken: the move is off the agenda, and its stream is current. -/
def issuing (s : State) (rest : List Move) (k : SlotId) (e : EngId) : State := { s with agenda := rest, cur := ⟨k, e⟩ }

/-- The completion test of R193, once for each cycle. -/
def tested (b : Barrier) : Barrier :=
  if b.arr = b.exp ∧ b.pend = 0 ∧ b.exp ≠ 0 then { b with phase := !b.phase, arr := 0 } else b
/-- Barriers that differ at most in the releases that they carry (R121). -/
def SameBarrier (a b : Barrier) : Prop := { a with rels := [], last := [] } = { b with rels := [], last := [] }

/-- The bytes of a stream's next word are bs: PC is aligned and translates for fetch; no byte is poisoned, and a read of host memory has
not failed (R391: the model's free choice); and memory, now and as the slot's fetch may still see it, holds bs there (R103, R106, R136,
R176, R188). The fetch leaves the state t. -/
def Fetches (s : State) (k : SlotId) (e : EngId) (t : State) (bs : Bytes) : Prop :=
  ∃ (n : Nat) (u : State) (w : Leaf), n = (if e = 0 then 8 else 2) ∧ (pcOf s k e).toNat % n = 0 ∧
    translateAs s (coreOf k) e (getSlot s k).ctx (ctxL1 s (getSlot s k).ctx) (pcOf s k e) .fetch = .ok (u, w) ∧
    (∀ j, j < n → w.pa + j ∉ u.poison) ∧
    (if 2 ^ 43 ≤ w.pa ∧ w.pa < 2 ^ 44 then Config.freeBool u.fresh = false ∧ t = { u with fresh := u.fresh + 1 } else t = u) ∧
    readBytes t w.pa n = bs ∧ ∀ j, (getSlot t k).job = some j → cellsGet j.code w.pa n = bs ∧
      ∀ l ∈ (t.cores[coreOf k]).fetched, l.pa = w.pa - w.pa % 64 → (l.bytes.drop (w.pa % 64)).take n = bs

/-! Translation (R105, R106). -/

/-- An entry of a page table, as its home holds it: in LPDDR-6 of a die that takes part, with no poisoned byte. -/
def EntryAt (s : State) (a : Nat) (e : Word) : Prop :=
  a < 2 ^ 38 ∧ (a / 2 ^ 36 < 2 ∨ feature s 0 = true) ∧ (∀ j, j < 8 → a + j ∉ s.poison) ∧
  ∀ i, i < 64 → e.getLsbD i = (cellGet s.mem (a + i / 8)).getLsbD (i % 8)

/-- What the walk's end gives for an entry e at a, of an address that maps to pa: the translation, when R106 permits the access
and pa is not reserved, else the permission fault. -/
def Maps (s : State) (core : Fin 96) (g : EngId) (c : Ctx) (l1 : Nat) (va : Word) (acc : Access) (e : Word) (a pa : Nat) : Prop :=
  let right := (match acc with
    | .read => e.getLsbD 2 | .write => e.getLsbD 3 | .atomic => e.getLsbD 2 && e.getLsbD 3 | .fetch => e.getLsbD 4) = true
  let there := (pa < 2 ^ 38 ∧ (pa / 2 ^ 36 < 2 ∨ feature s 0 = true)) ∨ (2 ^ 43 ≤ pa ∧ pa < 2 ^ 44)
  let cacheOk := ¬ (e.getLsbD 7 = true ∧ e.getLsbD 8 = true)
  (right ∧ there ∧ cacheOk → ∃ t, translateAs s core g c l1 va acc = .ok (t, ⟨pa, e, a⟩) ∧
    readWord t a = e ||| (if acc = .write ∨ acc = .atomic then 0xC00 else 0x400)) ∧
  (¬ (right ∧ there ∧ cacheOk) → translateAs s core g c l1 va acc = .error (0x07, va))

/-- The bytes of the page-table entry that a translation used. -/
def InEntry (w : Leaf) (b : Nat) : Prop := w.at_ ≤ b ∧ b < w.at_ + 8

/-! Loads and stores (R183 to R190). -/

/-- The address of R183. -/
def ea (s : State) (a : Src) (off : BitVec 22) : Word := .ofInt 64 ((val s a).toInt + off.toInt)
/-- The value that n bytes hold, the least significant first (R8). -/
def littleEndian (n : Nat) (f : Nat → Byte) : Nat := ∑ j ∈ Finset.range n, (f j).toNat * 256 ^ j
/-- The value that a load of a size writes (R183). -/
def loaded (size : BitVec 3) (m : Nat) : Word :=
  let n := 2 ^ (size.toNat % 4)
  if 4 ≤ size.toNat then .ofInt 64 (BitVec.ofNat (8 * n) m).toInt else .ofNat 64 m
/-- Every link of the chain between two dies is up (R17, R377). -/
def Linked (s : State) (d e : Die) : Prop :=
  ∀ i : Nat, Min.min d.val e.val ≤ i → i < Max.max d.val e.val → s.host.linkUp.getLsbD i = true
/-- The stream of an issuer has learned what a release has released, where their scopes include each other (R119). -/
def Acquires (s : State) (me : Issuer) (scope : Nat) (rs : List Release) (x : Slot) (e : EngId) : Prop :=
  ∀ r ∈ rs, r.meets s me scope = true → Sees r.known.view (known x e)
/-- A slot that reads n bytes from an address misses no write that its control stream knows or that its die has applied, of those so
far; it reads them at one point of their order, below c; and it reads no older from then on (R115, R123, R124, R125). y is the slot after. -/
def ReadsAt (s : State) (k : SlotId) (pa n c : Nat) (y : Slot) : Prop :=
  ∀ j, j < n → ∀ x ∈ s.log, x.covers (pa + j) = true → x.id < s.writes →
    (x.id < (known (getSlot s k) 0).at (pa + j) ∨ dieOf k ∈ x.dies → x.id < c) ∧ (x.id < c → x.id < (known y 0).at (pa + j))
/-- The write that a store makes (R119, R125): the last so far, of the bytes given, with the releases that it carries. -/
def Writes (s t : State) (k : SlotId) (pa n : Nat) (rel : Option Nat) : Prop :=
  ∃ x, t.log = s.log ++ [x] ∧ t.writes = s.writes + 1 ∧ x.id = s.writes ∧ x.by_ = issuerOf s k 0 ∧
    x.old = (List.range n).map (fun j => (pa + j, cellGet s.mem (pa + j))) ∧ (∀ r ∈ ((getSlot s k).order[0]).fences, r ∈ x.rels) ∧
    ∀ scope, rel = some scope → ∃ r ∈ x.rels, r.by_ = issuerOf s k 0 ∧ r.scope = scope ∧ Sees (known (getSlot s k) 0) r.known.view

/-- The atomics (R189): the fields of each, and the new value of the location, w bits wide. -/
structure AtomicRow where
  g     : Guard
  sd    : Reg
  a     : Src
  srcs  : List Src
  order : BitVec 2
  scope : BitVec 4
  place : BitVec 2
  w     : Nat
  new   : Nat → Nat
  flags : Nat → BitVec 6
  /-- PCIe carries it (R108). -/
  pcie  : Bool
  /-- It commutes when its old value is discarded (R130, R132). -/
  comm  : Bool

def atomics (s : State) : Instr → Option AtomicRow
  | .aadd g sd a b o sc p z => let w := wOf z; some ⟨g, sd, a, [a, b], o, sc, p, w, fun m => (m + lo w b) % 2 ^ w, fun _ => 0, true, true⟩
  | .aand g sd a b o sc p z => let w := wOf z; some ⟨g, sd, a, [a, b], o, sc, p, w, fun m => m &&& lo w b, fun _ => 0, false, true⟩
  | .aor g sd a b o sc p z => let w := wOf z; some ⟨g, sd, a, [a, b], o, sc, p, w, fun m => m ||| lo w b, fun _ => 0, false, true⟩
  | .axor g sd a b o sc p z => let w := wOf z; some ⟨g, sd, a, [a, b], o, sc, p, w, fun m => m ^^^ lo w b, fun _ => 0, false, true⟩
  | .amin g sd a b o sc p z => let w := wOf z
    some ⟨g, sd, a, [a, b], o, sc, p, w, fun m => if (BitVec.ofNat w m).sle (BitVec.ofNat w (lo w b)) then m else lo w b, fun _ => 0, false, true⟩
  | .amax g sd a b o sc p z => let w := wOf z
    some ⟨g, sd, a, [a, b], o, sc, p, w, fun m => if (BitVec.ofNat w m).sle (BitVec.ofNat w (lo w b)) then lo w b else m, fun _ => 0, false, true⟩
  | .aminu g sd a b o sc p z => let w := wOf z; some ⟨g, sd, a, [a, b], o, sc, p, w, fun m => Min.min m (lo w b), fun _ => 0, false, true⟩
  | .amaxu g sd a b o sc p z => let w := wOf z; some ⟨g, sd, a, [a, b], o, sc, p, w, fun m => Max.max m (lo w b), fun _ => 0, false, true⟩
  | .aswp g sd a b o sc p z => let w := wOf z; some ⟨g, sd, a, [a, b], o, sc, p, w, fun _ => lo w b, fun _ => 0, true, false⟩
  | .acas g sd a b c o sc p z => let w := wOf z
    some ⟨g, sd, a, [a, b, c], o, sc, p, w, fun m => if m = lo w c then lo w b else m, fun _ => 0, true, false⟩
  | .afadd g sd a b o sc p z => let w := wOf z
    some ⟨g, sd, a, [a, b], o, sc, p, w, fun m => (fpAdd (if w = 32 then fp32 else fp64) 0 0 m (lo w b)).1,
      fun m => (fpAdd (if w = 32 then fp32 else fp64) 0 0 m (lo w b)).2, false, false⟩
  | _ => none
where
  wOf (z : BitVec 2) : Nat := if z = 2 then 32 else 64
  lo (w : Nat) (a : Src) : Nat := (val s a).toNat % 2 ^ w

/-- The placement of R108 is legal: near or memory outside host memory, host in host memory for what PCIe carries. -/
def Placed (r : AtomicRow) (w : Leaf) : Prop :=
  let p := if r.place = 0 then w.entry.toNat / 2 ^ 5 % 4 else r.place.toNat - 1
  if p ≤ 1 then w.pa < 2 ^ 43 else p = 2 ∧ 2 ^ 43 ≤ w.pa ∧ w.pa < 2 ^ 44 ∧ r.pcie = true

/-- The footprint of a slot's job. -/
def footOf (x : Slot) : List FootEntry := match x.job with | some j => j.foot | none => []
/-- What R130 and R132 say of one byte of an access in deterministic mode: nothing where the job's entries permit it, else the fault. -/
def byteRule (foot : List FootEntry) (kind : DetKind) (a : Nat) : Option (BitVec 8) :=
  let has (n : Nat) : Bool := foot.any (fun f => decide (f.kind = n ∧ f.base ≤ a ∧ a < f.base + f.len))
  match kind with
  | .read => if has 0 ∨ has 1 then none else if has 2 then some 0x09 else some 0x08
  | .write => if has 1 then none else if has 2 ∧ has 0 = false then some 0x09 else some 0x08
  | .commuting => if has 1 ∨ has 2 then none else some 0x08
  | .atomic => if has 2 then some 0x09 else if has 1 then none else some 0x08

/-- A request of the host (R365): a write to W0, an access or an AtomicOp through W2, or a tail write. -/
def HostRequest (i : Instr) : Prop :=
  (∃ off v, i = .w0Write off v) ∨ (∃ wr a n d, i = .hostW2 wr a n d) ∨ (∃ op w a x y, i = .hostAtomicOp op w a x y) ∨
  (∃ q v, i = .queueTailWrite q v) ∨ i = .ctrlRst ∨ i = .ctrlGo ∨ i = .attgo ∨ (∃ r c, i = .dbgResp r c) ∨ i = .fwgo

/-- A request of the host that a link holds up (R377): an access to the memory of a die that the chain does not reach. -/
def HeldUp (s : State) (i : Instr) : Prop := hostReach s i = false

end Sys2Proof.Claim

/-- A step runs the decoded word: where a stream may issue, and its next bytes decode to i, the step is exec of i in the state that
the fetch leaves, and nothing is added round it. (The model's agenda says which stream moves: notes/assumptions/1.) -/
def Obligations.StepRunsTheDecodedWord : Prop :=
  ∀ (s t : State) (rest : List Move) (k : SlotId) (e : EngId) (bs : Bytes) (i : Instr), s.agenda = .issue k e :: rest →
    MayIssue s k e → Fetches (issuing s rest k e) k e t bs → decodeBytes bs = some i →
    step s = exec i { t with fresh := t.fresh + 1 }

/-- The other moves of the agenda (notes/assumptions/1): a word that decodes to none raises 0x01 in the control stream and 0x0D in
an engine's, with its bits; a misaligned PC raises 0x05; a stream that may not issue leaves all as it was; a command's entry runs as
the command; an event with no encoding runs, but a request of the host during a supply pause, or one that a link holds up, which is held
(R365, R377); an empty agenda is a cycle of the clock, in which DCC counts, each barrier is tested once (R196) and memory stands. A fetch
of the control stream that raises 0x06 or 0x07, outside a handler, leaves TRAPPC at the target (R176; log entry 78). -/
def Obligations.StepTakesTheNextMove : Prop :=
  ∀ (s : State) (rest : List Move),
    (∀ k e t bs, s.agenda = .issue k e :: rest → MayIssue s k e → Fetches (issuing s rest k e) k e t bs → decodeBytes bs = none →
      (e = 0 → step s = .next (controlFault { t with fresh := t.fresh + 1 } (0x01, .ofNat 64 (littleEndian 8 (fun j => bs.getD j 0))))) ∧
      ∀ p : Fin 4, e.val = p.val + 1 → step s =
        .next (engineFault { t with fresh := t.fresh + 1 } k p (pcOf t k e) none (0x0D, .ofNat 64 (littleEndian 2 (fun j => bs.getD j 0))))) ∧
    (∀ k e, s.agenda = .issue k e :: rest → MayIssue s k e →
      (e = 0 → (pcOf s k e).toNat % 8 ≠ 0 → step s = .next (controlFault (issuing s rest k e) (0x05, pcOf s k e))) ∧
      ∀ p : Fin 4, e.val = p.val + 1 → (pcOf s k e).toNat % 2 ≠ 0 →
        step s = .next (engineFault (issuing s rest k e) k p (pcOf s k e) none (0x05, pcOf s k e))) ∧
    (∀ k e, s.agenda = .issue k e :: rest → ¬ MayIssue s k e → step s = .next { s with agenda := rest }) ∧
    (∀ i, s.agenda = .event i :: rest →
      (encode i = none → (s.paused = false ∧ ¬ HeldUp s i ∨ ¬ HostRequest i) → step s = exec i { s with agenda := rest, curCmd := none }) ∧
      (s.paused = true ∨ HeldUp s i → HostRequest i →
        step s = .next { s with agenda := rest, curCmd := none, held := s.held ++ [i] }) ∧
      (encode i ≠ none → step s = .next { s with agenda := rest, curCmd := none })) ∧
    (∀ q t i, s.agenda = .command q :: rest → takeCommand { s with agenda := rest, curCmd := none } q = .run t i → step s = exec i t) ∧
    (s.agenda = [] → s.host.starting = false → s.host.mode = 2 → s.paused = false →
      ∃ t, step s = .next t ∧ t.dcc = s.dcc + 1 ∧ SameMemory s t ∧
        ∀ c n, SameBarrier (getBarrier t c n) (tested (getBarrier s c n))) ∧
    (∀ k f, s.agenda = .issue k 0 :: rest → MayIssue s k 0 → (pcOf s k 0).toNat % 8 = 0 → (getSlot s k).hnd = false →
      translateAs (issuing s rest k 0) (coreOf k) 0 (getSlot s k).ctx (ctxL1 s (getSlot s k).ctx) (pcOf s k 0) .fetch = .error f →
      HostClass f.1 → ∃ t, step s = .next t ∧ (getSlot t k).trapPc = pcOf s k 0)

/-- Every step of every state goes on: no instruction, command or event is refused, and every fault of the spec is an exception
that the machine takes. -/
def Obligations.EveryStepGoesOn : Prop := ∀ s, GoesOn s

/-- Every step keeps memory in its canonical form: addresses strictly rising, no entry zero. (The form is the model's representation of
memory: log entry 3.) -/
def Obligations.StepKeepsMemoryCanonical : Prop := ∀ s t, MemoryCanonical s → step s = .next t → MemoryCanonical t

/-- Power-on: memory is canonical and lists nothing, no job, context but those that CREATE_CONTEXT makes, or owned barrier is there, the
module is not ready, DCC is 0, and the registers to which R38, R44, R349 and R382 give a value hold it. (Registers without such a value
read zero: notes/assumptions/4 and 5, the model's choice.) -/
def Obligations.ResetStateHolds : Prop :=
  MemoryCanonical State.reset ∧ (∀ n a, byteAt State.reset n a = 0) ∧ State.reset.dcc = 0 ∧ State.reset.contexts = [] ∧
  State.reset.jobs = [] ∧ State.reset.paused = false ∧ State.reset.host.mode ≠ 2 ∧ State.reset.regions.map Prod.fst = [0] ∧
  (∀ k, (getSlot State.reset k).job = none ∧ (getSlot State.reset k).tags = 0 ∧ (getSlot State.reset k).age = 256 ∧
    (getSlot State.reset k).fflags = 0 ∧ (getSlot State.reset k).frm = 0 ∧ (getSlot State.reset k).spoob = 0 ∧
    (getSlot State.reset k).poison = 0 ∧ (getSlot State.reset k).dead = 0 ∧ (getSlot State.reset k).readP 0 = true ∧
    (getSlot State.reset k).trapVec = 0 ∧ (getSlot State.reset k).trapCause = 0 ∧ (getSlot State.reset k).trapPc = 0 ∧
    (getSlot State.reset k).trapVal = 0 ∧ (getSlot State.reset k).hnd = false ∧ (getSlot State.reset k).skip = false ∧
    (getSlot State.reset k).dnode = 0 ∧ ∀ e : Fin 4, efltValue ((getSlot State.reset k).engs[e]) = 0) ∧
  ∀ c i, (getBarrier State.reset c i).owner = none

/-- The walk of R106: with nothing cached for the agent, an address translates as the three levels of R105 say, with the faults 0x06
and 0x07 of the rule, and A set, and D for a write. Whatever is cached, an address above 48 bits raises 0x07, and a translation changes
nothing but the entry that it used, the agent's own TLB (of R107's size), the control core's walk cache and the model's count of free
choices. -/
def Obligations.TranslationFollowsTheTables : Prop :=
  ∀ (s : State) (core : Fin 96) (g : EngId) (c : Ctx) (l1 : Nat) (va : Word) (acc : Access), MemoryCanonical s →
    (2 ^ 48 ≤ va.toNat → translateAs s core g c l1 va acc = .error (0x07, va)) ∧
    (∀ t w, translateAs s core g c l1 va acc = .ok (t, w) →
      { t with mem := s.mem, cores := s.cores, fresh := s.fresh } = s ∧ w.pa % 2 ^ 16 = va.toNat % 2 ^ 16 ∧
      (∀ b, ¬ InEntry w b → SameByte s t b) ∧
      (∀ k, k ≠ core → t.cores[k] = s.cores[k]) ∧ (t.cores[core]).barriers = (s.cores[core]).barriers ∧
      (t.cores[core]).fetched = (s.cores[core]).fetched ∧ (g ≠ 0 → (t.cores[core]).walks = (s.cores[core]).walks) ∧
      (t.cores[core]).tlbs[g].length ≤ Max.max ((s.cores[core]).tlbs[g].length) (if g = 0 then 64 else 32) ∧
      ∀ f, f ≠ g → (t.cores[core]).tlbs[f] = (s.cores[core]).tlbs[f]) ∧
    (va.toNat < 2 ^ 48 → (s.cores[core]).tlbs[g] = [] → (g = 0 → (s.cores[core]).walks = []) →
      ∀ e1, EntryAt s (l1 + va.toNat / 2 ^ 42 * 8) e1 →
        (e1.getLsbD 0 = false ∨ e1.getLsbD 1 = true → translateAs s core g c l1 va acc = .error (0x06, va)) ∧
        (e1.getLsbD 0 = true → e1.getLsbD 1 = false →
          ∀ e2, let a2 := e1.toNat / 2 ^ 16 % 2 ^ 28 * 2 ^ 16 + va.toNat / 2 ^ 29 % 2 ^ 13 * 8
            EntryAt s a2 e2 →
            (e2.getLsbD 0 = false ∨ e2.getLsbD 1 = true ∧ e2.toNat / 2 ^ 16 % 2 ^ 13 ≠ 0 →
              translateAs s core g c l1 va acc = .error (0x06, va)) ∧
            (e2.getLsbD 0 = true → e2.getLsbD 1 = true → e2.toNat / 2 ^ 16 % 2 ^ 13 = 0 →
              Maps s core g c l1 va acc e2 a2 (e2.toNat / 2 ^ 29 % 2 ^ 15 * 2 ^ 29 + va.toNat % 2 ^ 29)) ∧
            (e2.getLsbD 0 = true → e2.getLsbD 1 = false →
              ∀ e3, let a3 := e2.toNat / 2 ^ 16 % 2 ^ 28 * 2 ^ 16 + va.toNat / 2 ^ 16 % 2 ^ 13 * 8
                EntryAt s a3 e3 →
                (e3.getLsbD 0 = false ∨ e3.getLsbD 1 = false → translateAs s core g c l1 va acc = .error (0x06, va)) ∧
                (e3.getLsbD 0 = true → e3.getLsbD 1 = true →
                  Maps s core g c l1 va acc e3 a3 (e3.toNat / 2 ^ 16 % 2 ^ 28 * 2 ^ 16 + va.toNat % 2 ^ 16)))))

/-- LD (R183): sd takes the n bytes at the address, the least significant first, zero- or sign-extended by the size, as one point of the
bytes' coherence order that misses no write known (R115, R123 to R125; log entry 6); an acquire load acquires at its scope from the writes
that it has read. Nothing else changes but the page-table entry used and what streams know of other accesses. A misaligned address, one
that does not translate, one that deterministic mode forbids and a poisoned byte raise their faults, in this order and before any read;
with .spec all but 0x09 give poison instead, as a poisoned base does, and no accessed bit is set (R185). A load from host memory waits for
its completion, whose bytes it then takes, or 0x13 (R391); one across a link that is down waits for the link (R377). -/
def Obligations.LoadsReadTheirBytes : Prop :=
  ∀ (s : State) (g : Guard) (sd : Reg) (a : Src) (size : BitVec 3) (order : BitVec 2) (scope : BitVec 4) (spec : Bool) (off : BitVec 22),
    MemoryCanonical s → Permitted s (.ld g sd a size order scope spec off) → Executes s g [a] →
    let i : Instr := .ld g sd a size order scope spec off
    let k := s.cur.slot
    let n := 2 ^ (size.toNat % 4)
    let v := ea s a off
    let me := issuerOf s k 0
    let dropped : Slot := ({ past s [a] with reply := none } : Slot).writePoison sd
    let Drops : Prop := ∃ t, exec i s = .next t ∧ OnlySlot (drawn4 s) t k dropped
    (spec = true → ¬ Clean s [a] → Drops) ∧
    (Clean s [a] → (curSlot s).reply = none →
      (v.toNat % n ≠ 0 → if spec then Drops else Raises i s 0x05 v) ∧
      (v.toNat % n = 0 →
        (∀ f, translate (inBody s [a]) k v .read = .error f → if spec then Drops else Raises i s f.1 f.2) ∧
        ∀ t w, translate (inBody s [a]) k v .read = .ok (t, w) → (∀ b, ¬ InEntry w b → SameByte s t b) ∧
          (∀ f, detControl (getSlot t k) false .read v.toNat n = .error f →
            if spec = true ∧ f.1 ≠ 0x09 then Drops else RaisesAfter i s t f.1 f.2) ∧
          ∀ x, detControl (getSlot t k) false .read v.toNat n = .ok x → SameSlot x (past s [a]) ∧
            (¬ Linked t (dieOf k) (homeOf w.pa) → Waits i s) ∧
            (Linked t (dieOf k) (homeOf w.pa) →
              (2 ^ 43 ≤ w.pa → w.pa < 2 ^ 44 → ∃ u y, exec i s = .next u ∧ OnlySlot { t with slots := s.slots } u k y ∧
                SameSlot y { curSlot s with await := some (.hostRead v w.pa n), wait := some i }) ∧
              (w.pa < 2 ^ 43 → ∀ j, j < n → w.pa + j ∈ t.poison → (∀ m, m < j → w.pa + m ∉ t.poison) →
                if spec then Drops else RaisesAfter i s t 0x13 (v + .ofNat 64 j)) ∧
              (w.pa < 2 ^ 43 → (∀ j, j < n → w.pa + j ∉ t.poison) → ∃ u y c, exec i s = .next u ∧
                { u with slots := t.slots, fresh := t.fresh } = t ∧
                SlotIs s u k (y.writeS sd (loaded size (littleEndian n (fun j => byteAt t c (w.pa + j))))) ∧
                SameSlot y (past s [a]) ∧ ReadsAt t k w.pa n c y ∧
                ∀ j, j < n → ∀ z, writeBelow t c (w.pa + j) = some z →
                  (order = 1 → Acquires t me scope.toNat z.rels y 0) ∧ (order ≠ 1 → ∀ r ∈ z.rels, r ∈ (y.order[0]).read))))) ∧
    (Clean s [a] → ∀ p bs, (curSlot s).reply = some (.bytes p (some bs)) → ∃ u y, exec i s = .next u ∧
      OnlySlot s u k (y.writeS sd (loaded size (littleEndian bs.length (fun j => bs.getD j 0)))) ∧
      SameSlot y { past s [a] with reply := none }) ∧
    (Clean s [a] → ∀ p, (curSlot s).reply = some (.bytes p none) → if spec then Drops else Raises i s 0x13 v)

/-- ST (R183): the low n bytes of the data scalar go to the n bytes at the address, the least significant first, which are then not
poisoned; the store is the last of the writes so far, which the stream knows, and carries what the stream's fences and the store itself
release (R119, R123; log entry 6); in a device page every agent sees it at once (R104). No other byte changes for any agent, but those of
the page-table entry used; no register changes but PC and the dead bits of last uses. A store of a provisional job past its advance point
changes no byte (R308). An address that does not translate and one that deterministic mode forbids raise their faults first. -/
def Obligations.StoresWriteTheirBytes : Prop :=
  ∀ (s : State) (g : Guard) (data a : Src) (size : BitVec 3) (order : BitVec 2) (scope : BitVec 4) (off : BitVec 22),
    MemoryCanonical s → Permitted s (.st g data a size order scope off) → Runs s g [a, data] →
    let i : Instr := .st g data a size order scope off
    let k := s.cur.slot
    let n := 2 ^ (size.toNat % 4)
    let v := ea s a off
    v.toNat % n = 0 →
    (∀ f, translate (inBody s [a, data]) k v .write = .error f → Raises i s f.1 f.2) ∧
    ∀ t w, translate (inBody s [a, data]) k v .write = .ok (t, w) →
      (∀ f, detControl (getSlot t k) false .write v.toNat n = .error f → RaisesAfter i s t f.1 f.2) ∧
      ∀ x, detControl (getSlot t k) false .write v.toNat n = .ok x →
        ∃ u, exec i s = .next u ∧ SameSlot (getSlot u k) (past s [a, data]) ∧ (∀ m, m ≠ k → getSlot u m = getSlot s m) ∧
          (∀ b, ¬ (w.pa ≤ b ∧ b < w.pa + n) → ¬ InEntry w b → SameByte s u b) ∧
          { u with mem := t.mem, poison := t.poison, log := t.log, writes := t.writes, slots := t.slots } = t ∧
          (lands s k = true → ∀ j, j < n →
            cellGet u.mem (w.pa + j) = (val s data).extractLsb' (8 * j) 8 ∧ w.pa + j ∉ u.poison ∧
            t.writes < (known (getSlot u k) 0).at (w.pa + j)) ∧
          (lands s k = true → w.device = false → Writes t u k w.pa n (if order = 2 then some scope.toNat else none)) ∧
          (w.device = true → ∀ z ∈ u.log, ∀ j, j < n → z.covers (w.pa + j) = false) ∧
          (lands s k = false → u.mem = t.mem ∧ u.writes = t.writes ∧ (w.device = false → u.log = t.log))

/-- An address that is no multiple of the access's bytes raises 0x05 with the address, before any effect (R183, R184, R189). The check of
deterministic mode (R129, R130, R132, R133), on which the other statements rest: a memory access is refused at the first byte that its
job's entries do not permit, with 0x08 or 0x09; any is refused with 0x09 at a byte that another agent of the job has accessed, where one of
the two writes and that access is not known to happen before; else it goes on, and nothing changes but what streams know. -/
def Obligations.MisalignedAccessesFault : Prop :=
  (∀ (s : State) (g : Guard) (r : Reg) (a data : Src) (size : BitVec 3) (order : BitVec 2) (scope : BitVec 4) (off : BitVec 22),
    (10 ≤ scope.toNat → ctxPriv s (curSlot s).ctx = true) →
    let misaligned := (ea s a off).toNat % 2 ^ (size.toNat % 4) ≠ 0
    (Runs s g [a] → (curSlot s).reply = none → misaligned → Raises (.ld g r a size order scope false off) s 0x05 (ea s a off)) ∧
    (Runs s g [a, data] → misaligned → Raises (.st g data a size order scope off) s 0x05 (ea s a off)) ∧
    (Runs s g [a] → misaligned → Raises (.ldsp g r a size order scope off) s 0x05 (ea s a off)) ∧
    (Runs s g [a, data] → misaligned → Raises (.stsp g data a size order scope off) s 0x05 (ea s a off)) ∧
    ∀ (i : Instr) (q : AtomicRow), atomics s i = some q → Runs s q.g q.srcs → Permitted s i →
      (val s q.a).toNat % (q.w / 8) ≠ 0 → Raises i s 0x05 (val s q.a)) ∧
  ∀ (x : Slot) (sp : Bool) (kind : DetKind) (lo n : Nat),
    let conflict (a : Nat) : Prop := ∃ q ∈ x.det.accs, q.agent ≠ 0 ∧ q.sp = sp ∧ (q.write = true ∨ kind ≠ .read) ∧ q.lo ≤ a ∧ a < q.hi ∧
      q.id ∉ (x.order[0]).cur.accs
    (x.detctl = false → detControl x sp kind lo n = .ok x) ∧
    (x.detctl = true →
      (∀ j c, sp = false → j < n → byteRule (footOf x) kind (lo + j) = some c → (∀ i, i < j → byteRule (footOf x) kind (lo + i) = none) →
        detControl x sp kind lo n = .error (c, .ofNat 64 (lo + j))) ∧
      ((sp = false → ∀ j, j < n → byteRule (footOf x) kind (lo + j) = none) →
        ((∃ j, j < n ∧ conflict (lo + j)) → ∃ j, j < n ∧ conflict (lo + j) ∧
          detControl x sp kind lo n = .error (0x09, .ofNat 64 (if sp then (lo + j) % 2 ^ 26 else lo + j))) ∧
        ((∀ j, j < n → ¬ conflict (lo + j)) → ∃ y, detControl x sp kind lo n = .ok y ∧ SameSlot y x)))

/-- The atomics (R189, R190): sd takes the old value, which the last write left, and the location the new one of the table, as one access
with none between (R115, R123); AFADD ORs its flags; an acquire acquires from the last writes, a release releases at its scope, and what
the last writes release is carried on (R119). Nothing else changes but the page-table entry used. An address that does not translate, an
illegal placement (0x18), one that deterministic mode forbids and a poisoned byte (0x13) raise their faults, in this order. Host memory's
atomics wait for their completion and then act on the value that it brings, or raise 0x18 (R108); one across a link that is down waits
(R377). -/
def Obligations.AtomicsUpdateTheirLocation : Prop :=
  ∀ (s : State) (i : Instr) (r : AtomicRow), MemoryCanonical s → atomics s i = some r → Permitted s i → Runs s r.g r.srcs →
    let k := s.cur.slot
    let n := r.w / 8
    let v := val s r.a
    v.toNat % n = 0 →
    let Acts (t : State) (pa old : Nat) (dev : Bool) : Prop := ∃ u y, exec i s = .next u ∧
      SlotIs s u k (({ y with reply := none, fflags := (curSlot s).fflags ||| r.flags old } : Slot).writeS r.sd (.ofNat 64 old)) ∧
      SameSlot y (past s r.srcs) ∧ (∀ b, ¬ (pa ≤ b ∧ b < pa + n) → SameByte t u b) ∧
      { u with mem := t.mem, poison := t.poison, log := t.log, writes := t.writes, slots := t.slots } = t ∧
      (lands s k = true → ∀ j, j < n → cellGet u.mem (pa + j) = .ofNat 8 (r.new old / 256 ^ j) ∧ pa + j ∉ u.poison) ∧
      (lands s k = true → dev = false → ∃ x, u.log = t.log ++ [x] ∧ x.id = t.writes ∧ u.writes = t.writes + 1 ∧
        x.old = (List.range n).map (fun j => (pa + j, cellGet t.mem (pa + j))) ∧
        (r.order.getLsbD 1 = true → ∃ q ∈ x.rels, q.by_ = issuerOf s k 0 ∧ q.scope = r.scope.toNat ∧ Sees (known (curSlot s) 0) q.known.view) ∧
        ∀ j, j < n → ∀ z, writeBelow t t.writes (pa + j) = some z →
          (∀ q ∈ z.rels, q ∈ x.rels) ∧ (r.order.getLsbD 0 = true → Acquires t (issuerOf s k 0) r.scope.toNat z.rels y 0)) ∧
      (lands s k = false → u.mem = t.mem ∧ u.writes = t.writes)
    ((curSlot s).reply = none →
      (∀ f, translate (inBody s r.srcs) k v .atomic = .error f → Raises i s f.1 f.2) ∧
      ∀ t w, translate (inBody s r.srcs) k v .atomic = .ok (t, w) → (∀ b, ¬ InEntry w b → SameByte s t b) ∧
        (¬ Placed r w → RaisesAfter i s t 0x18 v) ∧
        (Placed r w →
          let d := detControl (getSlot t k) false (if r.comm = true ∧ r.sd = 0 then .commuting else .atomic) v.toNat n
          (∀ f, d = .error f → RaisesAfter i s t f.1 f.2) ∧
          ∀ x, d = .ok x →
            (¬ Linked t (dieOf k) (homeOf w.pa) → Waits i s) ∧
            (Linked t (dieOf k) (homeOf w.pa) →
              (2 ^ 43 ≤ w.pa → ∃ u y, exec i s = .next u ∧ OnlySlot { t with slots := s.slots } u k y ∧
                SameSlot y { curSlot s with await := some (.hostAtomic v w.pa n), wait := some i }) ∧
              (w.pa < 2 ^ 43 → ∀ j, j < n → w.pa + j ∈ t.poison → (∀ m, m < j → w.pa + m ∉ t.poison) →
                RaisesAfter i s t 0x13 (v + .ofNat 64 j)) ∧
              (w.pa < 2 ^ 43 → (∀ j, j < n → w.pa + j ∉ t.poison) →
                Acts t w.pa (littleEndian n (fun j => cellGet t.mem (w.pa + j)))
                  (devicePage t (ctxL1 t (curSlot s).ctx) v))))) ∧
    (∀ p bs, (curSlot s).reply = some (.bytes p (some bs)) →
      Acts (inBody s r.srcs) p (littleEndian bs.length (fun j => bs.getD j 0) % 2 ^ r.w) (devicePage s (ctxL1 s (curSlot s).ctx) v)) ∧
    (∀ p, (curSlot s).reply = some (.bytes p none) → Raises i s 0x18 v)

namespace Sys2Proof.Claim

open Sys2Proof.Machine

/-! Scratchpad (R93 to R95, R184). -/

/-- The scratchpad and the checkpoint storage of every slot are in canonical form: offsets rising, no entry zero. -/
def StorageCanonical (s : State) : Prop := ∀ k, Memory.wf (getSlot s k).scratch = true ∧ Memory.wf (getSlot s k).ckpt = true

/-- The slot with an out-of-range access of the control stream noted, if none has been since SPOOB.V was clear, but in this cycle by a
stream of a higher engine code (R95). -/
def noted (s : State) (x : Slot) (wr : Bool) (a : Word) : Slot :=
  if x.spoob.toNat / 2 ^ 63 = 1 ∧ ¬ (x.spoobAt = some s.dcc ∧ 0 < x.spoob.toNat / 2 ^ 56 % 8) then x
  else { x with spoob := .ofNat 64 (2 ^ 63 + wr.toNat * 2 ^ 62 + a.toNat % 2 ^ 32), spoobAt := some s.dcc }
/-- Byte j of an access at an address, modulo 2^64. -/
def spByte (a : Word) (j : Nat) : Nat := (a.toNat + j) % 2 ^ 64

/-! Barriers and tags (R193 to R197). -/

/-- The barrier that an index names for the issuing slot. -/
def barrierOf (s : State) (i : Word) : Barrier := getBarrier s (coreOf s.cur.slot) i.toNat
/-- The issuing slot owns it. -/
def Owned (s : State) (i : Word) : Prop :=
  i.toNat < 512 ∧ ∃ c, (barrierOf s i).owner = some (decide (s.cur.slot.val % 2 = 1), c)
/-- The barrier i of the issuing core becomes b, and every other is as before. -/
def BarrierIs (s t : State) (i : Word) (b : Barrier) : Prop :=
  SameBarrier (getBarrier t (coreOf s.cur.slot) i.toNat) b ∧
  (∀ c n, ¬ (c = coreOf s.cur.slot ∧ n = i.toNat) → getBarrier t c n = getBarrier s c n) ∧
  ∀ (c : Fin 96) (e : EngId), (t.cores[c]).tlbs[e] = (s.cores[c]).tlbs[e]

/-! Channels (R205 to R207). -/

/-- A channel that processes a record or stands halted at one. -/
def Busy (c : Channel) : Prop := c.bound = true ∧ c.stop = false ∧ c.idle = false
/-- The slot with a channel replaced. -/
def withChan (x : Slot) (ch : Bool) (c : Channel) : Slot := { x with chans := x.chans.set (chanNo ch) c }

/-! Engine streams (R198 to R201). -/

/-- The stream of an engine code from 1 to 4. -/
def engineOf (e : BitVec 3) (p : Fin 4) : Prop := e.toNat = p.val + 1
/-- A stream as R44 starts one, its cells as EPUT left them, its key and its counter at zero (log entry 10: the model's choice). -/
def startedAt (y : EngStream) (pc : Word) : EngStream := { EngStream.reset with started := true, pc := pc, cells := y.cells }

/-! Words that a die unit serves (R299, R310, R326, R329, R332). -/

/-- The unit of a word, its destination, and the alignment of its operands. -/
def unitRow : Instr → Option (UnitKind × Reg)
  | .kvappend _ sd _ _ _ | .kvcommit _ sd _ _ _ | .kvsquash _ sd _ _ | .kvtrunc _ sd _ _ _ | .kvfork _ sd _ _ _ | .kvfree _ sd _ _
  | .acctest _ sd _ => some (.speculation, sd)
  | .smpstart _ sd _ => some (.sampling, sd)
  | .txenc _ sd _ _ | .txdec _ sd _ _ | .txcons _ sd _ _ | .txmask _ sd _ _ | .txvocabOpen _ sd _ _ | .txvocabRebind _ sd _ _
  | .txvocabClose _ sd _ _ => some (.text, sd)
  | _ => none
/-- A request of a KV word. -/
def KvRequest (q : UnitRequest) : Prop :=
  match q.op with
  | .kvappend .. | .kvcommit .. | .kvsquash .. | .kvtrunc .. | .kvfork .. | .kvfree .. => True
  | _ => False
/-- The operand of a word that must be aligned, and to what. -/
def unitAlign (s : State) : Instr → List (Word × Nat)
  | .kvcommit _ _ a _ c => [(val s a, 128), (val s c, 8)]
  | .kvappend _ _ a _ _ | .kvsquash _ _ a _ | .kvtrunc _ _ a _ _ | .kvfork _ _ a _ _ | .kvfree _ _ a _ => [(val s a, 128)]
  | .acctest _ _ a | .smpstart _ _ a => [(val s a, 64)]
  | .txenc _ _ _ b | .txdec _ _ _ b => [(val s b, 32)]
  | .txvocabOpen _ _ _ b | .txvocabRebind _ _ _ b => [(val s b, 64)]
  | .txcons _ _ _ b => [(val s b, 8)]
  | _ => []
/-- The die whose unit serves a word: the home of the pool, the issuer's own, or the one that the stream operand names. -/
def UnitDie (s : State) (i : Instr) (srcs : List Src) (d : Die) : Prop :=
  match i with
  | .acctest .. | .smpstart .. => d = dieOf s.cur.slot
  | .txenc _ _ a _ | .txdec _ _ a _ | .txcons _ _ a _ | .txmask _ _ a _ | .txvocabOpen _ _ a _ | .txvocabRebind _ _ a _
  | .txvocabClose _ _ a _ => d.val = (val s a).toNat / 2 ^ 6 % 4 ∧ dieLive s d.val = true
  | _ => ∃ a t pa, srcs.head? = some a ∧ unitTranslate (inBody s srcs) (curSlot s).ctx (val s a) .read = .ok (t, pa) ∧ d = homeOf pa
/-- A pool address that does not translate (R299). -/
def UnitFault (s : State) (i : Instr) (srcs : List Src) (f : FCode) : Prop :=
  match i with
  | .kvappend .. | .kvcommit .. | .kvsquash .. | .kvtrunc .. | .kvfork .. | .kvfree .. =>
    ∃ a, srcs.head? = some a ∧ unitTranslate (inBody s srcs) (curSlot s).ctx (val s a) .read = .error f
  | _ => False
/-- A stream operand that names a die which takes no part (R332). -/
def NoUnit (s : State) (i : Instr) : Prop :=
  match i with
  | .txenc _ _ a _ | .txdec _ _ a _ | .txcons _ _ a _ | .txmask _ _ a _ | .txvocabOpen _ _ a _ | .txvocabRebind _ _ a _
  | .txvocabClose _ _ a _ => dieLive s ((val s a).toNat / 2 ^ 6 % 4) = false
  | _ => False

end Sys2Proof.Claim

namespace Sys2Proof.Claim

open Sys2Proof.Machine

/-! Tiles (R208, R211 to R214). -/

/-- The tiles that the operands of TCINV and TCCLEAN name (R212): every tile of the handle's current generation, or one. -/
def NamesTiles (s : State) (c : Ctx) (a b : Word) (whole : Bool) (p : TileName → Bool) : Prop :=
  if whole then ∃ r, findLayout s c (a.toNat % 2 ^ 16) = some r ∧ p = fun t => decide (t.handle = a.toNat % 2 ^ 16 ∧ t.gen = r.gen)
  else ∃ r t, tileNamed s c a b = .ok (r, t) ∧ p = fun u => decide (u = t)
/-- A byte that the write-backs of named tiles carry, on their way to memory. -/
def OnItsWay (s : State) (c : Ctx) (p : TileName → Bool) (a : Nat) (v : Byte) : Prop :=
  ∃ w ∈ s.writeBacks, w.ctx = c ∧ p w.tile = true ∧ (a, v) ∈ w.data
/-- Byte n of run q of a named line is dirty; it lies at an address, and is poisoned or not. -/
def DirtyAt (s : State) (c : Ctx) (p : TileName → Bool) (a : Nat) (l : TileLine) (o : Nat) : Prop :=
  l ∈ s.lines ∧ l.ctx = c ∧ p l.tile = true ∧ l.dirty.getLsbD (o / 1024) = true ∧ ∃ q ∈ l.runs, ∃ n, n < q.len ∧ o = q.off + n ∧ a = q.pa + n
/-- Addresses from t on that take values that every agent then sees, and no others change (R100, R102). -/
def Lands (s u : State) (new : Nat → Byte → Prop) : Prop :=
  (∀ a, (∀ v, ¬ new a v) → SameByte s u a) ∧ ∀ a v, new a v → (∀ v', new a v' → v' = v) → ∀ n, Machine.byteAt u n a = v
/-- The bytes that a range of virtual memory needs, in deterministic mode, have their entries (R130, R214). -/
def Covered (s : State) (kind : DetKind) (va : Word) (n : Nat) : Prop :=
  (curSlot s).detctl = true → detEntry (footOf (curSlot s)) kind va.toNat n = none

end Sys2Proof.Claim

/-- Every step keeps the scratchpads and checkpoint storages in canonical form. (The form is the model's representation of a slot's bytes:
log entry 3.) -/
def Obligations.StepKeepsStorageCanonical : Prop := StorageCanonical State.reset ∧ ∀ s t, StorageCanonical s → step s = .next t → StorageCanonical t

/-- LDSP and STSP (R93 to R95, R184), aligned: in range, the bytes are read or stored, the least significant first, and an acquire or a
release goes with them (R119); a conflict in deterministic mode (R133) and a poisoned byte raise their faults; out of range in any byte,
the load writes 0, the store changes nothing, and SPOOB records the access with ENG 0. Memory stands, and no other slot changes but one
whose scratchpad takes a byte. An address of the slot's own scratchpad lies at its offset, if that is below its size. -/
def Obligations.ScratchpadWordsAccessTheSlot : Prop :=
  ∀ (s : State) (g : Guard) (sd : Reg) (a data : Src) (size : BitVec 3) (order : BitVec 2) (scope : BitVec 4) (off : BitVec 22),
    StorageCanonical s → (10 ≤ scope.toNat → ctxPriv s (curSlot s).ctx = true) →
    let load : Instr := .ldsp g sd a size order scope off
    let store : Instr := .stsp g data a size order scope off
    let k := s.cur.slot
    let me := issuerOf s k 0
    let n := 2 ^ (size.toNat % 4)
    let v := ea s a off
    let inRange := ∀ j, j < n → spAt s k (spByte v j) ≠ none
    v.toNat % n = 0 →
    (∀ c o : Nat, o < 2 ^ 26 → c = 7 ∨ c = k.val / 2 % 6 →
      spAt s k (c * 2 ^ 26 + o) = if o < (curSlot s).partw.toNat / 2 ^ 24 % 2 ^ 8 * 16384 then some (k, o) else none) ∧
    (Runs s g [a] →
      (¬ inRange → Completes load s ((noted s (past s [a]) false v).writeS sd 0)) ∧
      (inRange → ∀ m o, spAt s k v.toNat = some (m, o) →
        let d := detControl (past s [a]) true .read (m.val * 2 ^ 26 + o) n
        (∀ f, d = .error f → Raises load s f.1 f.2) ∧
        ∀ x, d = .ok x →
          (∀ j, j < n → spBad s k (spByte v j) = true → (∀ i, i < j → spBad s k (spByte v i) = false) →
            Raises load s 0x13 (v + .ofNat 64 j)) ∧
          ((∀ j, j < n → spBad s k (spByte v j) = false) → ∃ y, SameSlot y (past s [a]) ∧
            Completes load s (y.writeS sd (loaded size (littleEndian n (fun j => spGet s k (spByte v j))))) ∧
            ∀ j q p rs, j < n → spAt s k (spByte v j) = some (q, p) → tableGet (getSlot s q).spRels p = some rs →
              (order = 1 → Acquires s me scope.toNat rs y 0) ∧ (order ≠ 1 → ∀ r ∈ rs, r ∈ (y.order[0]).read)))) ∧
    (Runs s g [a, data] →
      (¬ inRange → Completes store s (noted s (past s [a, data]) true v)) ∧
      (inRange → ∀ m o, spAt s k v.toNat = some (m, o) →
        let d := detControl (past s [a, data]) true .write (m.val * 2 ^ 26 + o) n
        (∀ f, d = .error f → Raises store s f.1 f.2) ∧
        ∀ x, d = .ok x → ∃ u, exec store s = .next u ∧ SameMemory s u ∧ { u with slots := s.slots } = s ∧
          (∀ q, let y := if q = k then past s [a, data] else getSlot s q
            SameSlot { getSlot u q with scratch := y.scratch, spPoison := y.spPoison, spRels := y.spRels } y) ∧
          (∀ j q p, j < n → spAt s k (spByte v j) = some (q, p) → q = k ∨ lands s k = true →
            cellGet (getSlot u q).scratch p = (val s data).extractLsb' (8 * j) 8 ∧ p ∉ (getSlot u q).spPoison ∧
            (order = 2 → ∃ rs, tableGet (getSlot u q).spRels p = some rs ∧ ∃ r ∈ rs, r.by_ = me ∧ r.scope = scope.toNat ∧
              Sees (known (curSlot s) 0) r.known.view)) ∧
          (∀ q p, (∀ j, j < n → spAt s k (spByte v j) ≠ some (q, p)) →
            cellGet (getSlot u q).scratch p = cellGet (getSlot s q).scratch p) ∧
          ∀ q, q ≠ k → lands s k = false → getSlot u q = getSlot s q))

/-- CLEAN, INVAL and FENCE (R187, R188, R191). A line is translated as a load translates it, and needs the footprint entry of one (R130);
no byte of memory changes but the entry's (the model holds no data cache: log entry 7); INVAL lets instruction fetch by the cores that
the scope covers see the line as it stands. FENCE changes no memory: an acquire learns what the releases that it has read from released, a
release goes with every later write, and an SC fence takes its place after those before it and learns from them, all where the scopes
include each other's issuers (R119, R120; log entry 6). -/
def Obligations.CacheAndFenceWordsAct : Prop :=
  ∀ (s : State) (g : Guard) (a : Src) (scope : BitVec 4) (off : BitVec 22),
    MemoryCanonical s → (10 ≤ scope.toNat → ctxPriv s (curSlot s).ctx = true) →
    let k := s.cur.slot
    let me := issuerOf s k 0
    let line : Word := .ofNat 64 ((ea s a off).toNat / 64 * 64)
    let clean : Instr := .clean g a scope off
    let inval : Instr := .inval g a scope off
    let covers (c : Fin 96) : Prop := if scope.toNat ≤ 2 then c.val = k.val / 2 else if scope.toNat = 3 then c.val / 6 = k.val / 12
      else if scope.toNat = 4 then c.val / 24 = k.val / 48 else if scope.toNat = 5 then c.val / 48 = k.val / 96 else True
    let check : Option FCode := if (curSlot s).detctl then detEntry (footOf (curSlot s)) .read line.toNat 64 else none
    (Runs s g [a] →
      (∀ f, translate (inBody s [a]) k line .read = .error f → Raises clean s f.1 f.2 ∧ Raises inval s f.1 f.2) ∧
      ∀ t w, translate (inBody s [a]) k line .read = .ok (t, w) → SlotIs s t k (past s [a]) ∧ (∀ b, ¬ InEntry w b → SameByte s t b) ∧
        (∀ f, check = some f → RaisesAfter clean s t f.1 f.2 ∧ RaisesAfter inval s t f.1 f.2) ∧
        (check = none → exec clean s = .next t ∧ ∃ u, exec inval s = .next u ∧ { u with cores := t.cores } = t ∧ ∀ c : Fin 96,
          (¬ covers c → u.cores[c] = t.cores[c]) ∧
          (covers c → { u.cores[c] with fetched := (t.cores[c]).fetched } = t.cores[c] ∧
            ∀ l, l ∈ (u.cores[c]).fetched ↔ (l ∈ (t.cores[c]).fetched ∧ l.pa ≠ w.pa) ∨ l = ⟨w.pa, t.writes, readBytes t w.pa 64⟩))) ∧
    ∀ kind : BitVec 2, (curSlot s).guard g = true → ∃ u y, exec (.fence g kind scope) s = .next u ∧ SameMemory s u ∧
      SlotIs s u k y ∧ SameSlot y (past s []) ∧ { u with slots := s.slots, sc := s.sc } = s ∧ (kind ≠ 3 → u.sc = s.sc) ∧
      Sees (known (curSlot s) 0) (known y 0) ∧
      (kind ≠ 1 → Acquires s me scope.toNat ((curSlot s).order[0]).read y 0) ∧
      (kind ≠ 0 → ∃ r ∈ (y.order[0]).fences, r.by_ = me ∧ r.scope = scope.toNat ∧ Sees (known y 0) r.known.view) ∧
      (∀ r ∈ ((curSlot s).order[0]).fences, r.scope ≠ scope.toNat → r ∈ (y.order[0]).fences) ∧
      (kind = 3 → Acquires s me scope.toNat s.sc y 0 ∧
        (∃ r ∈ u.sc, r.by_ = me ∧ r.scope = scope.toNat ∧ Sees (known y 0) r.known.view) ∧
        ∀ r ∈ s.sc, ¬ (r.by_ = me ∧ r.scope = scope.toNat) → r ∈ u.sc)

/-- The barrier words (R193 to R195): BARINIT's four rows; BARARRIVE counts and writes the phase before it, a release at the barrier's
scope (R121); BAREXPECT adds to PEND; BARWAIT waits for the phase to change and BARTEST reports it, an acquire of the arrivals that ended
the phase. The test that ends a phase comes with the cycle's end (R196): StepTakesTheNextMove has it. An index of 512 or more, or of a
barrier that the slot does not own, raises 0x07 in each but BARINIT, where only the index does. No other barrier changes, and no memory. -/
def Obligations.BarrierWordsFollowTheRules : Prop :=
  ∀ (s : State) (g : Guard) (sd : Reg) (pd : Pred) (a b : Src) (scope : BitVec 4),
    let k := s.cur.slot
    let i := val s a
    let old := barrierOf s i
    let n : BitVec 16 := (val s b).setWidth 16
    let me := decide (k.val % 2 = 1)
    let by_ := issuerOf s k 0
    (Runs s g [a, b] →
      (512 ≤ i.toNat → Raises (.barinit g sd a b scope) s 0x07 i) ∧
      (i.toNat < 512 → ∃ u, exec (.barinit g sd a b scope) s = .next u ∧ SameMemory s u ∧
        let other := ∃ c, old.owner = some (!me, c)
        SlotIs s u k ((past s [a, b]).writeS sd (if other then 1 else if n = 0 ∧ old.owner = none then 2 else 0)) ∧
        BarrierIs s u i (if other ∨ (n = 0 ∧ old.owner = none) then old
          else if n = 0 then { old with owner := none }
          else ⟨some (me, (curSlot s).ctx), scope, n, 0, 0, false, false, [], []⟩))) ∧
    (Runs s g [a] → Owned s i → ∃ u, exec (.bararrive g sd a) s = .next u ∧ SameMemory s u ∧
      SlotIs s u k ((past s [a]).writeS sd (.ofNat 64 (old.phase.toNat + if old.arr.toNat < old.exp.toNat then 0 else 2))) ∧
      BarrierIs s u i (if old.arr.toNat < old.exp.toNat then { old with arr := old.arr + 1 } else { old with surp := true }) ∧
      (old.arr.toNat < old.exp.toNat → ∃ r ∈ (getBarrier u (coreOf k) i.toNat).rels, r.by_ = by_ ∧ r.scope = old.scope.toNat ∧
        Sees (known (curSlot s) 0) r.known.view)) ∧
    (Runs s g [a, b] → Owned s i → ∃ u, exec (.barexpect g a b) s = .next u ∧ SameMemory s u ∧ SlotIs s u k (past s [a, b]) ∧
      BarrierIs s u i { old with pend := old.pend + (val s b).setWidth 48 }) ∧
    (Runs s g [a, b] → Owned s i → old.phase ≠ (val s b).getLsbD 0 →
      (∃ y, Completes (.barwait g a b) s y ∧ SameSlot y (past s [a, b]) ∧ Acquires s by_ old.scope.toNat old.last y 0) ∧
      ∃ y, Completes (.bartest g pd a b) s y ∧ SameSlot y ((past s [a, b]).writeP pd true) ∧
        Acquires s by_ old.scope.toNat old.last y 0) ∧
    (Runs s g [a, b] → Owned s i → old.phase = (val s b).getLsbD 0 →
      Waits (.barwait g a b) s ∧ Completes (.bartest g pd a b) s ((past s [a, b]).writeP pd false)) ∧
    (¬ Owned s i →
      (Runs s g [a] → Raises (.bararrive g sd a) s 0x07 i) ∧
      (Runs s g [a, b] → Raises (.barexpect g a b) s 0x07 i ∧ Raises (.barwait g a b) s 0x07 i ∧ Raises (.bartest g pd a b) s 0x07 i))

/-- The tag words (R197): TAGWAITANY and TAGWAITALL return when their tags are set, or wait at their word; TAGFIRST reports the lowest;
each is an acquire of what set the tags that it has seen (R121); TAGCLR clears. Nothing else changes. -/
def Obligations.TagWordsFollowTheRules : Prop :=
  ∀ (s : State) (g : Guard) (sd : Reg) (a : Src), Runs s g [a] →
    let m := val s a
    let hit := (curSlot s).tags &&& m
    let learns (y : Slot) (n : Nat) : Prop := ∀ l, (n, l) ∈ (curSlot s).tagKnown → Sees l.view (known y 0)
    (m = 0 ∨ hit ≠ 0 → ∃ y, Completes (.tagwaitany g sd a) s y ∧ SameSlot y ((past s [a]).writeS sd hit) ∧
      ∀ n, hit.getLsbD n = true → learns y n) ∧
    (m ≠ 0 → hit = 0 → Waits (.tagwaitany g sd a) s) ∧
    (hit = m → ∃ y, Completes (.tagwaitall g a) s y ∧ SameSlot y (past s [a]) ∧ ∀ n, m.getLsbD n = true → learns y n) ∧
    (hit ≠ m → Waits (.tagwaitall g a) s) ∧
    (∀ n : Nat, hit.getLsbD n = true → (∀ j, j < n → hit.getLsbD j = false) →
      ∃ y, Completes (.tagfirst g sd a) s y ∧ SameSlot y ((past s [a]).writeS sd (.ofNat 64 n)) ∧ learns y n) ∧
    (hit = 0 → Completes (.tagfirst g sd a) s ((past s [a]).writeS sd 64)) ∧
    Completes (.tagclr g a) s { past s [a] with
      tags := (curSlot s).tags &&& ~~~m, tagKnown := (curSlot s).tagKnown.filter (fun p => !m.getLsbD p.1) }

/-- ESTART, EPUT, EGET, FMTQ and JOIN (R198 to R201): a stream starts at an even PC unless it is started, with its status, and knows what
the control stream does (what its cells, key and counter hold then is log entry 10, the model's choice); a cell is written or read; a
format word joins the queue, folded into the signature, or waits for room; JOIN waits for the streams that it names, and learns what they
and their launches have done. -/
def Obligations.StreamWordsFollowTheRules : Prop :=
  ∀ (s : State) (g : Guard) (sd : Reg) (e : BitVec 3) (p : Fin 4) (n : BitVec 4) (a : Src), engineOf e p →
    let y := (curSlot s).engs[p]
    let v := val s a
    (Runs s g [a] →
      (y.started = true → Completes (.estart g sd e a) s ((past s [a]).writeS sd 1)) ∧
      (y.started = false → v = 0 → Completes (.estart g sd e a) s ((past s [a]).writeS sd 2)) ∧
      (y.started = false → v.getLsbD 0 = true → Raises (.estart g sd e a) s 0x05 v) ∧
      (y.started = false → v ≠ 0 → v.getLsbD 0 = false → ∃ x, Completes (.estart g sd e a) s x ∧
        SameSlot x (({ past s [a] with engs := (past s [a]).engs.set p (startedAt y v) } : Slot).writeS sd 0) ∧
        Sees (known (curSlot s) 0) (known x (engCode p))) ∧
      Completes (.eput g e n a) s { past s [a] with engs := (past s [a]).engs.set p { y with cells := y.cells.set n.toNat v } } ∧
      ((curSlot s).fmtq.length < 16 → Completes (.fmtq g a) s
        { past s [a] with fmtq := (curSlot s).fmtq ++ [v], sig := sigFold (curSlot s).sig v }) ∧
      (16 ≤ (curSlot s).fmtq.length → Waits (.fmtq g a) s)) ∧
    ((curSlot s).guard g = true →
      Completes (.eget g sd e n) s ((past s []).writeS sd (y.cells[n.toNat])) ∧
      ∀ mask : BitVec 4,
        let clear := ∀ q : Fin 4, mask.getLsbD q = true →
          (((curSlot s).engs[q]).started = false ∨ ((curSlot s).engs[q]).arrived = true) ∧ ((curSlot s).engs[q]).launches = []
        (clear → ∃ x, Completes (.join g mask) s x ∧ SameSlot x (past s []) ∧ ∀ q : Fin 4, mask.getLsbD q = true →
          Sees (known (curSlot s) (engCode q)) (known x 0) ∧ Sees ((curSlot s).fin[engCode q]).view (known x 0)) ∧
        (¬ clear → Waits (.join g mask) s))

/-- SPAWN (R202): the card that the operand names joins the target queue, with its number in sd, and the job is to see what its spawner
has written (R127, R128); all else of the module stands but the page-table entries used and the context's next number. A full queue
gives 0 with nb, and else a wait. (Which fault of R43 comes first where a card breaks several of its conditions is log entry 79.) -/
def Obligations.SpawnQueuesItsJob : Prop :=
  ∀ (s : State) (g : Guard) (sd : Reg) (a : Src) (q : BitVec 4) (nb : Bool) (y : Context) (j : Job) (tq : Nat), Runs s g [a] →
    findCtx s (curSlot s).ctx = some y → (curSlot s).job = some j → ∀ word : Word, encodeControl (.spawn g sd a q nb) = some word →
    let k := s.cur.slot
    (∀ f, spawnTarget y j.queue q.toNat (val s a) word = .error f → Raises (.spawn g sd a q nb) s f.1 f.2) ∧
    (spawnTarget y j.queue q.toNat (val s a) word = .ok tq →
      let r := enterQueue (inBody s [a]) y tq (val s a) word (viewOf (madeBefore s k))
      (∀ t n, r = .ok (t, n) → ∃ u i, exec (.spawn g sd a q nb) s = .next u ∧ SlotIs s u k ((past s [a]).writeS sd (.ofNat 64 n)) ∧
        n = y.nextSeq ∧ u.jobs = s.jobs ++ [i] ∧ i.seq = n ∧ i.ctx = y.id ∧ i.queue = tq ∧ i.card.addr = val s a ∧ i.started = false ∧
        i.admitted = false ∧ (∀ p ∈ (curSlot s).made, p.2 < (known (curSlot s) 0).at p.1 → p.2 < i.edge.at p.1) ∧
        (∀ c, c ≠ y.id → findCtx u c = findCtx s c) ∧ u.mem = t.mem) ∧
      (r = .error .full → if nb then Completes (.spawn g sd a q nb) s ((past s [a]).writeS sd 0) else Waits (.spawn g sd a q nb) s) ∧
      (∀ f, r = .error (.fault f) → Raises (.spawn g sd a q nb) s f.1 f.2) ∧
      (r = .error .feature → Raises (.spawn g sd a q nb) s 0x01 word))

/-- CPCHAIN and CPSTAT (R205, R207): bind, kick and stop change the slot's channel and give the status of the table; stop waits while a
record is in progress; CPSTAT reads the channel. -/
def Obligations.ChannelWordsFollowTheRules : Prop :=
  ∀ (s : State) (g : Guard) (sd : Reg) (a b : Src) (ch : Bool),
    let c := (curSlot s).chans[chanNo ch]
    let size := (val s b).toNat % 512
    let bind : Instr := .cpchainBind g sd a b ch
    (Runs s g [a, b] →
      (Busy c → Completes bind s ((past s [a, b]).writeS sd 1)) ∧
      (¬ Busy c → (val s a).toNat % 64 ≠ 0 → Raises bind s 0x05 (val s a)) ∧
      (¬ Busy c → (val s a).toNat % 64 = 0 → (¬ ∃ n, n ≤ 8 ∧ size = 2 ^ n) → Completes bind s ((past s [a, b]).writeS sd 2)) ∧
      (¬ Busy c → (val s a).toNat % 64 = 0 → (∃ n, n ≤ 8 ∧ size = 2 ^ n) → Completes bind s
        ((withChan (past s [a, b]) ch { Channel.reset with
          bound := true, ring := val s a, size := size, order := { Order.empty with cur := ((curSlot s).order[0]).cur } }).writeS sd 0))) ∧
    ((curSlot s).guard g = true →
      (c.bound = false → Completes (.cpchainKick g sd ch) s ((past s []).writeS sd 3) ∧
        Completes (.cpchainStop g sd ch) s ((past s []).writeS sd 3)) ∧
      (c.bound = true → ∃ r, Sees (known (curSlot s) 0) r.cur.view ∧ Sees c.order.cur.view r.cur.view ∧
        Completes (.cpchainKick g sd ch) s ((withChan (past s []) ch { c with idle := false, order := r }).writeS sd 0)) ∧
      (c.bound = true → c.rcd = none → c.halt = none → Completes (.cpchainStop g sd ch) s
        ((withChan (past s []) ch { c with stop := true, stopping := false, idle := false }).writeS sd 0)) ∧
      (c.bound = true → c.rcd ≠ none ∨ c.halt ≠ none → Completes (.cpchainStop g sd ch) s
        { withChan (curSlot s) ch { c with stopping := true } with wait := some (.cpchainStop g sd ch) }) ∧
      Completes (.cpstat g sd ch) s ((past s []).writeS sd (.ofNat 64 (c.nrec.toNat * 2 ^ 16 + c.head % 256 * 2 ^ 8 + c.bound.toNat * 16 +
        c.stop.toNat * 8 + c.halt.isSome.toNat * 4 + c.idle.toNat * 2 +
        (c.bound && !c.stop && c.halt.isNone && !c.idle).toNat))))

/-- RDYSET and RDYTEST (R208 to R210), for a tile and generation operand whose homes translate: at its own die a publication raises the
counter by 1 and makes the tile ready where there is room, with sd, a release at module scope (R127); past the advance point it changes
nothing, with sd = 2; to another die it travels. A stale generation raises 0x0A. RDYTEST reports readiness, and acquires from what made
it; an operand that names no tile raises 0x07. -/
def Obligations.ReadinessWordsFollowTheRules : Prop :=
  ∀ (s : State) (g : Guard) (sd : Reg) (pd : Pred) (a b : Src), Runs s g [a, b] →
    let k := s.cur.slot
    let c := (curSlot s).ctx
    let me := issuerOf s k 0
    (∀ f, tileNamed s c (val s a) (val s b) = .error f → Raises (.rdyset g sd a b) s f.1 f.2 ∧ Raises (.rdytest g pd a b) s f.1 f.2) ∧
    ∀ (r : Layout) (tile : TileName), tileNamed s c (val s a) (val s b) = .ok (r, { tile with gen := r.gen }) →
      tile.gen = (val s a).toNat / 2 ^ 16 % 256 →
      (∀ t f, readyHomes (inBody s [a, b]) c r tile = .error (t, f) →
        RaisesAfter (.rdyset g sd a b) s t f.1 f.2 ∧ RaisesAfter (.rdytest g pd a b) s t f.1 f.2) ∧
      ∀ t home counter, readyHomes (inBody s [a, b]) c r tile = .ok (t, home, counter) →
        let ready := isReady s home c tile
        let whole := tileCount s c tile.handle tile.gen = r.tcount
        (home = dieOf k → tile.gen ≠ r.gen → RaisesAfter (.rdyset g sd a b) s t 0x0A (val s a)) ∧
        (home = dieOf k → tile.gen = r.gen → ∃ u, exec (.rdyset g sd a b) s = .next u ∧ u.mem = t.mem ∧
          (lands s k = false → SlotIs s u k ((past s [a, b]).writeS sd 2) ∧ u.ready = s.ready ∧ u.counts = s.counts) ∧
          (lands s k = true →
            SlotIs s u k ((past s [a, b]).writeS sd (if ready = true ∨ readyRoom s home c = true then 0 else 1)) ∧
            (∀ d c' t', isReady u d c' t' = (isReady s d c' t' ||
              decide (readyRoom s home c = true ∧ d = home ∧ c' = c ∧ t' = tile))) ∧
            (∀ c' h n, tileCount u c' h n = tileCount s c' h n + if c' = c ∧ h = tile.handle ∧ n = tile.gen then 1 else 0) ∧
            ∃ e ∈ u.counts, e.ctx = c ∧ e.handle = tile.handle ∧ e.gen = tile.gen ∧
              ∃ q ∈ e.rels, q.by_ = me ∧ q.scope = 6 ∧ Sees (known (curSlot s) 0) q.known.view)) ∧
        (home ≠ dieOf k → ∃ u q, exec (.rdyset g sd a b) s = .next u ∧ u.ready = s.ready ∧ u.counts = s.counts ∧
          u.remoteReady = s.remoteReady ++ [q] ∧ q.die = home ∧ q.slot = k ∧ q.ctx = c ∧ q.a = val s a ∧ q.tile = tile ∧
          q.counterDie = counter ∧ q.rel.by_ = me ∧ q.rel.scope = 6 ∧ Sees (known (curSlot s) 0) q.rel.known.view ∧
          SlotIs s u k { curSlot s with await := some (.rdyset sd), wait := some (.rdyset g sd a b) }) ∧
        (tile.gen ≠ r.gen → RaisesAfter (.rdytest g pd a b) s t 0x0A (val s a)) ∧
        (tile.gen = r.gen → ∃ u y, exec (.rdytest g pd a b) s = .next u ∧ u.mem = t.mem ∧ u.ready = s.ready ∧ u.counts = s.counts ∧
          SlotIs s u k (y.writeP pd (ready || decide whole)) ∧ SameSlot y (past s [a, b]) ∧
          (∀ e, s.ready.find? (fun e => decide (e.die = home ∧ e.ctx = c ∧ e.tile = tile)) = some e → Acquires s me 6 e.rels y 0) ∧
          (whole → ∀ e, findCount s c tile.handle tile.gen = some e → Acquires s me 6 e.rels y 0))

/-- The tile words (R208, R211 to R214): TCPREF and TCHALO ask for fills, of tiles along the dimension and of face neighbours, and wait
for none; TCINV drops lines, TCCLEAN writes them back and keeps them clean, and in both what eviction has already sent to memory lands
(R102); TCPIN pins the filled line or gives 1; TCUNPIN unpins; TCLOOK reads the line's state and changes nothing. An operand that names no
tile raises 0x07. In deterministic mode TCINV, TCCLEAN and TCPIN need the entries of R214, for the bytes of the sectors that a line holds
(log entry 80). -/
def Obligations.TileWordsFollowTheRules : Prop :=
  ∀ (s : State) (g : Guard) (sd : Reg) (a b c : Src), MemoryCanonical s →
    let k := s.cur.slot
    let x := (curSlot s).ctx
    (∀ f, tileNamed s x (val s a) (val s b) = .error f →
      (Runs s g [a, b] → (∀ dim n, Raises (.tcpref g a b dim n) s f.1 f.2) ∧ Raises (.tcinv g a b false) s f.1 f.2 ∧
        Raises (.tcclean g a b false) s f.1 f.2 ∧ Raises (.tcpin g sd a b) s f.1 f.2 ∧ Raises (.tcunpin g a b) s f.1 f.2 ∧
        Raises (.tclook g sd a b) s f.1 f.2) ∧
      (Runs s g [a, b, c] → Raises (.tchalo g a b c) s f.1 f.2)) ∧
    (Runs s g [a, b] → findLayout s x ((val s a).toNat % 2 ^ 16) = none →
      Raises (.tcinv g a b true) s 0x07 (val s a) ∧ Raises (.tcclean g a b true) s 0x07 (val s a)) ∧
    (Runs s g [a, b] → ∀ whole p, NamesTiles s x (val s a) (val s b) whole p →
      let mine (l : TileLine) : Bool := decide (l.ctx = x) && p l.tile
      let allowed := ∀ l ∈ s.lines, mine l = true → ∀ q ∈ l.runs, Covered s .write q.va q.len
      (¬ allowed → ∃ f : FCode, (∃ l ∈ s.lines, mine l = true ∧ ∃ q ∈ l.runs, detEntry (footOf (curSlot s)) .write q.va.toNat q.len = some f) ∧
        Raises (.tcinv g a b whole) s f.1 f.2 ∧ Raises (.tcclean g a b whole) s f.1 f.2) ∧
      (allowed → ∃ u, exec (.tcinv g a b whole) s = .next u ∧ SlotIs s u k (past s [a, b]) ∧
        (∀ l, l ∈ u.lines ↔ l ∈ s.lines ∧ mine l = false) ∧ Lands s u (OnItsWay s x p) ∧
        (∀ w, w ∈ u.writeBacks ↔ w ∈ s.writeBacks ∧ ¬ (w.ctx = x ∧ p w.tile = true)) ∧
        { u with mem := s.mem, poison := s.poison, log := s.log, lines := s.lines, writeBacks := s.writeBacks, slots := s.slots } = s) ∧
      (allowed → ∃ u, exec (.tcclean g a b whole) s = .next u ∧ SlotIs s u k (past s [a, b]) ∧
        u.lines = s.lines.map (fun l => if mine l then { l with dirty := 0 } else l) ∧
        Lands s u (fun i v => OnItsWay s x p i v ∨ ∃ l o, DirtyAt s x p i l o ∧ o ∉ l.bad ∧ v = cellGet l.data o) ∧
        (∀ i l o, DirtyAt s x p i l o → o ∈ l.bad → (∀ l' o', DirtyAt s x p i l' o' → o' ∈ l'.bad) → i ∈ u.poison) ∧
        (∀ w, w ∈ u.writeBacks ↔ w ∈ s.writeBacks ∧ ¬ (w.ctx = x ∧ p w.tile = true)) ∧
        { u with mem := s.mem, poison := s.poison, log := s.log, lines := s.lines, writeBacks := s.writeBacks, slots := s.slots } = s)) ∧
    ∀ r tile, tileNamed s x (val s a) (val s b) = .ok (r, tile) →
      let find := s.lines.find? (fun l => decide (l.ctx = x ∧ l.tile = tile))
      let rev : Bool := s.revoked.any (fun p => decide (p.1 = x ∧ p.2 = tile))
      (Runs s g [a, b] →
        (∀ (dim : BitVec 2) (n : BitVec 4), ∃ u l, exec (.tcpref g a b dim n) s = .next u ∧ SameMemory s u ∧ SlotIs s u k (past s [a, b]) ∧
          u.lines = s.lines ∧ u.fills = s.fills ++ l ∧ ∀ q, q ∈ l ↔ q.ctx = x ∧ q.sectors = allSectors r ∧
            (if dim.toNat < r.ndim then ∃ i, i ≤ n.toNat ∧ tile.coords.getD dim.toNat 0 + i < r.tilesIn dim.toNat ∧
              q.tile = { tile with coords := tile.coords.set dim.toNat (tile.coords.getD dim.toNat 0 + i) }
            else q.tile = tile)) ∧
        (let allowed := ∀ q ∈ tileSpans r tile.coords (allSectors r), Covered s .read q.2.1 q.2.2
         (¬ allowed → ∃ f : FCode, (f.1 = 0x08 ∨ f.1 = 0x09) ∧ Raises (.tcpin g sd a b) s f.1 f.2) ∧
         (allowed →
          (∀ f, fillTile (inBody s [a, b]) x r tile (allSectors r) = .fault f → Raises (.tcpin g sd a b) s f.1 f.2) ∧
          (∀ t l, fillTile (inBody s [a, b]) x r tile (allSectors r) = .line t l →
            (pinFits t l.die x tile (sectorKiB (allSectors r)) = true → ∃ u, exec (.tcpin g sd a b) s = .next u ∧ u.mem = t.mem ∧
              SlotIs s u k ((past s [a, b]).writeS sd 0) ∧
              (∃ m ∈ u.lines, m.ctx = l.ctx ∧ m.tile = l.tile ∧ m.pinned = true ∧ m.data = l.data) ∧
              ∀ p, p ∈ u.revoked ↔ p ∈ s.revoked ∧ ¬ (p.1 = x ∧ p.2 = tile)) ∧
            (pinFits t l.die x tile (sectorKiB (allSectors r)) = false → Completes (.tcpin g sd a b) s ((past s [a, b]).writeS sd 1))) ∧
          (∀ t, fillTile (inBody s [a, b]) x r tile (allSectors r) = .bypass t →
            Completes (.tcpin g sd a b) s ((past s [a, b]).writeS sd 1)))) ∧
        (∃ u, exec (.tcunpin g a b) s = .next u ∧ SameMemory s u ∧ SlotIs s u k (past s [a, b]) ∧
          u.lines = s.lines.map (fun l => if l.ctx = x ∧ l.tile = tile then { l with pinned := false } else l)) ∧
        (∀ l, find = some l → Completes (.tclook g sd a b) s ((past s [a, b]).writeS sd (.ofNat 64 (l.sectors.toNat * 2 ^ 32 +
          l.die.val * 16 + rev.toNat * 8 + l.pinned.toNat * 4 + (decide (l.dirty ≠ 0)).toNat * 2 + 1)))) ∧
        (find = none → Completes (.tclook g sd a b) s ((past s [a, b]).writeS sd (.ofNat 64 (rev.toNat * 8 +
          match tileHome s x r tile.coords with | some h => h.val * 16 | none => 64))))) ∧
      (Runs s g [a, b, c] → ∃ u l, exec (.tchalo g a b c) s = .next u ∧ SameMemory s u ∧ SlotIs s u k (past s [a, b, c]) ∧
        u.lines = s.lines ∧ u.fills = s.fills ++ l ∧ ∀ q, q ∈ l ↔ q.ctx = x ∧ ∃ d, d < r.ndim ∧
          let w := (val s c).toNat / 2 ^ (8 * d) % 256
          let cd := tile.coords.getD d 0
          w ≠ 0 ∧ ((1 ≤ cd ∧ q.tile = { tile with coords := tile.coords.set d (cd - 1) } ∧ q.sectors = faceSectors r d w true) ∨
            (cd + 1 < r.tilesIn d ∧ q.tile = { tile with coords := tile.coords.set d (cd + 1) } ∧ q.sectors = faceSectors r d w false)))

namespace Sys2Proof.Claim

open Sys2Proof.Machine

/-- The helpers of R274. -/
def fadd (x y : Nat) : Nat := (fpAdd fp32 0 0 x y).1
def fsub (x y : Nat) : Nat := (fpSub fp32 0 0 x y).1
def fmul (x y : Nat) : Nat := (fpMul fp32 0 0 x y).1
def fdiv (x y : Nat) : Nat := (fpDiv fp32 0 0 x y).1
def ffma (x y z : Nat) : Nat := (fpFma fp32 0 0 x y z).1
def fneg (x : Nat) : Nat := (x + 2 ^ 31) % 2 ^ 32
def fabs (x : Nat) : Nat := x % 2 ^ 31
def notNaN (x : Nat) : Bool := decide (fabs x ≤ 0x7F80_0000)
/-- a < b, a ≤ b and a = b as numbers (R170). -/
def less (a b : Nat) : Bool := (fpCond fp32 10 a b).1
def lessEq (a b : Nat) : Bool := (fpCond fp32 11 a b).1
def equal (a b : Nat) : Bool := (fpCond fp32 8 a b).1

end Sys2Proof.Claim

namespace Sys2Proof.Claim.Die

open Sys2Proof.Machine

/-! The work of the die units (R299 to R317, R326 to R346): what a request reads and writes, in order, and how it comes out. -/

/-- A part of a request's work: what it begins in and what it leaves. -/
abbrev Part := UnitWork → UnitWork → Prop
/-- How a request comes out. -/
abbrev Outcome := Except UnitStop (Word × UnitWork)

def Then (p q : Part) : Part := fun w u => ∃ v, p w v ∧ q v u
def When (c : Prop) (p : Part) : Part := fun w u => (c ∧ p w u) ∨ (¬ c ∧ u = w)
def Each {α : Type} (p : α → Part) : List α → Part
  | [] => fun w u => u = w
  | x :: xs => Then (p x) (Each p xs)
/-- The reply v, at the end of a part of the work. -/
def Gives (v : Word) (p : Part) (w : UnitWork) (r : Outcome) : Prop := ∃ u, p w u ∧ r = .ok (v, u)
/-- A status that changes nothing, and a fault that changes nothing. -/
def Stops (v : Word) (w : UnitWork) (r : Outcome) : Prop := r = .error (.status w.base v w.accs)
def Faults (f : FCode) (w : UnitWork) (r : Outcome) : Prop := r = .error (.fault w.base f w.accs)

/-- Bytes read and written through the requester's page tables (R299), and in scratchpad (R93 to R95). -/
def Took (va : Word) (n : Nat) (bs : Bytes) : Part := fun w u => uRead va n w = .ok (bs, u)
def Put (va : Word) (bs : Bytes) : Part := fun w u => uWrite va bs w = .ok ((), u)
def SpTook (a n : Nat) (bs : Bytes) : Part := fun w u => uSpRead a n w = .ok (bs, u)
def SpPut (a : Nat) (bs : Bytes) : Part := fun w u => uSpWrite a bs w = .ok ((), u)
/-- Bytes that an atomic OR sets (R327). -/
def Ored (va : Word) (bs : Bytes) : Part := fun w u => uOr va bs w = .ok ((), u)
/-- A change of the state that is no access. -/
def Sets (f : State → State) : Part := fun w u => u = { w with s := f w.s, wrote := true }

/-- The little-endian number in n bytes from byte o on, and n bytes that hold a number. -/
def field (bs : Bytes) (o n : Nat) : Nat := littleEndian n (fun j => bs.getD (o + j) 0)
def le (n v : Nat) : Bytes := (List.range n).map (fun j => .ofNat 8 (v / 256 ^ j))
/-- Bits lo to lo + n − 1 of a number. -/
def bitsOf (v lo n : Nat) : Nat := v / 2 ^ lo % 2 ^ n
def TookNat (va : Word) (n v : Nat) : Part := fun w u => ∃ bs, Took va n bs w u ∧ v = field bs 0 n
def fields (bs : Bytes) (o n : Nat) : List Nat := (List.range n).map (fun i => field bs (o + 4 * i) 4)

/-! Pools (R301 to R306). -/

def none32 : Nat := 0xFFFF_FFFF
/-- The descriptor's fields, and their ranges. -/
def PoolIs (bs : Bytes) (a : Word) (p : Pool) : Prop :=
  p.desc = a ∧ p.base.toNat = field bs 0 8 ∧ p.psh = bitsOf (field bs 8 8) 0 5 ∧ p.qsh = bitsOf (field bs 8 8) 8 5 ∧
  p.nlg = bitsOf (field bs 8 8) 16 3 ∧ p.npage = field bs 16 8 ∧ p.rc.toNat = field bs 24 8 ∧ p.lnk.toNat = field bs 32 8 ∧
  p.seq.toNat = field bs 40 8 ∧ p.maxblk = field bs 56 8 ∧ p.win = fields bs 64 8
def PoolLegal (bs : Bytes) : Prop :=
  let psh := bitsOf (field bs 8 8) 0 5
  let qsh := bitsOf (field bs 8 8) 8 5
  field bs 0 8 < 2 ^ 48 ∧ 2 ^ psh ∣ field bs 0 8 ∧ 14 ≤ psh ∧ psh ≤ 20 ∧ 4 ≤ qsh ∧ qsh ≤ 8 ∧ qsh + 6 ≤ psh ∧
  field bs 8 8 = psh + qsh * 2 ^ 8 + bitsOf (field bs 8 8) 16 3 * 2 ^ 16 ∧ 1 ≤ field bs 16 8 ∧ field bs 16 8 ≤ 0xFFFF_FFFE ∧
  2 ∣ field bs 24 8 ∧ 4 ∣ field bs 32 8 ∧ 256 ∣ field bs 40 8 ∧ 1 ≤ field bs 56 8 ∧ field bs 56 8 ≤ 2 ^ 24 ∧ ∀ j < 4, field bs (96 + 8 * j) 8 = 0
/-- A request reads its pool's descriptor, by whose physical address the unit knows the pool (R300). -/
def Opens (a : Word) (p : Pool) : Part := fun w u =>
  ∃ bs, Took a 128 bs w u ∧ PoolLegal bs ∧ PoolIs bs a p ∧ p.pa = (peek u.s (ctxL1 u.s u.ctx) a .read).getD 0
def groups (p : Pool) : List Nat := List.range (p.nlg + 1)
def perPage (p : Pool) : Nat := 2 ^ p.qsh
def size (p : Pool) : Nat := 2 ^ (p.psh - p.qsh)
def entriesOf (p : Pool) (n : Nat) : Nat := (n + perPage p - 1) / perPage p
/-- The addresses of the structures. -/
def freeAt (p : Pool) : Word := p.desc + 0x30
def countAt (p : Pool) (n : Nat) : Word := p.rc + .ofNat 64 (2 * n)
def linkAt (p : Pool) (n : Nat) : Word := p.lnk + .ofNat 64 (4 * n)
def recordAt (p : Pool) (sq : Nat) : Word := p.seq + .ofNat 64 (256 * sq)
def placeAt (p : Pool) (n x : Nat) : Word := p.base + .ofNat 64 (n * 2 ^ p.psh + x % perPage p * size p)
def entryAt (bt : Word) (j : Nat) : Word := bt + .ofNat 64 (4 * j)

/-- FREE, as the unit reads it: the head page and the count. -/
def Free (p : Pool) (head count : Nat) : Part := fun w u => ∃ v, TookNat (freeAt p) 8 v w u ∧ head = v % 2 ^ 32 ∧ count = v / 2 ^ 32
def PutFree (p : Pool) (head count : Nat) : Part := Put (freeAt p) (le 4 head ++ le 4 count)
/-- An allocation: it takes the head page, makes its link the head, and sets its count to 1. -/
def Allocates (p : Pool) (n : Nat) : Part := fun w u =>
  ∃ count next v v', Free p n count w v ∧ n < p.npage ∧ 0 < count ∧ TookNat (linkAt p n) 4 next v v' ∧
    (next < p.npage ∨ (next = none32 ∧ count = 1)) ∧ Then (PutFree p next (count - 1)) (Put (countAt p n) (le 2 1)) v' u
/-- A release: it decreases the count, and pushes a page that reaches 0 on the list. -/
def Releases (p : Pool) (n : Nat) : Part := fun w u =>
  n < p.npage ∧ ∃ c v v', TookNat (countAt p n) 2 c w v ∧ 0 < c ∧ Put (countAt p n) (le 2 (c - 1)) v v' ∧
    When (c = 1) (fun v' u => ∃ head count v'', Free p head count v' v'' ∧ (head < p.npage ∨ (head = none32 ∧ count = 0)) ∧
      Then (Put (linkAt p n) (le 4 head)) (PutFree p n (count + 1)) v'' u) v' u
/-- The block table of a group of a sequence, and its entries (R303). -/
def TableIs (p : Pool) (sq g : Nat) (bt : Word) : Part := fun w u =>
  ∃ a, TookNat (recordAt p sq + .ofNat 64 (0x10 + 8 * g)) 8 a w u ∧ bt = .ofNat 64 a ∧ 4 ∣ a
def Entry (bt : Word) (j n : Nat) : Part := TookNat (entryAt bt j) 4 n
def PutEntry (bt : Word) (j n : Nat) : Part := Put (entryAt bt j) (le 4 n)
def between (a b : Nat) : List Nat := (List.range (b - a)).map (a + ·)
/-- The tail page of a group at length len, where it is shared: its entry and its number (R305). -/
def SharedTail (p : Pool) (len : Nat) (bt : Word) (t : Option (Nat × Nat)) : Part := fun w u =>
  if len % perPage p = 0 then t = none ∧ u = w
  else ∃ n c v, Entry bt (len / perPage p) n w v ∧ n < p.npage ∧ TookNat (countAt p n) 2 c v u ∧
    t = if 1 < c then some (len / perPage p, n) else none
/-- Copy on write (R305). -/
def TailCopied (p : Pool) (len : Nat) (bt : Word) : Part := fun w u =>
  ∃ t v, SharedTail p len bt t w v ∧
    match t with
    | none => u = v
    | some (j, old) => ∃ new bs v1 v2, Allocates p new v v1 ∧ Took (placeAt p old 0) (len % perPage p * size p) bs v1 v2 ∧
        Then (Put (placeAt p new 0) bs) (Then (Releases p old) (PutEntry bt j new)) v2 u
/-- Room for n positions from len on in a group. -/
def Grows (p : Pool) (len n : Nat) (bt : Word) : Part :=
  Then (TailCopied p len bt) (Each (fun j w u => ∃ page v, Allocates p page w v ∧ PutEntry bt j page v u)
    (between (entriesOf p len) (entriesOf p (len + n))))
/-- PagesFor (R312), over groups. -/
def PagesFor (p : Pool) (sq len n : Nat) : List Nat → Nat → Part
  | [], total => fun w u => total = 0 ∧ u = w
  | g :: gs, total => fun w u => ∃ bt t more v v', TableIs p sq g bt w v ∧ SharedTail p len bt t v v' ∧
      total = (if t.isSome then 1 else 0) + (entriesOf p (len + n) - entriesOf p len) + more ∧ PagesFor p sq len n gs more v' u
/-- An entry that holds a page loses it. -/
def Drops (p : Pool) (bt : Word) (j : Nat) : Part := fun w u =>
  ∃ n v, Entry bt j n w v ∧ When (n ≠ none32) (Then (Releases p n) (PutEntry bt j none32)) v u
/-- A window release at length len (R306): entry j while (j + 1) · PPOS ≤ len − WIN. -/
def Windowed (p : Pool) (sq len : Nat) : Part :=
  Each (fun g => When (0 < p.win.getD g 0 ∧ p.win.getD g 0 ≤ len)
    (fun w u => ∃ bt v, TableIs p sq g bt w v ∧ Each (Drops p bt) (between 0 ((len - p.win.getD g 0) / perPage p)) v u)) (groups p)
/-- Entries from one on up to another, of every group, lose their pages. -/
def DropsAll (p : Pool) (sq lo hi : Nat) : Part :=
  Each (fun g w u => ∃ bt v, TableIs p sq g bt w v ∧ Each (Drops p bt) (between lo hi) v u) (groups p)
def HoodReleased (p : Pool) (q : LiveSeq) : Part :=
  Each (fun n => When (n ≠ none32) (Releases p n)) (q.hood.toList.map BitVec.toNat)

/-! Sequences (R303, R304, R307). -/

def held (s : State) (p : Pool) (sq : Nat) : Option LiveSeq := s.seqs.find? (fun q => decide (q.pool = p.pa) && decide (q.seq = sq))
def noHood : Vector (BitVec 32) 32 := Vector.replicate 32 0xFFFF_FFFF
/-- The unit's entry of a sequence; while neither it nor VER is new, the hood goes on (R308). -/
def Kept (q : LiveSeq) : Part := fun w u =>
  ∃ e, u = { w with wrote := true, s := { w.s with
      eras := if e = w.s.eras then e + 1 else w.s.eras, seqs := w.s.seqs.filter (fun r => r.hid ≠ q.hid) ++ [{ q with era := e }] } } ∧
    ((∃ r, w.s.seqs.find? (fun r => r.hid = q.hid) = some r ∧ r.ver = q.ver ∧ e = r.era) ∨
     ((∀ r, w.s.seqs.find? (fun r => r.hid = q.hid) = some r → r.ver ≠ q.ver) ∧ e = w.s.eras))
/-- The entry and its mirror (R303). -/
def Mirrored (p : Pool) (q : LiveSeq) : Part :=
  Then (Kept q) (Then (Put (recordAt p q.seq) (le 8 (q.len % 2 ^ 32 + q.ver.toNat * 2 ^ 32 + q.hn * 2 ^ 48 + 2 ^ 55)))
    (Then (Put (recordAt p q.seq + 8) (le 8 q.hid)) (Put (recordAt p q.seq + 0x50) (q.hood.toList.flatMap (fun n => le 4 n.toNat)))))
/-- The lowest free entry of a die (R304). -/
def LowestFree (s : State) (d : Die) (e : Nat) : Prop :=
  e < 16384 ∧ (∀ r ∈ s.seqs, r.hid ≠ d.val * 16384 + e) ∧ ∀ e' < e, ∃ r ∈ s.seqs, r.hid = d.val * 16384 + e'
def NoneFree (s : State) (d : Die) : Prop := ∀ e < 16384, ∃ r ∈ s.seqs, r.hid = d.val * 16384 + e
def made (p : Pool) (d : Die) (e sq len : Nat) (c : Ctx) : LiveSeq := ⟨d.val * 16384 + e, p.pa, sq, c, len, 0, 0, noHood, [], 0⟩
/-- The status word of R311. -/
def statusWord (st : Nat) (q : Option LiveSeq) (w1 w0 : Nat) : Word :=
  .ofNat 64 (st * 2 ^ 56 + (match q with | some q => q.ver.toNat * 2 ^ 32 + q.hid * 2 ^ 16 | none => 0) + w1 * 2 ^ 8 + w0)
def operandSeq (b : Word) : Nat := b.toNat % 2 ^ 20
def operandVer (b : Word) : Nat := bitsOf b.toNat 20 16

/-- Hood pages for the slots (4g + h) that hold none. -/
def HoodGrows (p : Pool) : List Nat → Vector (BitVec 32) 32 → Vector (BitVec 32) 32 → Part
  | [], a, b => fun w u => b = a ∧ u = w
  | i :: is, a, b => fun w u =>
      ((a.toList.getD i 0).toNat = none32 ∧ ∃ n v, Allocates p n w v ∧ HoodGrows p is (a.setIfInBounds i (.ofNat 32 n)) b v u) ∨
      ((a.toList.getD i 0).toNat ≠ none32 ∧ HoodGrows p is a b w u)

/-- KVAPPEND (R312). -/
def Appends (d : Die) (a b c : Word) (w : UnitWork) (r : Outcome) : Prop :=
  ∃ p v, Opens a p w v ∧
    let sq := operandSeq b
    let old := held v.s p sq
    let stop (st : Nat) (v : UnitWork) : Prop := Stops (statusWord st old 0 0) v r
    let n := c.toNat % 2 ^ 32
    ((old = none ∧ NoneFree v.s d ∧ stop 6 v) ∨
     ∃ q, (old = some q ∨ (old = none ∧ ∃ e, LowestFree v.s d e ∧ q = made p d e sq 0 v.ctx)) ∧
      if c.getLsbD 32 then
        if n = 0 ∨ 2 ^ 24 < n then stop 9 v else if q.hn ≠ 0 then stop 2 v else if p.maxblk < entriesOf p (q.len + n) then stop 9 v
        else ∃ total head free v1 v2, PagesFor p q.seq q.len n (groups p) total v v1 ∧ Free p head free v1 v2 ∧
          if free < total then stop 1 v2
          else
            let q' := { q with len := q.len + n }
            Gives (statusWord 0 (some q') 0 0) (Then (Each (fun g w u => ∃ bt v, TableIs p q.seq g bt w v ∧ Grows p q.len n bt v u) (groups p))
              (Then (Mirrored p q') (Windowed p q.seq q'.len))) v2 r
      else
        if n = 0 ∨ 64 < n then stop 9 v else if q.hn = 64 then stop 2 v
        else ∃ head free v1 k, Free p head free v v1 ∧
          let fits (k : Nat) : Prop := k ≤ min n (64 - q.hn) ∧ (p.nlg + 1) * (entriesOf p (q.hn + k) - entriesOf p q.hn) ≤ free
          fits k ∧ (∀ k', fits k' → k' ≤ k) ∧
          if k = 0 then stop 1 v1
          else ∃ hood v2, HoodGrows p ((groups p).flatMap (fun g => (List.range (entriesOf p (q.hn + k))).map (4 * g + ·))) q.hood hood v1 v2 ∧
            let q' := { q with hood := hood, hn := q.hn + k, faults := q.faults.filter (fun f => decide (¬ (q.hn ≤ f.1 ∧ f.1 < q.hn + k))) }
            Gives (statusWord 0 (some q') q.hn k) (Mirrored p q') v2 r)

/-- KVCOMMIT (R313). -/
def Commits (a b c : Word) (w : UnitWork) (r : Outcome) : Prop :=
  ∃ p v, Opens a p w v ∧
    ((held v.s p (operandSeq b) = none ∧ Stops (statusWord 5 none 0 0) v r) ∨
     ∃ q, held v.s p (operandSeq b) = some q ∧
      let stop (st : Nat) (v : UnitWork) : Prop := Stops (statusWord st (some q) 0 0) v r
      if operandVer b ≠ q.ver.toNat then stop 3 v
      else ∃ first v1, TookNat c 8 first v v1 ∧
        let nacc := first % 2 ^ 7
        if 63 < nacc then stop 4 v1
        else ∃ bs v2, Took (c + 8) (nacc + 1) bs v1 v2 ∧
          let path := bs.map BitVec.toNat
          if path.head? ≠ some 0 ∨ (∃ n ∈ path, q.hn ≤ n) ∨ ¬ path.Nodup then Stops (statusWord 4 (some q) 0 0) v2 r
          else
            (∃ pre n post f, path = pre ++ n :: post ∧ (∀ m ∈ pre, ∀ f ∈ q.faults, f.1 ≠ m) ∧ q.faults.find? (fun f => f.1 = n) = some f ∧
              r = .error (.deferred { v2.base with seqs := v2.base.seqs.map (fun x =>
                  if x.hid = q.hid then { q with faults := q.faults.filter (fun f => f.1 ≠ n) } else x) }
                { f.2 with node := some (.ofNat 6 n) } v2.accs)) ∨
            ((∀ m ∈ path, ∀ f ∈ q.faults, f.1 ≠ m) ∧
              let pn := nacc + 1
              if p.maxblk < entriesOf p (q.len + pn) then stop 9 v2
              else ∃ total head free v3 v4, PagesFor p q.seq q.len pn (groups p) total v2 v3 ∧ Free p head free v3 v4 ∧
                if free < total then stop 1 v4
                else
                  let q' := { q with ver := q.ver + 1, hn := 0, hood := noHood, len := q.len + pn, faults := [] }
                  let copied (g : Nat) (bt : Word) (x : Nat × Nat) : Part := fun w u =>
                    let n := (q.hood.toList.getD (4 * g + x.1 / perPage p) 0).toNat
                    ∃ m v bs v', Entry bt ((q.len + x.2) / perPage p) m w v ∧ n < p.npage ∧ m < p.npage ∧
                      Took (placeAt p n x.1) (size p) bs v v' ∧ Put (placeAt p m (q.len + x.2)) bs v' u
                  Gives (statusWord 0 (some q') 0 0)
                    (Then (Each (fun g w u => ∃ bt v, TableIs p q.seq g bt w v ∧ Then (Grows p q.len pn bt) (Each (copied g bt) path.zipIdx) v u)
                        (groups p))
                      (Then (Kept q') (Then (HoodReleased p q) (Then (Mirrored p q') (Windowed p q.seq q'.len))))) v4 r))

/-- KVSQUASH (R314). -/
def Squashes (a b : Word) (w : UnitWork) (r : Outcome) : Prop :=
  ∃ p v, Opens a p w v ∧
    ((held v.s p (operandSeq b) = none ∧ Stops (statusWord 5 none 0 0) v r) ∨
     ∃ q, held v.s p (operandSeq b) = some q ∧
      if operandVer b ≠ q.ver.toNat then Stops (statusWord 3 (some q) 0 0) v r
      else
        let q' := { q with ver := q.ver + 1, hn := 0, hood := noHood, faults := [] }
        Gives (statusWord 0 (some q') 0 0) (Then (HoodReleased p q) (Mirrored p q')) v r)

/-- KVTRUNC (R315). -/
def Truncates (a b c : Word) (w : UnitWork) (r : Outcome) : Prop :=
  ∃ p v, Opens a p w v ∧
    ((held v.s p (operandSeq b) = none ∧ Stops (statusWord 5 none 0 0) v r) ∨
     ∃ q, held v.s p (operandSeq b) = some q ∧
      let len := c.toNat % 2 ^ 32
      if q.hn ≠ 0 then Stops (statusWord 2 (some q) 0 0) v r else if q.len < len then Stops (statusWord 9 (some q) 0 0) v r
      else
        let q' := { q with len := len }
        Gives (statusWord 0 (some q') 0 0) (Then (DropsAll p q.seq (entriesOf p len) (entriesOf p q.len)) (Mirrored p q')) v r)

/-- The entries below n of every group's table. -/
def Listed (p : Pool) (sq n : Nat) : List Nat → List (Nat × List Nat) → Part
  | [], out => fun w u => out = [] ∧ u = w
  | g :: gs, out => fun w u => ∃ bt l more v v', TableIs p sq g bt w v ∧ l.length = n ∧
      Each (fun x : Nat × Nat => Entry bt x.2 x.1) l.zipIdx v v' ∧ (∀ m ∈ l, m < p.npage ∨ m = none32) ∧ out = (g, l) :: more ∧ Listed p sq n gs more v' u

/-- KVFORK (R316). -/
def Forks (d : Die) (a b c : Word) (w : UnitWork) (r : Outcome) : Prop :=
  ∃ p v, Opens a p w v ∧
    let dest := held v.s p (operandSeq c)
    let stop (st : Nat) (v : UnitWork) : Prop := Stops (statusWord st dest 0 0) v r
    ((held v.s p (operandSeq b) = none ∧ stop 5 v) ∨
     ∃ q, held v.s p (operandSeq b) = some q ∧
      if q.hn ≠ 0 then stop 2 v else if dest.isSome then stop 7 v
      else (NoneFree v.s d ∧ stop 6 v) ∨
        ∃ e pages v1, LowestFree v.s d e ∧ Listed p q.seq (entriesOf p q.len) (groups p) pages v v1 ∧
          let shared := (pages.flatMap Prod.snd).filter (fun n => n ≠ none32)
          let count (n : Nat) (c : Nat) : Part := TookNat (countAt p n) 2 c
          let room : Nat → Part := fun n w u => ∃ k, count n k w u ∧ k + shared.count n ≤ 65535
          (∃ pre n post k v2 v3, shared.eraseDups = pre ++ n :: post ∧ Each room pre v1 v2 ∧ count n k v2 v3 ∧ 65535 < k + shared.count n ∧ stop 8 v3) ∨
          ∃ v2, Each room shared.eraseDups v1 v2 ∧
            let q' := made p d e (operandSeq c) q.len v.ctx
            Gives (statusWord 0 (some q') 0 0)
              (Then (Each (fun x w u => ∃ bt v, TableIs p (operandSeq c) x.1 bt w v ∧ Each (fun y : Nat × Nat => PutEntry bt y.2 y.1) x.2.zipIdx v u) pages)
                (Then (Each (fun n w u => ∃ k v, count n k w v ∧ Put (countAt p n) (le 2 (k + 1)) v u) shared) (Mirrored p q'))) v2 r)

/-- KVFREE (R317). -/
def Ends (a b : Word) (w : UnitWork) (r : Outcome) : Prop :=
  ∃ p v, Opens a p w v ∧
    ((held v.s p (operandSeq b) = none ∧ Stops (statusWord 5 none 0 0) v r) ∨
     ∃ q, held v.s p (operandSeq b) = some q ∧
      Gives 0 (Then (Sets (fun s => { s with seqs := s.seqs.filter (fun x => x.hid ≠ q.hid) }))
        (Then (HoodReleased p q) (Then (DropsAll p q.seq 0 (entriesOf p q.len))
          (Then (Put (recordAt p q.seq) (le 16 0)) (Put (recordAt p q.seq + 0x50) (noHood.toList.flatMap (fun n => le 4 n.toNat))))))) v r)

/-! Sampling (R326, R327) and acceptance (R329 to R331). -/

def plusInf : Nat := 0x7F80_0000
def power (x : Nat) : Nat := (fpExp2 fp32 0 0 x).1
def sum (xs : List Nat) : Nat := xs.foldl fadd 0
/-- The first e in a list whose running sum passes x. -/
def pick (wt : Nat → Nat) (x : Nat) : Nat → List Nat → Option Nat
  | _, [] => none
  | c, e :: es => if less x (fadd c (wt e)) then some e else pick wt x (fadd c (wt e)) es
/-- The counter of the control stream that issued a request. -/
def Counts (k : SlotId) (n : Nat) : Part := Sets (fun s => modSlot s k (fun x => { x with ctr := x.ctr + .ofNat 64 n }))

def SampleLegal (bs : Bytes) : Prop :=
  let shape := field bs 8 8
  let theta := shape / 2 ^ 32
  let temp := field bs 16 8
  field bs 0 8 < 2 ^ 48 ∧ 4 ∣ field bs 0 8 ∧ 1 ≤ bitsOf shape 0 19 ∧ bitsOf shape 0 19 ≤ 262144 ∧ bitsOf shape 19 5 = 0 ∧
  1 ≤ bitsOf shape 24 7 ∧ bitsOf shape 24 7 ≤ 64 ∧ bitsOf shape 31 1 = 0 ∧ (theta % 2 ^ 31 = 0 ∨ theta ≤ 0x3F80_0000) ∧
  temp < 2 ^ 32 ∧ (temp % 2 ^ 31 = 0 ∨ temp < plusInf) ∧ field bs 24 8 < 2 ^ 33 ∧ 8 ∣ field bs 32 8 ∧ field bs 40 8 < 2
/-- The outcome of R327 on V logits: the token and ST. -/
def SampleIs (n : Nat) (logit : Nat → Nat) (allowed : Nat → Bool) (kk theta temp : Nat) (rnd : BitVec 32) (token st : Nat) : Prop :=
  let cold := temp % 2 ^ 31 = 0
  let z (v : Nat) : Nat := if cold then logit v else fmul (logit v) (fdiv 0x3FB8_AA3B temp)
  let cand := (List.range n).filter (fun v => allowed v && notNaN (z v))
  let before (u v : Nat) : Prop := less (z v) (z u) = true ∨ (less (z u) (z v) = false ∧ u < v)
  if cand = [] then token = none32 ∧ st = 2
  else if ∃ v ∈ cand, z v = plusInf then st = 0 ∧ token ∈ cand ∧ z token = plusInf ∧ ∀ v ∈ cand, z v = plusInf → token ≤ v
  else if cold then st = 0 ∧ token ∈ cand ∧ ∀ v ∈ cand, v ≠ token → before token v
  else
    let pass := cand.foldl (fun (q : Nat × Nat) v =>
      let q' := if less q.1 (z v) then (z v, fmul q.2 (power (fsub q.1 (z v)))) else q
      (q'.1, fadd q'.2 (power (fsub (z v) q'.1)))) (0xFF80_0000, 0)
    let wt (v : Nat) : Nat := power (fsub (z v) pass.1)
    ∃ list, list.length = min kk cand.length ∧ list.Pairwise before ∧ (∀ v ∈ list, v ∈ cand) ∧ (∀ v ∈ cand, v ∉ list → ∀ u ∈ list, before u v) ∧
      let total := sum (list.map wt)
      if less (fdiv total pass.2) theta then token = none32 ∧ st = 1
      else st = 0 ∧ some token = (pick wt (u24Mul rnd total) 0 list).or list.getLast?

/-- SMPSTART (R326, R327). -/
def Samples (op : Instr) (k : SlotId) (a : Word) (w : UnitWork) (r : Outcome) : Prop :=
  ∃ bs v, Took a 64 bs w v ∧
    ((¬ SampleLegal bs ∧ Faults (0x01, wordOf op) v r) ∨
     (SampleLegal bs ∧ ∃ row mask v1 v2 token st,
      let n := bitsOf (field bs 8 8) 0 19
      let theta := field bs 12 4
      let masked := 2 ^ 32 ≤ field bs 24 8
      let res : Word := .ofNat 64 (field bs 32 8)
      let x := getSlot v2.s k
      Took (.ofNat 64 (field bs 0 8)) (4 * n) row v v1 ∧
      (if masked then SpTook (field bs 24 4) ((n + 7) / 8) mask v1 v2 else mask = [] ∧ v2 = v1) ∧
      SampleIs n (fun i => field row (4 * i) 4) (fun i => !decide masked || (mask.getD (i / 8) 0).getLsbD (i % 8)) (bitsOf (field bs 8 8) 24 7)
        (if theta % 2 ^ 31 = 0 then 0 else theta) (field bs 16 4) (rng32 x.key x.ctr) token st ∧
      Gives (.ofNat 64 (token + st * 2 ^ 32)) (Then (Counts k 1) (Then (When (st = 1) (Ored (a + 0x28) (le 8 1)))
        (When (res ≠ 0) (Put res (le 8 (token + st * 2 ^ 32)))))) v2 r))

/-- The descriptor of R329, and its ranges. -/
def AcceptIs (bs : Bytes) (d : Accept) : Prop :=
  let ctl := field bs 40 8
  d.par.toNat = field bs 0 8 ∧ d.tok.toNat = field bs 8 8 ∧ d.prow.toNat = field bs 16 8 ∧ d.qrow.toNat = field bs 24 8 ∧
  d.pitch = field bs 32 4 ∧ d.v = bitsOf (field bs 32 8) 32 19 ∧ d.n = bitsOf ctl 0 6 ∧ d.mode = bitsOf ctl 8 2 ∧ d.lo = bitsOf ctl 16 6 ∧
  d.hi = bitsOf ctl 24 6 ∧ d.unode = bitsOf ctl 32 6 ∧ d.resid = ctl.testBit 40 ∧ d.res.toNat = field bs 48 8
def AcceptLegal (bs : Bytes) (d : Accept) : Prop :=
  field bs 32 8 = d.pitch + d.v * 2 ^ 32 ∧ 1 ≤ d.v ∧ d.v ≤ 262144 ∧ 4 ∣ d.pitch ∧ 4 * d.v ≤ d.pitch ∧
  field bs 40 8 = d.n + d.mode * 2 ^ 8 + d.lo * 2 ^ 16 + d.hi * 2 ^ 24 + d.unode * 2 ^ 32 + d.resid.toNat * 2 ^ 40 ∧ d.mode ≠ 3 ∧
  4 ∣ d.prow.toNat ∧ 4 ∣ d.qrow.toNat ∧ 8 ∣ d.res.toNat ∧
  (if d.mode = 1 then 1 ≤ d.lo ∧ d.lo ≤ d.hi ∧ d.hi ≤ d.n else d.lo = 0 ∧ d.hi = 0) ∧
  (if d.mode = 2 then d.unode ≤ d.n else d.unode = 0 ∧ d.resid = false)
/-- Row u of a family. -/
def Row (base : Word) (d : Accept) (n : Nat) (p : Nat → Nat) : Part := fun w u =>
  ∃ bs, Took (base + .ofNat 64 (n * d.pitch)) (4 * d.v) bs w u ∧ p = fun v => field bs (4 * v) 4
/-- Test, Residual and Sample (R330). -/
def passes (d : Accept) (key ctr : Word) (tok : Nat → Nat) (q p : Nat → Nat) (c : Nat) : Bool :=
  decide (tok c < d.v) && lessEq (u24Mul (rng32 key (ctr + .ofNat 64 c)) (q (tok c))) (p (tok c))
def residualOf (n : Nat) (p q : Nat → Nat) : Nat → Nat :=
  let r (v : Nat) : Nat := if less 0 (fsub (p v) (q v)) then fsub (p v) (q v) else 0
  let total := sum ((List.range n).map r)
  if less 0 total && decide (total ≠ plusInf) then fun v => fdiv (r v) total else p
def bonusOf (n : Nat) (p : Nat → Nat) (rnd : BitVec 32) : Option Nat :=
  let e (v : Nat) : Nat := if less 0 (p v) then p v else 0
  let total := sum ((List.range n).map e)
  let live := (List.range n).filter (fun v => less 0 (e v))
  if less 0 total && decide (total ≠ plusInf) then (pick e (u24Mul rnd total) 0 live).or live.getLast? else none
/-- The children in turn: the one accepted, and P. -/
def tried (n : Nat) (test : (Nat → Nat) → Nat → Bool) (q : Nat → Nat) : List Nat → (Nat → Nat) → Option Nat × (Nat → Nat)
  | [], p => (none, p)
  | c :: cs, p => if test p c then (some c, p) else tried n test q cs (residualOf n p q)
/-- The walk from node u with P: the path below u, and the last P; a path is shorter than 64 nodes. -/
def Walks (d : Accept) (key ctr : Word) (par tok : Nat → Nat) : Nat → Nat → (Nat → Nat) → List Nat → (Nat → Nat) → Part
  | 0, _, p, path, last => fun w u => path = [] ∧ last = p ∧ u = w
  | fuel + 1, node, p, path, last => fun w u =>
    let kids := (between 1 (d.n + 1)).filter (fun c => par c = node)
    if kids = [] then path = [] ∧ last = p ∧ u = w
    else ∃ q v, Row d.qrow d node q w v ∧
      match tried d.v (passes d key ctr tok q) q kids p with
      | (none, p') => path = [] ∧ last = p' ∧ u = v
      | (some c, _) => ∃ p' v' more, Row d.prow d c p' v v' ∧ Walks d key ctr par tok fuel c p' more last v' u ∧ path = c :: more
/-- The independent tests of mode 1: the nodes that pass. -/
def Tests (d : Accept) (key ctr : Word) (par tok : Nat → Nat) : List Nat → List Nat → Part
  | [], out => fun w u => out = [] ∧ u = w
  | c :: cs, out => fun w u => ∃ p q more v v', Row d.prow d (par c) p w v ∧ Row d.qrow d (par c) q v v' ∧
      Tests d key ctr par tok cs more v' u ∧ out = if passes d key ctr tok q p c then c :: more else more
/-- The first word of a result (R331). -/
def firstOf (nacc : Nat) (bonus : Option Nat) : Nat := nacc + (if bonus = none then 2 ^ 8 else 0) + bonus.getD none32 * 2 ^ 32

/-- ACCTEST (R329 to R331). -/
def Accepts (op : Instr) (k : SlotId) (a : Word) (w : UnitWork) (r : Outcome) : Prop :=
  ∃ bs v d, Took a 64 bs w v ∧ AcceptIs bs d ∧
    ((¬ AcceptLegal bs d ∧ Faults (0x01, wordOf op) v r) ∨
     (AcceptLegal bs d ∧
      let gives (x : Slot) (v : UnitWork) (first : Nat) (out : Bytes) : Prop :=
        Gives (.ofNat 64 first) (Then (Put d.res out) (Sets (fun s => modSlot s k (fun y => { y with ctr := x.ctr + .ofNat 64 (d.n + 1) })))) v r
      if d.mode = 2 then
        let x := getSlot v.s k
        ∃ p v1, Row d.prow d d.unode p v v1 ∧ ∃ p' v2,
          (if d.resid then ∃ q, Row d.qrow d d.unode q v1 v2 ∧ p' = residualOf d.v p q else p' = p ∧ v2 = v1) ∧
          let first := firstOf 0 (bonusOf d.v p' (rng32 x.key x.ctr))
          gives x v2 first (le 8 first)
      else ∃ parents v1, Took d.par (d.n + 1) parents v v1 ∧
        let par (c : Nat) : Nat := field parents c 1
        if (between 1 (d.n + 1)).any (fun c => c ≤ par c) then Faults (0x01, wordOf op) v1 r
        else ∃ tokens v2, Took d.tok (4 * (d.n + 1)) tokens v1 v2 ∧
          let tok (c : Nat) : Nat := field tokens (4 * c) 4
          let x := getSlot v2.s k
          if d.mode = 0 then
            ∃ p v3 path last v4, Row d.prow d 0 p v2 v3 ∧ Walks d x.key x.ctr par tok 64 0 p path last v3 v4 ∧
              let first := firstOf path.length (bonusOf d.v last (rng32 x.key x.ctr))
              gives x v4 first (le 8 first ++ (List.range 64).map (fun i => .ofNat 8 ((0 :: path).getD i 0)))
          else ∃ out v3, Tests d x.key x.ctr par tok (between d.lo (d.hi + 1)) out v2 v3 ∧
            gives x v3 ((out.map (2 ^ ·)).sum) (le 8 ((out.map (2 ^ ·)).sum))))

/-! Text (R332 to R346). -/

def textStatus (st : Nat) : Word := .ofNat 64 (st * 2 ^ 56)
def streamNo (d : Die) (a : Word) : Nat := d.val * 64 + a.toNat % 64
def streamAt (s : State) (d : Die) (a : Word) : Option TextStream := tableGet s.texts (streamNo d a)
def Streamed (d : Die) (a : Word) (t : TextStream) : Part := Sets (fun s => { s with texts := tableSet s.texts (streamNo d a) t })
/-- The stream that a request may act on; to any other it answers NOTOWN (R333). -/
def OfOwner (d : Die) (a : Word) (w : UnitWork) (r : Outcome) (work : TextStream → Prop) : Prop :=
  (∃ t, streamAt w.s d a = some t ∧ t.owner = w.ctx ∧ work t) ∨ ((∀ t, streamAt w.s d a = some t → t.owner ≠ w.ctx) ∧ Stops (textStatus 3) w r)

/-- The header's fields and their ranges (R336). -/
def VocabIs (bs : Bytes) (v : Vocab) : Prop :=
  v.ntok = bitsOf (field bs 0 8) 0 19 ∧ v.fb = field bs 8 8 ∧ v.rec'.toNat = field bs 16 8 ∧ v.str.toNat = field bs 24 8 ∧
  v.nodes.toNat = field bs 32 8 ∧ v.edges.toNat = field bs 40 8 ∧ v.nnode = field bs 48 4 ∧ v.nedge = field bs 52 4
def VocabLegal (bs : Bytes) : Prop :=
  1 ≤ field bs 0 8 ∧ field bs 0 8 ≤ 262144 ∧ field bs 8 8 + 256 ≤ field bs 0 8 ∧ 8 ∣ field bs 16 8 ∧ 16 ∣ field bs 32 8 ∧ 8 ∣ field bs 40 8 ∧
  1 ≤ field bs 48 4 ∧ field bs 56 8 = 0
/-- The bound header, and bytes of the bound table: each old or new (R338; notes/assumptions/51). -/
def Header (t : TextStream) (bs : Bytes) (v : Vocab) : Part := fun w u => boundVocab t w = .ok ((bs, v), u) ∧ VocabIs bs v
def TableTook (t : TextStream) (va : Word) (n : Nat) (bs : Bytes) : Part := fun w u => tabRead t.table va n w = .ok (bs, u)
/-- A token's record. -/
def TokenIs (t : TextStream) (v : Vocab) (n off len : Nat) (ctrl : Bool) : Part := fun w u =>
  ∃ bs, TableTook t (v.rec' + .ofNat 64 (8 * n)) 8 bs w u ∧ field bs 0 8 = off + len * 2 ^ 32 + ctrl.toNat * 2 ^ 40 ∧
    off < 2 ^ 32 ∧ 1 ≤ len ∧ len ≤ 64
/-- A node of the trie at a depth: its edges (byte, child) and its token. -/
def NodeIs (t : TextStream) (v : Vocab) (n depth : Nat) (edges : List (Nat × Nat)) (tok : Nat) : Part := fun w u =>
  n < v.nnode ∧ ∃ bs es first v', TableTook t (v.nodes + .ofNat 64 (16 * n)) 16 bs w v' ∧
    let cnt := edges.length
    field bs 0 8 = first + cnt * 2 ^ 32 ∧ first < 2 ^ 32 ∧ field bs 8 8 = tok ∧ tok < 2 ^ 32 ∧ cnt ≤ 256 ∧ (cnt = 0 ∨ first + cnt ≤ v.nedge) ∧
    (n = 0 ∨ tok = none32 ∨ tok < v.ntok) ∧ (depth < 64 ∨ cnt = 0) ∧
    (if cnt = 0 then es = [] ∧ u = v' else TableTook t (v.edges + .ofNat 64 (8 * first)) (8 * cnt) es v' u) ∧
    (∀ i (h : i < cnt), field es (8 * i) 8 = edges[i].1 + edges[i].2 * 2 ^ 32 ∧ edges[i].1 < 2 ^ 8 ∧ edges[i].2 < v.nnode) ∧
    (edges.map Prod.fst).Pairwise (· < ·)

/-- A well-formed sequence of RFC 3629, and the incomplete character (R340). -/
def Utf8 (c : List Nat) : Prop :=
  let tail (b : Nat) : Prop := 0x80 ≤ b ∧ b ≤ 0xBF
  match c with
  | [a] => a < 0x80
  | [a, b] => 0xC2 ≤ a ∧ a ≤ 0xDF ∧ tail b
  | [a, b, c] => ((a = 0xE0 ∧ 0xA0 ≤ b ∧ b ≤ 0xBF) ∨ (a = 0xED ∧ 0x80 ≤ b ∧ b ≤ 0x9F) ∨ (0xE1 ≤ a ∧ a ≤ 0xEF ∧ a ≠ 0xED ∧ tail b)) ∧ tail c
  | [a, b, c, d] => ((a = 0xF0 ∧ 0x90 ≤ b ∧ b ≤ 0xBF) ∨ (a = 0xF4 ∧ 0x80 ≤ b ∧ b ≤ 0x8F) ∨ (0xF1 ≤ a ∧ a ≤ 0xF3 ∧ tail b)) ∧ tail c ∧ tail d
  | _ => False
def Incomplete (xs : List Nat) : Prop := xs ≠ [] ∧ ∃ c, Utf8 c ∧ xs <+: c ∧ xs ≠ c
/-- The division of a run: which bytes belong to a character, and how many last bytes are an incomplete character (R340). -/
inductive Divides : List Nat → List Bool → Nat → Prop where
  | nil : Divides [] [] 0
  | char (c rest : List Nat) (gs : List Bool) (n : Nat) : Utf8 c → Divides rest gs n → Divides (c ++ rest) (List.replicate c.length true ++ gs) n
  | cut (xs : List Nat) : Incomplete xs → Divides xs (xs.map (fun _ => false)) xs.length
  | bad (b : Nat) (rest : List Nat) (gs : List Bool) (n : Nat) : (∀ c, Utf8 c → ¬ c <+: b :: rest) → ¬ Incomplete (b :: rest) →
      Divides rest gs n → Divides (b :: rest) (false :: gs) n

/-- The walk of R341 from a node: the tokens of the nodes passed (token, LEN, CTRL), and whether it stopped at the end of the run on a node
with edges; the root is no node passed, and a trie is at most 64 deep. -/
def TrieWalk (t : TextStream) (v : Vocab) : Nat → List (Nat × Bool) → Nat → Nat → List (Nat × Nat × Bool) → Bool → Part
  | 0, _, _, _, found, stopped => fun w u => found = [] ∧ stopped = false ∧ u = w
  | fuel + 1, rest, node, depth, found, stopped => fun w u =>
    ∃ edges tok v', NodeIs t v node depth edges tok w v' ∧
      match rest with
      | [] => found = [] ∧ stopped = (decide (0 < depth) && decide (edges ≠ [])) ∧ u = v'
      | (b, good) :: more =>
        match (if good then edges.find? (fun e => e.1 = b) else none) with
        | none => found = [] ∧ stopped = false ∧ u = v'
        | some e => ∃ edges' tok' v'', NodeIs t v e.2 (depth + 1) edges' tok' v' v'' ∧
            if tok' = none32 ∨ e.2 = 0 then TrieWalk t v fuel more e.2 (depth + 1) found stopped v'' u
            else ∃ off len ctrl v3 found', TokenIs t v tok' off len ctrl v'' v3 ∧ TrieWalk t v fuel more e.2 (depth + 1) found' stopped v3 u ∧
              found = (tok', len, ctrl) :: found'
/-- The token to emit, and whether the longest match is a control token in a user segment. -/
def emitted (user : Bool) (found : List (Nat × Nat × Bool)) : Option (Nat × Nat × Bool) := (found.filter (fun x => !(user && x.2.2))).getLast?
def escaped (user : Bool) (found : List (Nat × Nat × Bool)) : Nat := if user && found.getLast?.any (fun x => x.2.2) then 1 else 0
/-- Run of R341 on a run of bytes with their division. -/
inductive Runs (t : TextStream) (v : Vocab) (user fin : Bool) : List (Nat × Bool) → Encoder → Encoder → UnitWork → UnitWork → Prop where
  | done (e : Encoder) (w : UnitWork) : Runs t v user fin [] e e w w
  | bad (b : Nat) (rest : List (Nat × Bool)) (e e' : Encoder) (w u : UnitWork) :
      Runs t v user fin rest { e with out := e.out ++ [v.fb + b], inval := true } e' w u → Runs t v user fin ((b, false) :: rest) e e' w u
  | hold (b : Nat) (rest : List (Nat × Bool)) (e : Encoder) (w u : UnitWork) (found : List (Nat × Nat × Bool)) :
      TrieWalk t v 66 ((b, true) :: rest) 0 0 found true w u → fin = false →
      Runs t v user fin ((b, true) :: rest) e { e with hold := b :: rest.map Prod.fst } w u
  | byte (b : Nat) (rest : List (Nat × Bool)) (e e' : Encoder) (w v' u : UnitWork) (found : List (Nat × Nat × Bool)) (stopped : Bool) :
      TrieWalk t v 66 ((b, true) :: rest) 0 0 found stopped w v' → stopped = false ∨ fin = true → emitted user found = none →
      Runs t v user fin rest { e with out := e.out ++ [v.fb + b], esc := e.esc + escaped user found } e' v' u →
      Runs t v user fin ((b, true) :: rest) e e' w u
  | token (b : Nat) (rest : List (Nat × Bool)) (e e' : Encoder) (w v' u : UnitWork) (found : List (Nat × Nat × Bool)) (stopped : Bool)
      (x : Nat × Nat × Bool) :
      TrieWalk t v 66 ((b, true) :: rest) 0 0 found stopped w v' → stopped = false ∨ fin = true → emitted user found = some x →
      Runs t v user fin (((b, true) :: rest).drop x.2.1) { e with out := e.out ++ [x.1], esc := e.esc + escaped user found } e' v' u →
      Runs t v user fin ((b, true) :: rest) e e' w u

/-- TXENC (R339, R341). -/
def Encodes (d : Die) (a b : Word) (w : UnitWork) (r : Outcome) : Prop :=
  OfOwner d a w r fun t => ∃ bs v1, Took b 32 bs w v1 ∧
    let seg := field bs 8 8
    let slen := seg % 2 ^ 24
    let user := seg.testBit 32
    let fin := seg.testBit 33
    if seg ≠ slen + user.toNat * 2 ^ 32 + fin.toNat * 2 ^ 33 ∨ ¬ 4 ∣ field bs 16 8 ∨ 2 ^ 32 ≤ field bs 24 8 ∨ field bs 24 8 < slen + 66
    then Stops (textStatus 6) v1 r
    else ∃ hb v v2, Header t hb v v1 v2 ∧
      ((¬ VocabLegal hb ∧ Stops (textStatus 4) v2 r) ∨
       (VocabLegal hb ∧ ∃ input v3 e1 v4 xs gs carry e2 v5, Took (.ofNat 64 (field bs 0 8)) slen input v2 v3 ∧
        let held := (t.hold ++ t.carry).map BitVec.toNat
        let flush := held ≠ [] ∧ t.kind ≠ user
        (if flush then ∃ gs n, Divides held gs n ∧ Runs t v t.kind true (held.zip gs) ⟨[], false, 0, []⟩ e1 v3 v4 else e1 = ⟨[], false, 0, []⟩ ∧ v4 = v3) ∧
        (∃ gs n, Divides (xs ++ carry) gs n ∧ carry.length = if fin then 0 else n) ∧
        xs ++ carry = (if flush then [] else held) ++ input.map BitVec.toNat ∧ (∃ n, Divides xs gs n) ∧
        Runs t v user fin (xs.zip gs) e1 e2 v4 v5 ∧
        Gives (.ofNat 64 (e2.inval.toNat * 2 ^ 55) ||| .ofNat 64 ((e2.hold.length + carry.length) * 2 ^ 48 + e2.esc % 2 ^ 24 * 2 ^ 24 + e2.out.length % 2 ^ 24))
          (Then (Put (.ofNat 64 (field bs 16 8)) (e2.out.flatMap (le 4)))
            (Streamed d a { t with hold := e2.hold.map (.ofNat 8), carry := carry.map (.ofNat 8), kind := !fin && user })) v5 r))

/-- Record(x) (R345). -/
def recorded (t : TextStream) (x : Nat) : TextStream :=
  let hist := (t.hist ++ [x]).drop ((t.hist ++ [x]).length - 16)
  let cont (f : Nat) : List Nat := match t.cons.forced[f]? with | some e => e.2 | none => []
  let t1 : TextStream := match t.force with
    | none => { t with hist := hist }
    | some (f, j) =>
      if (cont f)[j]? = some x then { t with hist := hist, force := if j + 1 = (cont f).length then none else some (f, j + 1) }
      else { t with hist := hist, force := none, viol := true }
  match t1.force with
  | some _ => t1
  | none => { t1 with force := ((List.range t.cons.forced.length).find? (fun f =>
      match t.cons.forced[f]? with | some e => e.1.isSuffixOf hist | none => false)).map (·, 0) }
/-- Where a stop string ends first in bytes that follow TAIL: the bytes emitted, and its index (R343). -/
def StopsAt (t : TextStream) (b : Bytes) (e : Nat) (s : Option Nat) : Prop :=
  let ends (x : Bytes) (k : Nat) : Prop := x <:+ t.tail ++ b.take (k + 1)
  (s = none ∧ e = b.length ∧ ∀ k < b.length, ∀ x ∈ t.cons.stops, ¬ ends x k) ∨
  ∃ k i x, s = some i ∧ e = k + 1 ∧ k < b.length ∧ t.cons.stops[i]? = some x ∧ ends x k ∧
    (∀ j < i, ∀ y, t.cons.stops[j]? = some y → ¬ ends y k) ∧ ∀ k' < k, ∀ y ∈ t.cons.stops, ¬ ends y k'
/-- The loop of R343: the stream, the bytes written, the tokens consumed, and the stop string. -/
def Decodes (v : Vocab) (skip : Bool) (cap : Nat) : List Nat → Decoder → Decoder → Part
  | [], c, c' => fun w u => c' = c ∧ u = w
  | x :: xs, c, c' => fun w u =>
    ∃ off len ctrl v1 b v2 e s, TokenIs c.t v x off len ctrl w v1 ∧
      (if (skip && ctrl) = true then b = [] ∧ v2 = v1 else TableTook c.t (v.str + .ofNat 64 off) len b v1 v2) ∧ StopsAt c.t b e s ∧
      if cap < c.out.length + e then c' = c ∧ u = v2
      else
        let bytes := b.take e
        let tail := c.t.tail ++ bytes
        let t' := recorded { c.t with tail := tail.drop (tail.length - 31) } x
        match s with
        | some i => c' = ⟨{ t' with ended := true }, c.out ++ bytes, c.tpos + 1, some i⟩ ∧ u = v2
        | none => Decodes v skip cap xs ⟨t', c.out ++ bytes, c.tpos + 1, c.stop⟩ c' v2 u

/-- TXDEC (R342, R343). -/
def DecodesText (d : Die) (a b : Word) (w : UnitWork) (r : Outcome) : Prop :=
  OfOwner d a w r fun t => ∃ bs v1, Took b 32 bs w v1 ∧
    let cnt := field bs 8 8
    let n := cnt % 2 ^ 24
    let skip := cnt.testBit 32
    if cnt ≠ n + skip.toNat * 2 ^ 32 ∨ ¬ 4 ∣ field bs 0 8 ∨ 2 ^ 24 ≤ field bs 24 8 then Stops (textStatus 6) v1 r
    else ∃ hb v v2 src v3, Header t hb v v1 v2 ∧ Took (.ofNat 64 (field bs 0 8)) (4 * n) src v2 v3 ∧
      let toks := fields src 0 n
      if ∃ x ∈ toks, v.ntok ≤ x then Stops (textStatus 6) v3 r
      else if t.ended then Stops (textStatus 2) v3 r
      else (¬ VocabLegal hb ∧ Stops (textStatus 4) v3 r) ∨
        (VocabLegal hb ∧ ∃ c v4, Decodes v skip (field bs 24 8) toks ⟨t, [], 0, none⟩ c v3 v4 ∧
          Gives ((match c.stop with | some i => textStatus 1 ||| .ofNat 64 (i * 2 ^ 48) | none => 0) ||| .ofNat 64 (c.tpos * 2 ^ 24 + c.out.length))
            (Then (Put (.ofNat 64 (field bs 16 8)) c.out) (Streamed d a c.t)) v4 r)

/-- The entries of a constraint record (R344). -/
def TokenList (v : Vocab) (bs : Bytes) (o n : Nat) (l : List Nat) : Prop :=
  1 ≤ n ∧ n ≤ 16 ∧ l = fields bs o n ∧ (∀ x ∈ l, x < v.ntok) ∧ ∀ i, n ≤ i → i < 16 → field bs (o + 4 * i) 4 = 0
def StopEntry (bs : Bytes) (x : Bytes) : Prop :=
  let len := field bs 0 8
  1 ≤ len ∧ len ≤ 32 ∧ x = (bs.drop 8).take len ∧ (∀ i, len ≤ i → i < 32 → bs.getD (8 + i) 0 = 0) ∧
    Divides (x.map BitVec.toNat) (x.map (fun _ => true)) 0
def BanEntry (v : Vocab) (bs : Bytes) (l : List Nat) : Prop := TokenList v bs 8 (field bs 0 8) l
def ForcedEntry (v : Vocab) (bs : Bytes) (f : List Nat × List Nat) : Prop :=
  let h := field bs 0 8
  h = h % 2 ^ 5 + bitsOf h 8 5 * 2 ^ 8 ∧ TokenList v bs 8 (h % 2 ^ 5) f.1 ∧ TokenList v bs 72 (bitsOf h 8 5) f.2
def pieces (bs : Bytes) (n size : Nat) : List Bytes := (List.range n).map (fun i => (bs.drop (i * size)).take size)

/-- TXCONS (R344). -/
def Constrains (d : Die) (a b : Word) (w : UnitWork) (r : Outcome) : Prop :=
  OfOwner d a w r fun t => ∃ hb v v1, Header t hb v w v1 ∧
    ((¬ VocabLegal hb ∧ Stops (textStatus 4) v1 r) ∨
     (VocabLegal hb ∧ ∃ h v2, TookNat b 8 h v1 v2 ∧
      let ns := bitsOf h 0 4
      let nb := bitsOf h 16 9
      let nf := bitsOf h 32 6
      if 8 < ns ∨ 256 < nb ∨ 32 < nf then Stops (textStatus 5) v2 r
      else ∃ x y z v3 v4 v5, Took (b + 8) (ns * 40) x v2 v3 ∧ Took (b + .ofNat 64 (8 + 40 * ns)) (nb * 72) y v3 v4 ∧
        Took (b + .ofNat 64 (8 + 40 * ns + 72 * nb)) (nf * 136) z v4 v5 ∧
        let listed (c : Constraints) : Prop := h = ns + nb * 2 ^ 16 + nf * 2 ^ 32 ∧ List.Forall₂ StopEntry (pieces x ns 40) c.stops ∧
          List.Forall₂ (BanEntry v) (pieces y nb 72) c.bans ∧ List.Forall₂ (ForcedEntry v) (pieces z nf 136) c.forced
        (∃ c, listed c ∧ Gives 0 (Streamed d a { t with cons := c, tail := [], hist := [], force := none, ended := false, viol := false }) v5 r) ∨
        ((∀ c, ¬ listed c) ∧ Stops (textStatus 5) v5 r)))

/-- TXMASK (R346). -/
def Masks (d : Die) (a b : Word) (w : UnitWork) (r : Outcome) : Prop :=
  OfOwner d a w r fun t =>
    if t.ended then Stops (textStatus 2) w r
    else ∃ hb v v1, Header t hb v w v1 ∧
      ((¬ VocabLegal hb ∧ Stops (textStatus 4) v1 r) ∨
       (VocabLegal hb ∧ ∃ allowed : Nat → Bool,
        (∀ x, allowed x = true ↔
          match t.force with
          | some (f, j) => ∃ e, t.cons.forced[f]? = some e ∧ e.2[j]? = some x
          | none => ¬ ∃ l ∈ t.cons.bans, ∃ pre, l = pre ++ [x] ∧ pre <:+ t.hist) ∧
        ∃ bytes : Bytes, bytes.length = (v.ntok + 7) / 8 ∧
          (∀ i j, j < 8 → (bytes.getD i 0).getLsbD j = (decide (8 * i + j < v.ntok) && allowed (8 * i + j))) ∧
          Gives (.ofNat 64 (t.force.isSome.toNat * 2 ^ 55 + t.viol.toNat * 2 ^ 54 + (List.range v.ntok).countP allowed))
            (SpPut b.toNat bytes) v1 r))

/-- TXVOCAB (R337). -/
def Binds (b : Word) (r : Outcome) (bound : Nat → Memory → UnitWork → Prop) (w : UnitWork) : Prop :=
  ∃ bs u, Took b 64 bs w u ∧
    ((¬ VocabLegal bs ∧ Stops (textStatus 4) u r) ∨ (VocabLegal bs ∧ bound ((peek u.s (ctxL1 u.s u.ctx) b .read).getD 0) u.s.mem u))
def OpensText (d : Die) (a b : Word) (w : UnitWork) (r : Outcome) : Prop :=
  match streamAt w.s d a with
  | some t => Stops (textStatus (if t.owner = w.ctx then 7 else 3)) w r
  | none => Binds b r (fun tab mem u =>
      Gives 0 (Streamed d a ⟨w.ctx, tab, [], false, [], [], [], none, false, false, ⟨[], [], []⟩, mem, b⟩) u r) w
def Rebinds (d : Die) (a b : Word) (w : UnitWork) (r : Outcome) : Prop :=
  OfOwner d a w r fun t => Binds b r (fun tab mem u => Gives 0 (Streamed d a { t with tab := tab, table := mem, va := b }) u r) w
def Closes (d : Die) (a : Word) (w : UnitWork) (r : Outcome) : Prop :=
  OfOwner d a w r fun _ => Gives 0 (Sets (fun s => { s with texts := s.texts.filter (fun e => e.1 ≠ streamNo d a) })) w r

/-- The rule of a request's word: how it comes out. -/
def rule (q : UnitRequest) (w : UnitWork) : Option (Outcome → Prop) :=
  match q.op, q.vals with
  | .kvappend .., [a, b, c] => some (Appends q.die a b c w)
  | .kvcommit .., [a, b, c] => some (Commits a b c w)
  | .kvsquash .., [a, b] => some (Squashes a b w)
  | .kvtrunc .., [a, b, c] => some (Truncates a b c w)
  | .kvfork .., [a, b, c] => some (Forks q.die a b c w)
  | .kvfree .., [a, b] => some (Ends a b w)
  | .smpstart .., [a] => some (Samples q.op q.slot a w)
  | .acctest .., [a] => some (Accepts q.op q.slot a w)
  | .txenc .., [a, b] => some (Encodes q.die a b w)
  | .txdec .., [a, b] => some (DecodesText q.die a b w)
  | .txcons .., [a, b] => some (Constrains q.die a b w)
  | .txmask .., [a, b] => some (Masks q.die a b w)
  | .txvocabOpen .., [a, b] => some (OpensText q.die a b w)
  | .txvocabRebind .., [a, b] => some (Rebinds q.die a b w)
  | .txvocabClose .., [a, _] => some (Closes q.die a w)
  | _, _ => none
/-- An outcome that is no fault, and no BADTAB of a text word: those come where a read, a link or a record does not allow what the rule asks. -/
def Ordinary (q : UnitRequest) (r : Outcome) : Prop :=
  ∀ s a, (∀ f, r ≠ .error (.fault s f a)) ∧ ((unitRow q.op).map Prod.fst = some .text → r ≠ .error (.status s (textStatus 4) a))

end Sys2Proof.Claim.Die

/-- The words that a die unit serves (R22, R299, R310, R326, R329, R332): at an idle unit of the issuer's own die the word takes the
unit's reply into sd, in the state that the unit leaves; a fault of the unit is raised at the word, and nothing has changed but accessed
bits; to another die, or behind another request, the request travels, and the word waits (when a unit serves one is log entry 72).
Operands that are not aligned raise 0x05, a pool that does not translate its fault, and a die that takes no part gives status 3.
What each word asks of its unit is stated beside: the pool's free list, counts, block tables, hood and records, the status word and the
order of its checks (R302 to R317), the sampled or accepted tokens (R327, R330), and the tokens, bytes, mask and stream state of the text
words (R336 to R346), as reads and writes in order; a byte read is one that the page tables give, as some write left it that the request does not know to
be overwritten (R115). An outcome that no rule lists is a fault, or BADTAB for a table that breaks R336. A
descriptor that breaks R301 raises 0x16, one that breaks R326 or R329 raises 0x01. U24 enters a product exact (log entry 85), and a table
byte written while bound is old or new (log entry 51). -/
def Obligations.UnitWordsTakeTheirReply : Prop :=
  (∀ (s : State) (i : Instr) (g : Guard) (srcs : List Src) (unit : UnitKind) (sd : Reg) (d : Die), unitRow i = some (unit, sd) →
      operands i = some (g, srcs) → Accepted s i → Runs s g srcs →
      let k := s.cur.slot
      let o := (curSlot s).order[0]
      let q : UnitRequest := ⟨d, unit, k, i, srcs.map (val s), { Order.empty with cur := o.cur }⟩
      let idle := d = dieOf k ∧ ∀ p ∈ s.requests, ¬ (p.die = d ∧ p.unit = unit)
      (∀ v n, (unitAlign s i).find? (fun p => p.1.toNat % p.2 != 0) = some (v, n) → Raises i s 0x05 v) ∧
      ((∀ p ∈ unitAlign s i, p.1.toNat % p.2 = 0) →
        (∀ f, UnitFault s i srcs f → Raises i s f.1 f.2) ∧
        (NoUnit s i → Completes i s ((past s srcs).writeS sd (.ofNat 64 (3 * 2 ^ 56)))) ∧
        (UnitDie s i srcs d →
          (idle → ∀ t v, runUnit (inBody s srcs) k d o (serveRequest q) = .value t v →
            ∃ u, exec i s = .next u ∧ OnlySlot t u k ((getSlot t k).writeS sd v)) ∧
          (idle → ∀ t f, runUnit (inBody s srcs) k d o (serveRequest q) = .fault t f → RaisesAfter i s t f.1 f.2) ∧
          (idle → ∀ t f, runUnit (inBody s srcs) k d o (serveRequest q) = .deferred t f →
            exec i s = .next (takeFault { t with slots := s.slots } k { f with pc := (curSlot s).pc })) ∧
          (¬ idle → ∃ u, exec i s = .next u ∧ u.requests = s.requests ++ [q] ∧ u.mem = s.mem ∧
            SlotIs s u k { curSlot s with await := some (.unit d unit), wait := some i })))) ∧
  (∀ (q : UnitRequest) (w : UnitWork) (R : Claim.Die.Outcome → Prop), Claim.Die.rule q w = some R → (∀ x ∈ w.s.seqs, x.hid < 2 ^ 16) →
    (∀ r, R r → serveRequest q w = r) ∧ (∀ r, serveRequest q w = r → Claim.Die.Ordinary q r → R r)) ∧
  (∀ (q : UnitRequest) (w v : UnitWork) (bs : Bytes) (a : Word) (more : List Word), KvRequest q → q.vals = a :: more →
    Claim.Die.Took a 128 bs w v → ¬ Claim.Die.PoolLegal bs → Claim.Die.Faults (0x16, a) v (serveRequest q w)) ∧
  (∀ (w u : UnitWork) (va : Word) (n : Nat) (bs : Bytes), Claim.Die.Took va n bs w u → bs.length = n ∧
    ∀ j < n, ∃ t pa m, unitTranslate w.s w.ctx (va + .ofNat 64 j) .read = .ok (t, pa) ∧ bs.getD j 0 = Machine.byteAt u.s m pa ∧
      (w.order.cur.view.at pa ≤ w.s.writes → w.order.cur.view.at pa ≤ m)) ∧
  (∀ (x z : Nat) (y : ℚ) (rnd : BitVec 32), x < 2 ^ 32 → (floatFmt false).value x = some y → z = u24Mul rnd x →
    ∃ fl, Rounds (floatFmt false) false 0 ((((2 * (rnd.toNat / 2 ^ 8) + 1 : Nat) : ℚ) / 2 ^ 25 * y : ℚ) : ℝ) (z, fl))

/-- CKSNAP, CKSEL and CKDROP (R318 to R321): a snapshot copies its bytes of scratchpad into the lowest free run and takes the node's
row; a selection copies them back, with their poison, and frees every other row; a drop frees rows. Bad operands, no room, a row that is
not valid and a lost table give the status of the rules; a poisoned byte and a conflict in deterministic mode raise their faults; where the
slot has lost bytes of the snapshot's range, the selection restores none and SPOOB records it (R95; log entry 28). Memory stands, and no
other slot changes. -/
def Obligations.CheckpointWordsFollowTheRules : Prop :=
  ∀ (s : State) (g : Guard) (sd : Reg) (a b : Src), feature s 3 = true → StorageCanonical s →
    let k := s.cur.slot
    let va := (val s a).toNat
    let len := (val s b).toNat / 2 ^ 32
    let off := va % 2 ^ 26
    let node := (val s b).toNat % 64
    let good := (val s b).toNat / 64 % 2 ^ 26 = 0 ∧ len % 256 = 0 ∧ 0 < len ∧ len ≤ 262144 ∧ va < 2 ^ 29 ∧
      (va / 2 ^ 26 = 7 ∨ va / 2 ^ 26 = k.val / 2 % 6) ∧ off + len ≤ (curSlot s).partw.toNat / 2 ^ 24 % 256 * 16384
    let units := (curSlot s).partw.toNat / 2 ^ 16 % 256 * 64
    let free (run : Nat) : Prop := run + len / 256 ≤ units ∧ ∀ r : Fin 64, r.val ≠ node → ((curSlot s).snaps[r]).valid = true →
      run + len / 256 ≤ ((curSlot s).snaps[r]).off ∨ ((curSlot s).snaps[r]).off + ((curSlot s).snaps[r]).len / 256 ≤ run
    (Runs s g [a, b] →
      (¬ good → Completes (.cksnap g sd a b) s ((past s [a, b]).writeS sd 2)) ∧
      (good → (∀ run, ¬ free run) → Completes (.cksnap g sd a b) s ((past s [a, b]).writeS sd 1)) ∧
      ∀ run, good → free run → (∀ q, q < run → ¬ free q) →
        (∀ j, j < len → spBad s k (va + j) = true → (∀ i, i < j → spBad s k (va + i) = false) →
          Raises (.cksnap g sd a b) s 0x13 (.ofNat 64 (va + j))) ∧
        ((∀ j, j < len → spBad s k (va + j) = false) →
          let d := detControl (past s [a, b]) true .read (k.val * 2 ^ 26 + off) len
          (∀ f, d = .error f → Raises (.cksnap g sd a b) s f.1 f.2) ∧
          ∀ x, d = .ok x → ∃ y : Slot, Completes (.cksnap g sd a b) s (y.writeS sd 0) ∧
            SameSlot { y with ckpt := (curSlot s).ckpt, ckPoison := (curSlot s).ckPoison, snaps := (curSlot s).snaps } (past s [a, b]) ∧
            (∀ r : Fin 64, y.snaps[r] = if r.val = node then ⟨true, run, len, .ofNat 32 va⟩ else (curSlot s).snaps[r]) ∧
            (∀ n, n ∈ y.ckPoison ↔ n ∈ (curSlot s).ckPoison ∧ ¬ (run * 256 ≤ n ∧ n < run * 256 + len)) ∧
            ∀ n, cellGet y.ckpt n = if run * 256 ≤ n ∧ n < run * 256 + len then cellGet (curSlot s).scratch (off + (n - run * 256))
              else cellGet (curSlot s).ckpt n)) ∧
    (Runs s g [a] →
      (64 ≤ va → Completes (.cksel g sd a) s ((past s [a]).writeS sd 3)) ∧
      ∀ h : va < 64, let r := (curSlot s).snaps[va]
        let cleared := (curSlot s).snaps.map (fun q => { q with valid := false })
        let chosen : Slot := { past s [a] with snaps := cleared.set va r, lost := false }
        let o := r.src.toNat % 2 ^ 26
        let d := detControl (past s [a]) true .write (k.val * 2 ^ 26 + o) r.len
        (r.valid = false → (curSlot s).lost = false → Completes (.cksel g sd a) s ((past s [a]).writeS sd 1)) ∧
        (r.valid = false → (curSlot s).lost = true →
          Completes (.cksel g sd a) s (({ past s [a] with snaps := cleared, lost := false } : Slot).writeS sd 2)) ∧
        (r.valid = true → ∀ f, d = .error f → Raises (.cksel g sd a) s f.1 f.2) ∧
        (r.valid = true → ∀ x, d = .ok x → (∃ j, j < r.len ∧ spAt s k (r.src.toNat + j) = none) → ∃ y : Slot,
          Completes (.cksel g sd a) s (y.writeS sd 0) ∧ SameSlot y (noted s chosen true (r.src.setWidth 64))) ∧
        (r.valid = true → ∀ x, d = .ok x → (∀ j, j < r.len → spAt s k (r.src.toNat + j) = some (k, o + j)) → ∃ y : Slot,
          Completes (.cksel g sd a) s (y.writeS sd 0) ∧
          SameSlot { y with scratch := (curSlot s).scratch, spPoison := (curSlot s).spPoison, spRels := (curSlot s).spRels } chosen ∧
          (∀ n, n ∈ y.spPoison ↔ if o ≤ n ∧ n < o + r.len then r.off * 256 + (n - o) ∈ (curSlot s).ckPoison else n ∈ (curSlot s).spPoison) ∧
          ∀ n, cellGet y.scratch n = if o ≤ n ∧ n < o + r.len then cellGet (curSlot s).ckpt (r.off * 256 + (n - o))
            else cellGet (curSlot s).scratch n)) ∧
    (Runs s g [a] → Completes (.ckdrop g a) s { past s [a] with snaps := Vector.ofFn (fun r : Fin 64 =>
      let q := (curSlot s).snaps[r]
      if (val s a).getLsbD 6 = true ∨ r.val = va % 64 then { q with valid := false } else q) })

namespace Sys2Proof.Claim

open Sys2Proof.Machine

/-! Engine words (R222 to R232). -/

/-- The word that executes is engine stream p's. -/
def AtEngine (s : State) (p : Fin 4) : Prop := s.cur.eng.val = p.val + 1
/-- A stream of the issuing slot. -/
def streamOf (s : State) (p : Fin 4) : EngStream := (curSlot s).engs[p]
/-- The slot with a stream replaced. -/
def withEng (x : Slot) (p : Fin 4) (y : EngStream) : Slot := { x with engs := x.engs.set p y }
/-- The stream past a word that does not branch, at an address: the end test of R228 applies there, and no wait is left. -/
def onward (y : EngStream) (pc : Word) : EngStream :=
  { y with pc := (loopStep y.loops pc).2, loops := (loopStep y.loops pc).1, wait := none, wpv := false }
/-- The stream at a branch's target: the loops that do not hold it are gone (R228). -/
def branched (y : EngStream) (pc : Word) : EngStream :=
  { y with pc := pc, loops := y.loops.filter (fun l => decide (l.start.toNat ≤ pc.toNat ∧ pc.toNat < l.stop.toNat)), wait := none, wpv := false }
/-- A signed field of words as a distance in bytes. -/
def distance {w : Nat} (n : BitVec w) : Word := .ofInt 64 (2 * n.toInt)

/-- The literal and stack words (R226): the stream with the word's effect, its PC apart; none where too few entries are there. -/
def stackRow (y : EngStream) : Instr → Option (Option EngStream)
  | .lit imm => some (some { y with stack := .ofInt 64 imm.toInt :: y.stack })
  | .litx imm => some (match y.stack with | x :: l => some { y with stack := .ofNat 64 (x.toNat * 2 ^ 12 + imm.toNat) :: l } | _ => none)
  | .dup => some (match y.stack with | x :: l => some { y with stack := x :: x :: l } | _ => none)
  | .drop => some (match y.stack with | _ :: l => some { y with stack := l } | _ => none)
  | .swap => some (match y.stack with | x :: z :: l => some { y with stack := z :: x :: l } | _ => none)
  | .over => some (match y.stack with | x :: z :: l => some { y with stack := z :: x :: z :: l } | _ => none)
  | .rot => some (match y.stack with | x :: z :: v :: l => some { y with stack := v :: x :: z :: l } | _ => none)
  | .addw => some (two fun a b => .ofNat 64 (a.toNat + b.toNat))
  | .subw => some (two fun a b => .ofInt 64 (a.toInt - b.toInt))
  | .mulw => some (two fun a b => .ofNat 64 (a.toNat * b.toNat))
  | .shlw => some (two fun a b => .ofNat 64 (a.toNat * 2 ^ (b.toNat % 64)))
  | .shrw => some (two fun a b => .ofNat 64 (a.toNat / 2 ^ (b.toNat % 64)))
  | .andw => some (two fun a b => a &&& b)
  | .orw => some (two fun a b => a ||| b)
  | .ldk n => some (some { y with stack := y.cells[n.toNat] :: y.stack })
  | .stk n => some (match y.stack with | x :: l => some { y with stack := l, cells := y.cells.set n.toNat x } | _ => none)
  | _ => none
where
  /-- A word of two entries: the entry below the top, then the top. -/
  two (f : Word → Word → Word) : Option EngStream :=
    match y.stack with | x :: z :: l => some { y with stack := f z x :: l } | _ => none

/-- The words that steer a stream (R227, R228, R232) and NOPW: the stream after the word; none where a word faults. -/
def controlRow (y : EngStream) : Instr → Option EngStream
  | .nopw => some (onward y (y.pc + 2))
  | .brw off => some (branched y (y.pc + distance off))
  | .bzw => match y.stack with
    | off :: v :: l => some (if v = 0 then branched { y with stack := l } (y.pc + distance off) else onward { y with stack := l } (y.pc + 2))
    | _ => none
  | .brs => match y.stack with
    | off :: l => some (branched { y with stack := l } (y.pc + distance off))
    | _ => none
  | .loopw len => match y.stack with
    | count :: l =>
      let z : EngStream := { y with stack := l }
      let stop := y.pc + 2 + .ofNat 64 (2 * len.toNat)
      if count = 0 then some (onward z stop)
      else if 2 ≤ y.loops.length ∨ y.loops.any (fun o => decide (o.stop.toNat < stop.toNat)) then none
      else some (onward { z with loops := ⟨y.pc + 2, stop, count⟩ :: y.loops } (y.pc + 2))
    | _ => none
  | .endw => some { y with arrived := true, stack := [], loops := [], pc := y.pc + 2, wait := none, wpv := false }
  | _ => none

/-- An engine word raises a fault: the stream is held at the word, and all else is as the exception leaves it (R148, R348, R351). -/
def StreamRaises (i : Instr) (s : State) (p : Fin 4) (code : BitVec 8) (v : Word) : Prop :=
  exec i s = .next (engineFault s s.cur.slot p (streamOf s p).pc none (code, v))
/-- An engine word waits at its PC (R182, R223): nothing has changed but the stream's record of it. -/
def StreamWaits (i : Instr) (s : State) (p : Fin 4) : Prop :=
  Completes i s (withEng (curSlot s) p { streamOf s p with wait := some i })

/-! Launch words (R149, R224, R234, R242 to R252, R257, R263 to R272, R274). -/

/-- Entries that a launch word pops, the position of its stream, its feature, and whether it may name a remote barrier. -/
structure LaunchRow where
  pops    : Nat
  stream  : Fin 4
  feature : Option Nat
  far     : Bool

def launchRow : Instr → Option LaunchRow
  | .cpy1d _ _ => copy 4 | .cpy2d _ _ => copy 5 | .cpy3d _ _ => copy 8 | .cpyt _ => copy 5 | .cpytb _ _ => copy 5
  | .cpyg _ _ => copy 6 | .cpys _ _ => copy 6 | .cpyfill _ => copy 4
  | .mld => mat 4 | .mst => mat 4 | .accinit => mat 2 | .acczero => mat 2 | .acccvt => mat 3 | .accnorm => mat 2
  | .accsnap => mat 3 | .accload => mat 3 | .permrd => mat 2 | .growrd => mat 2
  | .mma ta tb => mat (2 + (if ta then 0 else 2) + (if tb then 0 else 2))
  | .mmas ta tb => some ⟨3 + (if ta then 0 else 2) + (if tb then 0 else 2), 0, some 2, false⟩
  | .flu _ => mat 3 | .fchol _ => mat 3 | .fqr _ => mat 4 | .ftrsl _ => mat 4 | .ftrsu _ => mat 4 | .fapplyq _ => mat 5
  | .vadd _ => vec 5 | .vsub _ => vec 5 | .vmul _ => vec 5 | .vmax _ => vec 5 | .vmin _ => vec 5 | .vcmp _ => vec 5
  | .vand _ => vec 5 | .vor _ => vec 5 | .vxor _ => vec 5 | .vshl _ => vec 5 | .vshr _ => vec 5 | .vquant _ => vec 5
  | .vdeq _ => vec 5 | .vfma _ => vec 6 | .vsel _ => vec 6 | .vabs _ => vec 4 | .vcvt _ => vec 4 | .vrcp _ => vec 4
  | .vrsq _ => vec 4 | .vexp2 _ => vec 4 | .vlog2 _ => vec 4 | .vred _ => vec 4 | .viota _ => vec 4 | .vmov _ => vec 4
  | .vtopk => vec 4 | .vargmax => vec 4 | .vscan _ => vec 4 | .vrnd => vec 3
  | .vtmask => some ⟨5, 1, some 3, false⟩
  | .vsmax masked _ => vec (if masked then 7 else 6)
  | .xray => trav | .xrad => trav | .xknn => trav | .xbox => trav
  | _ => none
where
  copy (n : Nat) : Option LaunchRow := some ⟨n, 2, none, true⟩
  mat (n : Nat) : Option LaunchRow := some ⟨n, 0, none, false⟩
  vec (n : Nat) : Option LaunchRow := some ⟨n, 1, none, false⟩
  trav : Option LaunchRow := some ⟨6, 3, some 5, false⟩

/-- The checks of a launch's popped values, and what it reads and writes, by its unit. -/
def checkOf (i : Instr) (p : Fin 4) : State → SlotId → EngStream → List Word → Option FCode :=
  if p = 2 then copyCheck i else if p = 1 then vecCheck i else if p = 3 then travCheck i
  else if isFactor i then facCheck i else matCheck i
def reachOf (i : Instr) (p : Fin 4) : State → SlotId → List Word → Reach :=
  if p = 2 then copyReach i else if p = 1 then vecReach i else if p = 3 then travReach i
  else if isFactor i then facReach i else matReach i

/-- A span of a launch: of scratchpad or of memory, read or written, from a place up to another. -/
def Asks (r : Reach) (sp wr : Bool) (lo hi : Nat) : Prop :=
  if sp then (lo, hi) ∈ (if wr then r.spWrites else r.spReads) else ∃ n, hi = lo + n ∧ (lo, n) ∈ (if wr then r.writes else r.reads)
/-- A byte of memory that a launch reads or writes without the entry that R130 wants, with the code and the value of its fault. -/
def Breaks (x : Slot) (r : Reach) (code : BitVec 8) (v : Word) : Prop :=
  ∃ wr lo hi a, Asks r false wr lo hi ∧ lo ≤ a ∧ a < hi ∧ v = .ofNat 64 a ∧
    byteRule (footOf x) (if wr then .write else .read) a = some code
/-- A byte at which a launch meets an access of another agent, one of them a write, that is not known to happen before it (R133); the
value of the fault is its address, or its offset in its scratchpad. -/
def Meets (x : Slot) (agent : Nat) (before : List Nat) (r : Reach) (v : Word) : Prop :=
  ∃ sp wr lo hi, Asks r sp wr lo hi ∧ ∃ a ∈ x.det.accs, a.agent ≠ agent ∧ a.sp = sp ∧ (a.write = true ∨ wr = true) ∧ a.id ∉ before ∧
    Max.max a.lo lo < Min.min a.hi hi ∧ v = .ofNat 64 (if sp then Max.max a.lo lo % 2 ^ 26 else Max.max a.lo lo)

/-- The rounding mode that a launch fixes when it issues: a field of its control entry, 6 standing for FRM (R67, R71, R266). -/
def launchMode (s : State) (i : Instr) (vals : List Word) : BitVec 3 :=
  let of (lo : Nat) : BitVec 3 := let m := (vals.getD 1 0).extractLsb' lo 3; if m = 6 then (curSlot s).frm else m
  match i with
  | .acccvt => of 10
  | .vrnd | .vtmask | .vsmax _ _ | .vtopk | .vargmax => 0
  | _ => if (launchRow i).any (fun r => decide (r.stream = 1)) then of 24 else 0
/-- The random words that it takes from its stream: N for VRND and in stochastic mode, 1,024 for ACCCVT in that mode (R71, R247). -/
def launchDraws (s : State) (i : Instr) (vals : List Word) : Nat :=
  match i with
  | .vrnd => (vals.getD 1 0).toNat % 2 ^ 24
  | .acccvt => if launchMode s i vals = 5 then 1024 else 0
  | _ => if launchMode s i vals = 5 then (vals.getD 1 0).toNat % 2 ^ 24 else 0

/-- A completion word that R149 admits. -/
def CompletionOk (s : State) (far : Bool) (w : Word) : Prop :=
  let idx := w.toNat % 2 ^ 10
  let core := w.toNat / 2 ^ 16 % 2 ^ 7
  w.toNat / 2 ^ 24 = 0 ∧ w.toNat / 2 ^ 10 % 2 ^ 4 = 0 ∧
  if w.getLsbD 14 = true then w = 0x4000
  else if w.getLsbD 15 = false then idx ≤ 63 ∧ w.getLsbD 23 = false ∧ core = 0
  else idx ≤ 511 ∧ if w.getLsbD 23 = true then far = true ∧ core ≤ 95 ∧ dieLive s (core / 24) = true else core = 0

end Sys2Proof.Claim

/-- R226: each literal and stack word pops its entries and pushes the table's, arithmetic being modulo 2^64, and moves on by 2 with the
loop test of R228; one that finds too few entries, or would leave more than eight, raises 0x0E with the depth and changes none (R148). -/
def Obligations.StackWordsFollowTheTable : Prop :=
  ∀ (s : State) (p : Fin 4) (i : Instr) (r : Option EngStream), AtEngine s p → stackRow (streamOf s p) i = some r →
    (∀ y, r = some y → y.stack.length ≤ 8 → Completes i s (withEng (curSlot s) p (onward y ((streamOf s p).pc + 2)))) ∧
    ((∀ y, r = some y → 8 < y.stack.length) → StreamRaises i s p 0x0E (.ofNat 64 (streamOf s p).stack.length))

/-- R227 to R232: branches go to PC + 2 × the offset, LOOPW sets its loop up or skips its body, ENDW is the arrival; TAGWW and BARWW wait
for their tag or phase, and acquire what set or ended it; TAGSW sets a tag, a release; BARAW arrives, a release at the barrier's scope, and
keeps the phase; FENCEW is the acquire-release fence; WAITQ waits for an empty queue, and learns what its launches have done; HALTW halts
the context. A barrier that is not the slot's raises 0x07, and a word that finds too few entries 0x0E with the depth. (What a stream knows
of other accesses is log entry 6's representation.) -/
def Obligations.StreamControlWordsFollowTheRules : Prop :=
  ∀ (s : State) (p : Fin 4), AtEngine s p → (streamOf s p).stack.length ≤ 8 →
    let k := s.cur.slot
    let y := streamOf s p
    let go : Slot := withEng (curSlot s) p (onward y (y.pc + 2))
    let e := engCode p
    let me := issuerOf s k e
    (∀ ls pc, loopStep ls pc = match ls with
      | [] => ([], pc)
      | l :: rest => if pc ≠ l.stop then (l :: rest, pc) else if 1 < l.count.toNat then ({ l with count := l.count - 1 } :: rest, l.start)
          else loopStep rest pc) ∧
    (∀ i z, controlRow y i = some z → Completes i s (withEng (curSlot s) p z)) ∧
    (y.stack.length < 2 → StreamRaises .bzw s p 0x0E (.ofNat 64 y.stack.length)) ∧
    (y.stack = [] → StreamRaises .brs s p 0x0E 0 ∧ (∀ len, StreamRaises (.loopw len) s p 0x0E 0) ∧ StreamRaises .baraw s p 0x0E 0 ∧
      StreamRaises .barww s p 0x0E 0) ∧
    (∀ len count l, y.stack = count :: l → count ≠ 0 →
      (2 ≤ y.loops.length → StreamRaises (.loopw len) s p 0x0E (.ofNat 64 y.stack.length)) ∧
      (y.loops.length < 2 → controlRow y (.loopw len) = none → StreamRaises (.loopw len) s p 0x0D (.ofNat 64 (0x30C0 + len.toNat)))) ∧
    (∀ t : BitVec 6,
      ((curSlot s).tags.getLsbD t.toNat = true → ∃ x, Completes (.tagww t) s x ∧ SameSlot x go ∧
        ∀ l, (t.toNat, l) ∈ (curSlot s).tagKnown → Sees l.view (known x e)) ∧
      ((curSlot s).tags.getLsbD t.toNat = false → StreamWaits (.tagww t) s p) ∧
      ∃ x, Completes (.tagsw t) s x ∧ SameSlot { x with tagKnown := (curSlot s).tagKnown } { go with tags := (curSlot s).tags ||| 1 <<< t.toNat } ∧
        (∀ n l, n ≠ t.toNat → ((n, l) ∈ x.tagKnown ↔ (n, l) ∈ (curSlot s).tagKnown)) ∧
        ∃ l, (t.toNat, l) ∈ x.tagKnown ∧ Sees (known (curSlot s) e) l.view) ∧
    (∀ i l, y.stack = i :: l →
      let b := barrierOf s i
      let past' : EngStream := onward { y with stack := l } (y.pc + 2)
      (¬ Owned s i → StreamRaises .baraw s p 0x07 i ∧ StreamRaises .barww s p 0x07 i) ∧
      (Owned s i → ∃ u, exec .baraw s = .next u ∧ SameMemory s u ∧
        SlotIs s u k (withEng (curSlot s) p (if b.arr.toNat < b.exp.toNat then { past' with arrv := true, arrIdx := i.setWidth 9, arrPh := b.phase }
          else { past' with arrv := false })) ∧
        BarrierIs s u i (if b.arr.toNat < b.exp.toNat then { b with arr := b.arr + 1 } else { b with surp := true }) ∧
        (b.arr.toNat < b.exp.toNat → ∃ r ∈ (getBarrier u (coreOf k) i.toNat).rels, r.by_ = me ∧ r.scope = b.scope.toNat ∧
          Sees (known (curSlot s) e) r.known.view)) ∧
      (Owned s i →
        let mine := y.arrv = true ∧ y.arrIdx.toNat = i.toNat
        let against := if mine then y.arrPh else if y.wpv then y.wph else b.phase
        (b.phase ≠ against → ∃ x, Completes .barww s x ∧ SameSlot x (withEng (curSlot s) p past') ∧
          Acquires s me b.scope.toNat b.last x e) ∧
        (b.phase = against → Completes .barww s (withEng (curSlot s) p
          { y with wait := some .barww, wpv := if mine then y.wpv else true, wph := if mine ∨ y.wpv = true then y.wph else b.phase })))) ∧
    (∀ scope : BitVec 4,
      (10 ≤ scope.toNat → ctxPriv s (curSlot s).ctx = false → StreamRaises (.fencew scope) s p 0x02 (.ofNat 64 (0x3240 + scope.toNat))) ∧
      ((10 ≤ scope.toNat → ctxPriv s (curSlot s).ctx = true) → ∃ x, Completes (.fencew scope) s x ∧ SameSlot x go ∧
        Acquires s me scope.toNat ((curSlot s).order[e]).read x e ∧
        (∃ r ∈ (x.order[e]).fences, r.by_ = me ∧ r.scope = scope.toNat ∧ Sees (known x e) r.known.view) ∧
        ∀ r ∈ ((curSlot s).order[e]).fences, r.scope ≠ scope.toNat → r ∈ (x.order[e]).fences)) ∧
    (y.launches = [] → ∃ x, Completes .waitq s x ∧ SameSlot x go ∧ Sees ((curSlot s).fin[e]).view (known x e)) ∧
    (y.launches ≠ [] → StreamWaits .waitq s p) ∧
    ∃ u, exec .haltw s = .next u ∧ u.mem = s.mem ∧
      u.contexts = s.contexts.map (fun c => if c.id = (curSlot s).ctx then { c with halted := true } else c) ∧
      ∀ m, let x := if m = k then go else getSlot s m
        getSlot u m = if (getSlot s m).stop = none ∧ ∃ j, x.job = some j ∧ j.ctx = (curSlot s).ctx ∧ j.started = true
          then { x with stop := some ⟨.halt, none, false, false, none, false⟩ } else x

/-- R148, R149, R224: a launch word, in its stream and with its feature accepted, waits while eight launches are queued (or, MMA, while an
MMAS before it has not its format word: R269); else it pops its operands, checks its completion word and the rest, and joins the queue and
the range checker, with the mode and the random words fixed that its effect will use; MMA takes the head of the format queue. In
deterministic mode it raises 0x08 or 0x09 first, where the job's entries do not permit a byte (R130), or 0x09 where another agent's access
meets it unordered (R133), and else its accesses are remembered. Nothing else changes. In another stream, or without its feature, it raises 0x0D with the word; with too few entries 0x0E with the depth. -/
def Obligations.LaunchWordsJoinTheirQueue : Prop :=
  ∀ (s : State) (i : Instr) (r : LaunchRow) (p : Fin 4) (w : Word), launchRow i = some r → AtEngine s p → encode i = some w →
    let k := s.cur.slot
    let x := curSlot s
    let y := streamOf s p
    let legal := p = r.stream ∧ ∀ n, r.feature = some n → feature s n = true
    let vals := y.stack.take r.pops
    let held := (∃ ta tb, i = .mma ta tb) ∧ ∃ l ∈ y.launches, isMmas l.op = true ∧ l.fmtw = none
    let popped := setSlot s k (withEng x p { y with stack := y.stack.drop r.pops })
    (¬ legal → StreamRaises i s p 0x0D w) ∧
    (legal → y.stack.length < r.pops → StreamRaises i s p 0x0E (.ofNat 64 y.stack.length)) ∧
    (legal → r.pops ≤ y.stack.length → y.stack.length ≤ 8 →
      (8 ≤ y.launches.length ∨ held → StreamWaits i s p) ∧
      (y.launches.length < 8 → ¬ held →
        (¬ CompletionOk s r.far (vals.headD 0) → StreamRaises i s p 0x0D w) ∧
        (CompletionOk s r.far (vals.headD 0) →
          (∀ f, checkOf i p popped k y vals = some f → StreamRaises i s p f.1 f.2) ∧
          (checkOf i p popped k y vals = none →
            let reach := reachOf i p popped k vals
            let agent := if p = 2 then 5 + x.checker else p.val + 1
            let breaks := x.detctl = true ∧ ∃ c v, Breaks x reach c v
            let meets := x.detctl = true ∧ ∃ v, Meets x agent (x.order[engCode p]).cur.accs reach v
            (breaks → ∃ c v, Breaks x reach c v ∧ StreamRaises i s p c v) ∧
            (¬ breaks → meets → ∃ v, Meets x agent (x.order[engCode p]).cur.accs reach v ∧ StreamRaises i s p 0x09 v) ∧
            (¬ breaks → ¬ meets → ∃ (d : DetRecord) (l : Launch),
              (x.detctl = false → d = x.det) ∧
              (x.detctl = true → (∀ a ∈ x.det.accs, a ∈ d.accs) ∧ ∀ sp wr lo hi, Asks reach sp wr lo hi → ∃ a ∈ d.accs,
                a.agent = agent ∧ a.sp = sp ∧ a.write = wr ∧ a.lo = lo ∧ (lo ≤ hi → a.hi = hi) ∧ a.id ∈ l.order.cur.accs) ∧
              l.op = i ∧ l.pc = y.pc ∧ l.vals = vals ∧ l.started = false ∧ l.prog = 0 ∧ l.seq = x.checker ∧ l.key = y.key ∧ l.ctr = y.ctr ∧
              l.rm = launchMode s i vals ∧ l.fmtw = (if ∃ ta tb, i = .mma ta tb then x.fmtq.head? else none) ∧ l.idx = none ∧
              l.ended = false ∧ l.saved = [] ∧ l.buffer = none ∧ l.parked = false ∧ Sees (known x (engCode p)) l.order.cur.view ∧
              Completes i s (withEng
                { x with det := d, checker := x.checker + 1, fmtq := if ∃ ta tb, i = .mma ta tb then x.fmtq.tail else x.fmtq } p
                { onward { y with stack := y.stack.drop r.pops } (y.pc + 2) with
                  launches := y.launches ++ [l], ctr := y.ctr + .ofNat 64 (launchDraws s i vals) }))))))

namespace Sys2Proof.Claim

open Sys2Proof.Machine

/-! Launches at work (R196, R224, R225, R233, R236 to R245, R265, R272) and copy chains (R204 to R207). -/

/-- n bytes from an address are the slot's own scratchpad, from an offset on. -/
def Own (s : State) (k : SlotId) (a n o : Nat) : Prop := ∀ j, j < n → spAt s k (a + j) = some (k, o + j)
/-- The element of w bits at an offset of a slot's scratchpad. -/
def element (x : Slot) (w o : Nat) : BitVec w := .ofNat w (littleEndian (w / 8) (fun j => cellGet x.scratch (o + j)))
/-- The keys of a sparse array rise. -/
def Rising {w : Nat} (m : Cells w) : Prop := (m.map Prod.fst).Pairwise (· < ·)

/-- The elementwise integer words of R243 and R245: the element format, and the result on two elements of w bits. -/
def elementwise : Instr → Option (BitVec 4 × ((w : Nat) → BitVec w → BitVec w → BitVec w))
  | .vadd f => some (f, fun _ a b => a + b)
  | .vsub f => some (f, fun _ a b => a - b)
  | .vmul f => some (f, fun _ a b => a * b)
  | .vmax f => some (f, fun _ a b => if a.slt b then b else a)
  | .vmin f => some (f, fun _ a b => if a.slt b then a else b)
  | .vand f => some (f, fun _ a b => a &&& b)
  | .vor f => some (f, fun _ a b => a ||| b)
  | .vxor f => some (f, fun _ a b => a ^^^ b)
  | .vshl f => some (f, fun w a b => a <<< (b.toNat % w))
  | .vshr f => some (f, fun w a b => a >>> (b.toNat % w))
  | _ => none

/-- A launch in its queue that may end: it has started, it has met no fault, and its job's record is not written. -/
def MayEnd (s : State) (k : SlotId) (p : Fin 4) (n : Nat) (l : Launch) : Prop :=
  (getEng s k p).launches[n]? = some l ∧ l.started = true ∧ l.parked = false ∧ (getEng s k p).faulted ≠ some l.seq ∧
  ∀ st, (getSlot s k).stop = some st → st.written = false
/-- A launch of a job that is not stopping, and that has met no fault. -/
def MayRun (s : State) (k : SlotId) (p : Fin 4) (n : Nat) (l : Launch) : Prop :=
  (getEng s k p).launches[n]? = some l ∧ (getSlot s k).stop = none ∧ l.parked = false ∧ (getEng s k p).faulted ≠ some l.seq
/-- The slot with a launch of a stream replaced, or gone. -/
def withLaunches (x : Slot) (p : Fin 4) (f : List Launch → List Launch) : Slot := withEng x p { x.engs[p] with launches := f (x.engs[p]).launches }
/-- What a completion word does to the issuing slot: it sets a tag, when it names one (R149, R196). -/
def tagged (x : Slot) (w : Word) : Slot :=
  if w.getLsbD 14 = false ∧ w.getLsbD 15 = false then { x with tags := x.tags ||| 1 <<< (w.toNat % 2 ^ 10) } else x
/-- Slots that differ at most in what their streams, tags and completed launches know of other accesses (log entry 6). -/
def SameWork (x y : Slot) : Prop := SameSlot { x with tagKnown := y.tagKnown, fin := y.fin } y
/-- What a launch knew has been released with its completion: to the streams that wait for its queue, and with its tag (R121, R231). -/
def Told (x : Slot) (e : EngId) (w : Word) (o : Order) : Prop :=
  Sees o.cur.view (x.fin[e]).view ∧
  (w.getLsbD 14 = false → w.getLsbD 15 = false → ∃ l, (w.toNat % 2 ^ 10, l) ∈ x.tagKnown ∧ Sees o.cur.view l.view)
/-- A fault of a launch, where its stream may be held for another: that one stays pending, and this launch waits at its own (R225, R351). -/
def launchRaises (s : State) (k : SlotId) (p : Fin 4) (n : Nat) (l : Launch) (f : FCode) : State :=
  if (getEng s k p).held then setSlot s k (withLaunches (getSlot s k) p (fun q => q.set n { l with parked := true }))
  else engineFault s k p l.pc (some l.seq) f
/-- A channel may act: it is bound, runs and is not halted, and its job does not stop. -/
def ChannelRuns (s : State) (k : SlotId) (c : Channel) : Prop :=
  c.bound = true ∧ c.stop = false ∧ c.idle = false ∧ c.halt = none ∧ (getSlot s k).stop = none

end Sys2Proof.Claim

namespace Sys2Proof.Claim

open Sys2Proof.Machine

/-! The vector words (R242 to R252). Words read and write scratchpad; the numbers come through the operations of the control words
(R177 to R180), which other statements pin down. -/

/-- Rows of bytes: the address and the length of each. -/
abbrev ByteRows := List (Nat × Nat)
/-- Rows of an operand at a pitch. -/
def pitched (a : Word) (count pitch len : Nat) : ByteRows := (List.range count).map (fun r => (a.toNat + r * pitch, len))
/-- What a word writes to an operand: how many values, their bytes and their addresses; and what value j is, with its flags. -/
structure Output where
  rows  : ByteRows
  count : Nat
  size  : Nat
  place : Nat → Nat
  is    : Nat → Nat × BitVec 6 → Prop
/-- A vector word: whether its operand is legal when it runs, what it reads, and what it writes. -/
structure VectorRow where
  legal  : Prop
  reads  : ByteRows
  writes : List Output

/-- An integer result of w bits: wrapped, or clamped to the range (R243). -/
def integer (w : Nat) (clamp : Bool) (v : Int) : Nat := ((if clamp then max (-2 ^ (w - 1)) (min v (2 ^ (w - 1) - 1)) else v) % 2 ^ w).toNat
/-- The arithmetic format of a code. -/
def arithmeticFmt (f : BitVec 4) : FpFmt := if f = 4 then bf16 else fp32
def quietNaN (f : Nat) : Nat := if f = 4 then 0x7FC0 else 0x7FC0_0000
/-- A value with the flags gathered so far, or nothing yet. -/
abbrev Partial := Option Nat × BitVec 6
/-- Op of R246, with Op(x, empty) = x. -/
def combine (op : Nat → Nat → Nat × BitVec 6) (p q : Partial) : Partial :=
  match p.1, q.1 with
  | some x, some y => (some (op x y).1, p.2 ||| q.2 ||| (op x y).2)
  | some x, none => (some x, p.2 ||| q.2)
  | none, y => (y, p.2 ||| q.2)
/-- The tree of R246: 128 lanes, each over the elements at its place, halved level by level. -/
def reduction (op : Nat → Nat → Nat × BitVec 6) (n : Nat) (x : Nat → Nat) : Nat → Nat → Partial
  | 0, lane => ((List.range n).filter (fun i => i % 128 = lane)).foldl (fun p i => combine op p (some (x i), 0)) (none, 0)
  | h + 1, lane => combine op (reduction op n x h (2 * lane)) (reduction op n x h (2 * lane + 1))
/-- Running results: each the operation on the one before and the next element. -/
def running (op : Nat → Nat → Nat → Nat × BitVec 6) (first : Nat × BitVec 6) (x : Nat → Nat) : Nat → Nat × BitVec 6
  | 0 => first
  | j + 1 => op (j + 1) (running op first x j).1 (x (j + 1))
/-- Node i is node j or one of its ancestors (R248). -/
def Ancestor (parent : Nat → Nat) (j i : Nat) : Prop := ∃ m, (fun x => if x = 0 then 0 else parent x)^[m] j = i
/-- One of n elements (index, value) goes at place e of a descending order: NaNs are no candidates, −0 equals +0, a tie the lower index
(R250). -/
def TopEntry (n : Nat) (x : Nat → Nat) (e : Nat) (w : Nat × BitVec 6) : Prop :=
  let candidate (i : Nat) : Prop := i < n ∧ ¬ IsNaN false (x i)
  let before (i j : Nat) : Prop := number false (x j) < number false (x i) ∨ (number false (x i) = number false (x j) ∧ i < j)
  w.2 = 0 ∧ ((∃ i, candidate i ∧ Set.ncard {j | candidate j ∧ before j i} = e ∧ w.1 = x i + 2 ^ 32 * i) ∨
    (Set.ncard {j | candidate j} ≤ e ∧ w.1 = 0x7FC0_0000 + 2 ^ 32 * 0xFFFF_FFFF))

/-- Value j of a row of the base-2 softmax (R249) in format f: x the scaled elements, u the mask. -/
def SoftmaxEntry (f : Nat) (c : Nat) (x : Nat → Nat × BitVec 6) (u : Nat → Prop) (j : Nat) (w : Nat × BitVec 6) : Prop :=
  let plus := 0x7F80_0000
  let live (i : Nat) : Prop := u i ∧ (x i).1 ≠ 0x8000_0000 + plus
  let bad := ∃ i < c, u i ∧ (IsNaN false (x i).1 ∨ (x i).1 = plus)
  (bad → w = (quietNaN f, (x j).2 ||| 0x10)) ∧ (¬ bad → (∀ i < c, ¬ live i) → w = (0, (x j).2)) ∧
  (¬ bad → (∃ i < c, live i) → ∃ (top : Nat) (e : Nat → Nat × BitVec 6) (sum : Nat → Nat × BitVec 6) (g : BitVec 6),
    (∃ i < c, live i ∧ (x i).1 = top) ∧ (∀ i < c, live i → number false (x i).1 ≤ number false top) ∧
    (∀ i < c, (¬ live i → e i = (0, 0)) ∧
      (live i → let d := fpSub fp32 0 0 (x i).1 top
        e i = ((fpExp2 fp32 0 0 d.1).1, d.2 ||| (fpExp2 fp32 0 0 d.1).2))) ∧
    sum 0 = (0, 0) ∧ (∀ i < c, sum (i + 1) = fpAdd fp32 0 0 (sum i).1 (e i).1) ∧ w.2 = (x j).2 ||| (e j).2 ||| (sum (j + 1)).2 ||| g ∧
    ∀ F p q, codeFmt f = some F → (floatFmt false).value (e j).1 = some p → (floatFmt false).value (sum c).1 = some q →
      (p = 0 → w.1 = 0 ∧ g = 0) ∧ Rounds F false 0 (p / q : ℚ) (w.1, g))

/-- The value of a BS24 scale (R64). -/
def scaleValue (v : Nat) : Option ℚ :=
  let e : Nat := v / 2 ^ 16 % 2 ^ 8
  if e = 255 then none else if e = 0 then some 0 else some ((1 + ((v % 2 ^ 16 : Nat) : ℚ) / 2 ^ 16) * 2 ^ ((e : Int) - 127))
/-- The scale of a block of VQUANT (R252): the least that is not below the block's greatest magnitude over the target's. -/
def ScaleOf (target : BitVec 4) (most v : ℚ) : Prop :=
  let z : ℚ := most / (if target = 0 then 448 else if target = 1 then 57344 else if target = 2 then 127 else 2)
  z ≤ v ∧ 0 < v ∧ (∃ b, scaleValue b = some v) ∧ ∀ b u, scaleValue b = some u → z ≤ u → v ≤ u

/-- What a launch of a vector word does, through a reader of scratchpad bytes (R242 to R252). None for any other launch, and where a format
or the like is none that the word takes. -/
def vectorRow (rd : Nat → Byte) (l : Launch) : Option VectorRow :=
  let c := l.vals.getD 1 0
  let n := c.toNat % 2 ^ 24
  let sat := c.getLsbD 27
  let bs := c.getLsbD 28
  let dest := c.toNat / 2 ^ 32 % 16
  let sel := c.extractLsb' 36 4
  let word (j : Nat) : BitVec 32 := rng32 l.key (l.ctr + .ofNat 64 j)
  let value (a z : Nat) : Nat := littleEndian z (fun i => rd (a + i))
  let size (f : BitVec 4) : Nat := codeSize f.toNat
  let el (f : BitVec 4) (a : Word) (j : Nat) : Nat := value (a.toNat + j * size f) (size f)
  let other (f : BitVec 4) (b : Word) (j : Nat) : Nat := if bs then b.toNat % 2 ^ (8 * size f) else el f b j
  let one (f : BitVec 4) (a : Word) : ByteRows := [(a.toNat, n * size f)]
  let two (f : BitVec 4) (a b : Word) : ByteRows := if bs then one f a else one f a ++ one f b
  let signed (f : BitVec 4) (v : Nat) : Int := (BitVec.ofNat (8 * size f) v).toInt
  let bit (m : Word) (i : Nat) : Bool := (rd (m.toNat + i / 8)).getLsbD (i % 8)
  let out (f : Nat) (d : Word) (reads : ByteRows) (is : Nat → Nat × BitVec 6 → Prop) : Option VectorRow :=
    some ⟨True, reads, [⟨[(d.toNat, n * codeSize f)], n, codeSize f, fun j => d.toNat + j * codeSize f, is⟩]⟩
  let map (ok : Bool) (f : BitVec 4) (d : Word) (reads : ByteRows) (v : Nat → Nat × BitVec 6) : Option VectorRow :=
    if ok then out f.toNat d reads (fun j w => w = v j) else none
  let isFloat (f : BitVec 4) : Bool := f = 4 ∨ f = 5
  let isInt (f : BitVec 4) : Bool := f = 2 ∨ f = 6
  let known (f : BitVec 4) : Bool := f.toNat ≤ 6
  let number' (f : BitVec 4) (d a b : Word) (fp : FpFmt → Nat → Nat → Nat → Nat × BitVec 6) (int : Int → Int → Int) (clamps : Bool) : Option VectorRow :=
    map (isFloat f || isInt f) f d (two f a b) (fun j =>
      if isFloat f then fp (arithmeticFmt f) j (el f a j) (other f b j)
      else (integer (8 * size f) (sat && clamps) (int (signed f (el f a j)) (signed f (other f b j))), 0))
  let bits (ok : Bool) (f : BitVec 4) (d a b : Word) (op : Nat → Nat → Nat) : Option VectorRow :=
    map ok f d (two f a b) (fun j => (op (el f a j) (other f b j), 0))
  let func (f : BitVec 4) (d a : Word) (op : FpFmt → BitVec 3 → BitVec 32 → Nat → Nat × BitVec 6) : Option VectorRow :=
    map (isFloat f) f d (one f a) (fun j => op (arithmeticFmt f) l.rm (word j) (el f a j))
  let softmax (f : BitVec 4) (d a shape p sc : Word) (masks : Nat → ByteRows) (u : Nat → Nat → Bool) : Option VectorRow :=
    let cols := shape.toNat % 2 ^ 32
    let rows := shape.toNat / 2 ^ 32 % 2 ^ 16
    let pitch := p.toNat % 2 ^ 32
    if isFloat f then some ⟨True, pitched a rows pitch (4 * cols) ++ masks rows, [⟨pitched d rows pitch (size f * cols), rows * cols, size f, fun i => d.toNat + i / cols * pitch + i % cols * size f,
        fun i => SoftmaxEntry f.toNat cols
          (fun j => fpMul fp32 0 0 (sc.toNat % 2 ^ 32) (value (a.toNat + i / cols * pitch + 4 * j) 4)) (fun j => u (i / cols) j = true) (i % cols)⟩]⟩
    else none
  let top (d a : Word) (m count : Nat) : Option VectorRow :=
    some ⟨True, [(a.toNat, 4 * m)], [⟨[(d.toNat, 8 * count)], count, 8, fun j => d.toNat + 8 * j, TopEntry m (fun i => value (a.toNat + 4 * i) 4)⟩]⟩
  match l.op, l.vals with
  | .vadd f, [_, _, d, a, b] => number' f d a b (fun t j => fpAdd t l.rm (word j)) (· + ·) true
  | .vsub f, [_, _, d, a, b] => number' f d a b (fun t j => fpSub t l.rm (word j)) (· - ·) true
  | .vmul f, [_, _, d, a, b] => number' f d a b (fun t j => fpMul t l.rm (word j)) (· * ·) true
  | .vmax f, [_, _, d, a, b] => number' f d a b (fun t _ => fpMinMax t true) max false
  | .vmin f, [_, _, d, a, b] => number' f d a b (fun t _ => fpMinMax t false) min false
  | .vfma f, [_, _, d, a, b, e] => map (isFloat f) f d (two f a b ++ one f e) (fun j =>
      fpFma (arithmeticFmt f) l.rm (word j) (el f a j) (other f b j) (el f e j))
  | .vabs f, [_, _, d, a] => map (isFloat f || isInt f) f d (one f a) (fun j =>
      if isFloat f then (el f a j % 2 ^ (8 * size f - 1), 0) else (integer (8 * size f) sat |signed f (el f a j)|, 0))
  | .vcmp f, [_, _, d, a, b] =>
    let holds (i : Nat) : Bool × BitVec 6 :=
      if isFloat f then fpCond (arithmeticFmt f) sel (el f a i) (other f b i)
      else (IntCondition sel (.ofInt 64 (signed f (el f a i))) (.ofInt 64 (signed f (other f b i))), 0)
    if isFloat f || isInt f then some ⟨True, two f a b, [⟨[(d.toNat, (n + 7) / 8)], (n + 7) / 8, 1, fun j => d.toNat + j,
      fun j w => w.1 = (∑ t ∈ Finset.range 8, if 8 * j + t < n ∧ (holds (8 * j + t)).1 = true then 2 ^ t else 0) ∧
        ∀ q, w.2.getLsbD q = true ↔ ∃ t < 8, 8 * j + t < n ∧ (holds (8 * j + t)).2.getLsbD q = true⟩]⟩
    else none
  | .vsel f, [_, _, d, m, a, b] => map (known f) f d ((m.toNat, (n + 7) / 8) :: two f a b) (fun j => (if bit m j then el f a j else other f b j, 0))
  | .vcvt f, [_, _, d, a] => if known f && decide (dest ≤ 6) then
      out dest d (one f a) (fun j w => w = convertElem f.toNat dest l.rm sat (word j) (el f a j)) else none
  | .vrcp f, [_, _, d, a] => func f d a fpRcp
  | .vrsq f, [_, _, d, a] => func f d a fpRsqrt
  | .vexp2 f, [_, _, d, a] => func f d a fpExp2
  | .vlog2 f, [_, _, d, a] => func f d a fpLog2
  | .vred f, [_, _, d, a] =>
    let z := if f = 4 ∧ sel ≠ 0 then 2 else 4
    let op (x y : Nat) : Nat × BitVec 6 :=
      if sel = 0 then (if f = 6 then ((x + y) % 2 ^ 32, 0) else fpAdd fp32 l.rm 0 x y)
      else if f = 6 then (integer 32 false (if sel = 1 then max (signed f x) (signed f y) else min (signed f x) (signed f y)), 0)
      else fpMinMax (arithmeticFmt f) (sel = 1) x y
    if isFloat f || decide (f = 6) then some ⟨True, one f a, [⟨[(d.toNat, z)], 1, z, fun _ => d.toNat,
      fun _ w => reduction op n (fun i => if f = 4 ∧ sel = 0 then el f a i * 2 ^ 16 else el f a i) 7 0 = (some w.1, w.2)⟩]⟩
    else none
  | .viota f, [_, _, d, a] => map (f = 6) f d [] (fun j => ((a.toNat + j) % 2 ^ 32, 0))
  | .vand f, [_, _, d, a, b] => bits (known f) f d a b (· &&& ·)
  | .vor f, [_, _, d, a, b] => bits (known f) f d a b (· ||| ·)
  | .vxor f, [_, _, d, a, b] => bits (known f) f d a b (· ^^^ ·)
  | .vshl f, [_, _, d, a, b] => bits (isInt f) f d a b (fun x y => x * 2 ^ (y % (8 * size f)) % 2 ^ (8 * size f))
  | .vshr f, [_, _, d, a, b] => bits (isInt f) f d a b (fun x y => x / 2 ^ (y % (8 * size f)))
  | .vmov f, [_, _, d, a] => map (known f) f d (one f a) (fun j => (el f a j, 0))
  | .vrnd, [_, _, d] => map true 6 d [] (fun j => ((word j).toNat, 0))
  | .vtmask, [_, d, p, shape, pitch] =>
    let nodes := shape.toNat % 2 ^ 8
    let len := shape.toNat / 2 ^ 8 % 2 ^ 32
    let parent (i : Nat) : Nat := (rd (p.toNat + i)).toNat
    if nodes ≤ 64 then some ⟨∀ i, 1 ≤ i → i < nodes → parent i < i, [(p.toNat, nodes)],
      [⟨pitched d nodes pitch.toNat pitch.toNat, nodes, pitch.toNat, fun j => d.toNat + j * pitch.toNat,
        fun j w => w.2 = 0 ∧ ∀ x, w.1.testBit x = true ↔
          x < 8 * pitch.toNat ∧ (x < len ∨ (len ≤ x ∧ x - len < nodes ∧ Ancestor parent j (x - len)))⟩]⟩
    else none
  | .vsmax false f, [_, d, a, shape, p, sc] => softmax f d a shape p sc (fun _ => []) (fun _ _ => true)
  | .vsmax true f, [_, d, a, m, shape, p, sc] =>
    let pitch := p.toNat / 2 ^ 32
    softmax f d a shape p sc (fun rows => pitched m rows pitch ((shape.toNat % 2 ^ 32 + 7) / 8))
      (fun r j => (rd (m.toNat + r * pitch + j / 8)).getLsbD (j % 8))
  | .vtopk, [_, d, a, shape] => top d a (shape.toNat % 2 ^ 32) (shape.toNat / 2 ^ 32 % 2 ^ 7)
  | .vargmax, [_, d, a, m] => top d a m.toNat 1
  | .vscan f, [_, _, d, a] => map (f = 5 ∨ f = 6) f d (one f a) (running (fun j x y =>
      if f = 5 then fpAdd fp32 l.rm (word j) x y else (integer 32 sat (signed f x + signed f y), 0)) (el f a 0, 0) (el f a))
  | .vquant f, [_, _, d, sc, a] =>
    let x (i : Nat) : Option ℚ := (floatFmt false).value (value (a.toNat + 4 * i) 4)
    let special (b : Nat) : Prop := ∃ i < 32, x (32 * b + i) = none
    let Most (b : Nat) (z : ℚ) : Prop := (∃ i < 32, ∃ y, x (32 * b + i) = some y ∧ |y| = z) ∧ ∀ i < 32, ∀ y, x (32 * b + i) = some y → |y| ≤ z
    if f.toNat ≤ 3 ∧ n % 32 = 0 then some ⟨True, [(a.toNat, 4 * n)], [
      ⟨[(d.toNat, n)], n, 1, fun j => d.toNat + j, fun i w =>
        (special (i / 32) → w = (if f = 0 then 0x7F else if f = 1 then 0x7E else if f = 2 then 0x00 else 0x77, 0)) ∧
        (¬ special (i / 32) → ∀ z, Most (i / 32) z →
          (z = 0 → w = (if f = 3 then 0x77 else 0x00, 0)) ∧
          (z ≠ 0 → ∀ y v, x i = some y → ScaleOf f z v →
            (∀ F, codeFmt f.toNat = some F → Rounds F false l.rm (y / v : ℚ) w) ∧
            (f = 2 → ∃ q, ConvertsInt 8 l.rm (y / v) q ∧ w = ((q.1 % 2 ^ 8).toNat, q.2)) ∧ (f = 3 → RoundsTs (y / v) w)))⟩,
      ⟨[(sc.toNat, 3 * (n / 32))], n / 32, 3, fun b => sc.toNat + 3 * b, fun b w =>
        (special b → w = (255 * 2 ^ 16, 0x10)) ∧
        (¬ special b → ∀ z, Most b z → (z = 0 → w = (0, 0)) ∧
          (z ≠ 0 → ∃ v, ScaleOf f z v ∧ scaleValue w.1 = some v ∧
            w.2 = let y := z / (if f = 0 then 448 else if f = 1 then 57344 else if f = 2 then 127 else 2)
              if v = y then 0 else if y < 2 ^ (-126 : Int) then 0x03 else 0x01))⟩]⟩
    else none
  | .vdeq f, [_, _, d, a, sc] =>
    if isFloat f && decide (dest ≤ 3) then out f.toNat d [(a.toNat, n), (sc.toNat, 3 * (n / 32))] (fun j w =>
      let y := (rd (a.toNat + j)).toNat
      match scaleValue (value (sc.toNat + 3 * (j / 32)) 3) with
      | none => w = (quietNaN f.toNat, 0)
      | some v => (v = 0 → w = (0, 0)) ∧
        (v ≠ 0 → (∀ p, codeValue dest y = some p → ∀ F, codeFmt f.toNat = some F → Rounds F false l.rm (p * v : ℚ) w) ∧
          (codeValue dest y = none → w = (if dest = 1 ∧ y % 4 = 0 then (if f = 4 then 0x7F80 else 0x7F80_0000) + (if y < 128 then 0 else 2 ^ (8 * size f - 1))
            else quietNaN f.toNat, 0))))
    else none
  | _, _ => none

/-- Every byte of rows is the slot's own scratchpad, in an unbroken row. -/
def OwnRows (s : State) (k : SlotId) (rs : ByteRows) : Prop := ∀ r ∈ rs, 0 < r.2 ∧ ∃ q, Own s k r.1 r.2 q
/-- Two rows share no byte. -/
def RowsApart (s : State) (k : SlotId) (a b : Nat × Nat) : Prop := ∀ i j, i < a.2 → j < b.2 → spAt s k (a.1 + i) ≠ spAt s k (b.1 + j)
/-- A launch's effect is a state in which only bytes of its slot's scratchpad have changed, and they alone in the rows. -/
def OnlyScratch (s t : State) (k : SlotId) (rs : ByteRows) : Prop :=
  (∃ m p r, t = setSlot s k { getSlot s k with scratch := m, spPoison := p, spRels := r }) ∧
  ∀ q, (∀ r ∈ rs, ∀ j, j < r.2 → spAt s k (r.1 + j) ≠ some (k, q)) → cellGet (getSlot t k).scratch q = cellGet (getSlot s k).scratch q

/-- A launch of a vector word whose operands are the slot's own, unpoisoned, and whose destination is a source or apart from it: each
value that it writes is the word's, its flags are theirs, and nothing else changes. -/
def VectorEffect (s : State) (k : SlotId) (l : Launch) : Prop :=
  ∀ r, vectorRow (spGet s k) l = some r →
    let rows := r.writes.flatMap Output.rows
    OwnRows s k r.reads → (∀ a ∈ r.reads, ∀ j < a.2, spBad s k (a.1 + j) = false) →
    (¬ r.legal → ∃ w, encode l.op = some w ∧ launchEffect s k 1 l = .fault s 0 l (0x0D, w)) ∧
    (r.legal → OwnRows s k rows →
      (∀ a ∈ r.reads, ∀ b ∈ rows, RowsApart s k a b ∨ (a.2 = b.2 ∧ spAt s k a.1 = spAt s k b.1)) → rows.Pairwise (RowsApart s k) →
      StorageCanonical s →
      ∃ t fl, launchEffect s k 1 l = .done t fl l.order ∧ OnlyScratch s t k rows ∧
        let now (w : Output) (j : Nat) : Nat := littleEndian w.size (fun i => spGet t k (w.place j + i))
        (∀ w ∈ r.writes, ∀ j < w.count, ∃ g, w.is j (now w j, g)) ∧
        ∀ q, fl.getLsbD q = true ↔ ∃ w ∈ r.writes, ∃ j < w.count, ∃ g, w.is j (now w j, g) ∧ g.getLsbD q = true)

end Sys2Proof.Claim

namespace Sys2Proof.Claim

open Sys2Proof.Machine

/-! The matrix words (R259 to R271) and the accumulators (R65, R80 to R85). -/

/-- Byte b of row i of tile c through a descriptor of two entries (R150). -/
def descriptorByte (p q : Word) (c i b : Nat) : Nat :=
  p.toNat % 2 ^ 32 + c * (q.toNat % 2 ^ 32) + i * (p.toNat / 2 ^ 32 % 2 ^ 16) + (b + i * (q.toNat / 2 ^ 32 % 2 ^ 3) * 32) % 384
/-- The place of a byte of a tile register, and of an element of an accumulator tile. -/
def tileAt (t i b : Nat) : Nat := t * 12288 + i * 384 + b
/-- A byte of the slot's own scratchpad that is not poisoned. -/
def Readable (s : State) (k : SlotId) (a : Nat) : Prop := (∃ q, spAt s k a = some (k, q)) ∧ spBad s k a = false

/-- The sign's infinity, or what the format has for it, where a special converts without saturation (R68, R77). -/
def specialOf (F : Fmt) (sat : Bool) (m : BitVec 3) (neg : Bool) : Nat :=
  let sign : Nat := if neg then 2 ^ (F.x + F.f) else 0
  if F.inf then (if sat then sign + (2 ^ F.x - 1) * 2 ^ F.f - 1 else sign + (2 ^ F.x - 1) * 2 ^ F.f)
  else if sat = true ∨ m = 1 ∨ (m = 2 ∧ neg = false) ∨ (m = 3 ∧ neg = true) then sign + 0x7E else 0x7F
/-- An accumulator element converted by ACCCVT (R78, R85): its mantissa, its special code and the tile's exponent. -/
def ConvertsAcc (f : Nat) (m : BitVec 3) (sat : Bool) (e mant : Int) (z : Nat) (w : Nat × BitVec 6) : Prop :=
  let bits := 8 * codeSize f
  let bounded (q : Int × BitVec 6) : Prop := w = ((q.1 % 2 ^ bits).toNat, q.2)
  (∀ F, codeFmt f = some F →
    (z = 0 → mant = 0 → w = (0, 0)) ∧ (z = 0 → mant ≠ 0 → Rounds F (sat && decide (bits = 8)) m ((mant : ℚ) * 2 ^ e : ℚ) w) ∧
    (z = 1 → w = (specialOf F (sat && decide (bits = 8)) m false, 0)) ∧ (z = 2 → w = (specialOf F (sat && decide (bits = 8)) m true, 0)) ∧
    (z = 3 → w = (if F.inf then (2 ^ F.x - 1) * 2 ^ F.f + 2 ^ (F.f - 1) else 0x7F, 0))) ∧
  (f = 2 ∨ f = 6 → (z = 0 → ∃ q, ConvertsInt bits m ((mant : ℚ) * 2 ^ e) q ∧ bounded q) ∧
    (z = 1 → bounded (2 ^ (bits - 1) - 1, 0x10)) ∧ (z = 2 → bounded (-2 ^ (bits - 1), 0x10)) ∧ (z = 3 → w = (0, 0x10)))

/-- An accumulator tile: exponent, renormalisations, ES, and each element's mantissa and special code (R65). -/
structure Tile where
  e  : Int
  rn : Nat
  es : Bool
  m  : Nat → Int
  z  : Nat → Nat
/-- The tile that a slot holds. -/
def tileOf (x : Slot) (a : Fin 64) : Tile :=
  let cell (n : Nat) : BitVec 50 := cellGet x.acc (a.val * 1024 + n)
  ⟨(x.accStat[a]).e.toInt, (x.accStat[a]).rn.toNat, (x.accStat[a]).es,
   fun n => ((cell n).extractLsb' 0 48).toInt, fun n => (cell n).toNat / 2 ^ 48⟩
/-- Two tiles are equal; the mantissa of a special is ignored (R65). -/
def SameTile (a b : Tile) : Prop :=
  a.e = b.e ∧ a.rn = b.rn ∧ a.es = b.es ∧ ∀ n < 1024, a.z n = b.z n ∧ (a.z n = 0 → a.m n = b.m n)
/-- A launch's effect is a state in which only accumulator tile a has changed. -/
def OnlyTile (s t : State) (k : SlotId) (a : Fin 64) : Prop :=
  (∃ m c p, t = setSlot s k { getSlot s k with acc := m, accStat := c, accPoison := p } ∧
    (∀ n, ¬ (a.val * 1024 ≤ n ∧ n < a.val * 1024 + 1024) → cellGet m n = cellGet (getSlot s k).acc n) ∧
    (∀ b : Fin 64, b ≠ a → c.get b = (getSlot s k).accStat.get b) ∧
    ∀ n, n ∈ p ↔ n ∈ (getSlot s k).accPoison ∧ ¬ (a.val * 1024 ≤ n ∧ n < a.val * 1024 + 1024))
/-- A tile cleared (R265). -/
def Tile.cleared (t : Tile) : Tile := ⟨t.e, 0, false, fun _ => 0, fun _ => 0⟩
/-- To the nearest integer, ties to even. -/
def nearestEven (q : ℚ) : Int :=
  let n := ⌊q⌋
  if 1 / 2 < q - n ∨ (q - n = 1 / 2 ∧ n % 2 = 1) then n + 1 else n

/-- An operand element of MMA (R58 to R63, R268): its value, or its special code; and whether it is a signalling NaN. -/
structure Term where
  v    : ℚ
  z    : Nat
  snan : Bool
def operandTerm (f : Nat) (sat : Bool) (v : Nat) : Term :=
  match codeValue f v, codeFmt f with
  | some p, _ => ⟨p, 0, false⟩
  | none, some F =>
    let neg := v / 2 ^ (F.x + F.f) % 2 = 1
    if F.inf = true ∧ v % 2 ^ F.f = 0 then (if sat then ⟨(F.value (v - 1)).getD 0, 0, false⟩ else ⟨0, if neg then 2 else 1, false⟩)
    else ⟨0, 3, decide (f = 4 ∧ v % 2 ^ F.f < 2 ^ (F.f - 1))⟩
  | none, none => ⟨0, 0, false⟩
/-- A product with the scales of its two blocks (R74, R80): its value and code, and whether it sets NV. (That a NaN scale sets no NV is log
entry 84.) -/
def productTerm (a b : Term) (sa sb : Option ℚ) : (ℚ × Nat) × Bool :=
  match sa, sb with
  | some p, some q =>
    if p = 0 ∨ q = 0 then ((0, 0), false)
    else if a.z = 3 ∨ b.z = 3 then ((0, 3), a.snan || b.snan)
    else if a.z ≠ 0 ∨ b.z ≠ 0 then
      (if (a.z = 0 ∧ a.v = 0) ∨ (b.z = 0 ∧ b.v = 0) then ((0, 3), true)
       else
        let minus (t : Term) : Bool := t.z = 2 ∨ (t.z = 0 ∧ t.v < 0)
        ((0, if minus a = minus b then 1 else 2), false))
    else ((a.v * b.v * p * q, 0), false)
  | _, _ => ((0, 3), false)
/-- SpecialSum of R84: the code, and whether it sets NV. -/
def specialSumOf (z w : Nat) : Nat × Bool :=
  if z = 0 then (w, false) else if w = 0 then (z, false) else if z = 3 ∨ w = 3 then (3, false) else if z = w then (z, false) else (3, true)
/-- The sum of a step's products (R81, R84): its value and code, and whether it or a product sets NV. -/
def stepTerm (n : Nat) (p : Nat → (ℚ × Nat) × Bool) : (ℚ × Nat) × Bool :=
  let has (z : Nat) : Bool := (List.range n).any (fun i => (p i).1.2 = z)
  let nv := (List.range n).any (fun i => (p i).2)
  if has 3 then ((0, 3), nv || (has 1 && has 2)) else if has 1 && has 2 then ((0, 3), true)
  else if has 1 then ((0, 1), nv) else if has 2 then ((0, 2), nv) else ((∑ i ∈ Finset.range n, (p i).1.1, 0), nv)
/-- Every element takes its step's value, at the exponent that holds before the step (R82). -/
def Tile.take (t : Tile) (v : Nat → ℚ × Nat) : Tile :=
  { t with
    m := fun n => if t.z n = 0 ∧ (v n).2 = 0 then nearestEven (t.m n + (v n).1 / 2 ^ t.e) else t.m n
    z := fun n => (specialSumOf (t.z n) (v n).2).1 }
/-- One turn of the loop of R82, and whether it is taken. -/
def Tile.turn (t : Tile) : Tile :=
  if t.e ≤ 32763 then { t with e := t.e + 4, rn := min (t.rn + 1) 65535, m := fun n => if t.z n = 0 then nearestEven (t.m n / 16) else t.m n }
  else { t with es := true, m := fun n => if t.z n = 0 ∧ 2 ^ 46 ≤ |t.m n| then (t.m n).sign * (2 ^ 46 - 1) else t.m n }
def Tile.Full (t : Tile) : Prop := ∃ n < 1024, t.z n = 0 ∧ 2 ^ 46 ≤ |t.m n|
/-- Renormalisation (R82): the tile after it, and whether it sets AS. -/
def Renormalised (t u : Tile) (as : Prop) : Prop :=
  ∃ c, u = Tile.turn^[c] t ∧ ¬ u.Full ∧ (∀ i < c, (Tile.turn^[i] t).Full) ∧ (as ↔ ∃ i < c, 32763 < (Tile.turn^[i] t).e)

/-- MMA and MMAS (R268 to R271), on the values popped after the completion word (and the stamp): the steps of R81 in order, each over the
whole tile. -/
def MmaEffect (s : State) (k : SlotId) (l : Launch) (ta tb : Bool) (mw : Word) (a b : Word × Word) (f : Word) : Prop :=
  let x := getSlot s k
  let acc : Fin 64 := .ofNat 64 (mw.toNat % 2 ^ 6)
  let m := mw.toNat / 2 ^ 9 % 2 ^ 5 + 1
  let n := mw.toNat / 2 ^ 14 % 2 ^ 5 + 1
  let af := f.toNat % 2 ^ 4
  let bf := f.toNat / 2 ^ 4 % 2 ^ 4
  let shape := f.toNat / 2 ^ 8 % 2 ^ 2
  let asc := f.getLsbD 10
  let bsc := f.getLsbD 11
  let sat := f.getLsbD 12
  let sb := f.toNat / 2 ^ 16 % 2 ^ 32
  let cols := if af = 4 then 192 else 384
  let nb := cols / 32
  let step := if shape = 0 then 1 else if shape = 1 then 8 else if shape = 2 then 32 else cols
  let areg := mw.toNat / 2 ^ 19 % 2 ^ 5
  let breg := mw.toNat / 2 ^ 24 % 2 ^ 5
  let scaleAt (isB : Bool) (r g : Nat) : Nat := sb + (if isB ∧ asc then 3 * (32 * nb) else 0) + 3 * (nb * r + g)
  let scale (on isB : Bool) (r g : Nat) : Option ℚ :=
    if on then scaleValue (littleEndian 3 (fun j => spGet s k (scaleAt isB r g + j))) else some 1
  let byteOf (reg : Bool) (t : Nat) (d : Word × Word) (i j : Nat) : Byte :=
    if reg then cellGet x.tiles (tileAt t i j) else spGet s k (descriptorByte d.1 d.2 0 i j)
  let elem (fmt : Nat) (reg : Bool) (t : Nat) (d : Word × Word) (i q : Nat) : Term :=
    operandTerm fmt sat (littleEndian (codeSize fmt) (fun j => byteOf reg t d i (q * codeSize fmt + j)))
  let p (i j q : Nat) : (ℚ × Nat) × Bool :=
    productTerm (elem af ta areg a i q) (elem bf tb breg b j q) (scale asc false i (q / 32)) (scale bsc true j (q / 32))
  let clean (reg : Bool) (t rows : Nat) (d : Word × Word) : Prop := ∀ i j, i < rows → j < 384 →
    if reg then tileAt t i j ∉ x.tilePoison else Readable s k (descriptorByte d.1 d.2 0 i j)
  let v (g e : Nat) : (ℚ × Nat) × Bool :=
    if e / 32 < m ∧ e % 32 < n then stepTerm step (fun c => p (e / 32) (e % 32) (g * step + c)) else ((0, 0), false)
  (af ≤ 3 ∧ bf ≤ 3 ∨ af = 4 ∧ bf = 4) → (ta = false → a.1.toNat < 2 ^ 48 ∧ a.2.toNat < 2 ^ 35) → (tb = false → b.1.toNat < 2 ^ 48 ∧ b.2.toNat < 2 ^ 35) →
  clean ta areg m a → clean tb breg n b →
  (asc = true → ∀ i g j, i < m → g < nb → j < 3 → Readable s k (scaleAt false i g + j)) →
  (bsc = true → ∀ i g j, i < n → g < nb → j < 3 → Readable s k (scaleAt true i g + j)) →
  (mw.getLsbD 8 = false → ∀ e < 1024, acc.val * 1024 + e ∉ x.accPoison) → StorageCanonical s →
  ∃ t fl, launchEffect s k 0 l = .done t fl l.order ∧ OnlyTile s t k acc ∧
    ∃ (u : Nat → Tile) (as : Nat → Prop), u 0 = (if mw.getLsbD 8 then (tileOf x acc).cleared else tileOf x acc) ∧
      (∀ g < cols / step, Renormalised ((u g).take (fun e => (v g e).1)) (u (g + 1)) (as g)) ∧ SameTile (tileOf (getSlot t k) acc) (u (cols / step)) ∧
      (fl.getLsbD 4 = true ↔ ∃ g < cols / step, ∃ e < 1024, (v g e).2 = true ∨ (specialSumOf ((u g).z e) (v g e).1.2).2 = true) ∧
      (fl.getLsbD 5 = true ↔ ∃ g < cols / step, as g) ∧ fl &&& 0x0F = 0

/-- The matrix words (R264 to R271), on operands in the slot's own scratchpad, and on registers and scratchpad without poison. -/
def MatrixEffect (s : State) (k : SlotId) (l : Launch) : Prop :=
  let x := getSlot s k
  let accNo (w : Word) : Fin 64 := .ofNat 64 (w.toNat % 2 ^ 6)
  let sound (w : Word) : Prop := ∀ e < 1024, (accNo w).val * 1024 + e ∉ x.accPoison
  let element (w : Word) (e : Nat) : BitVec 50 := cellGet x.acc ((accNo w).val * 1024 + e)
  let store (rows : ByteRows) (t : State) : Prop := launchEffect s k 0 l = .done t 0 l.order ∧ OnlyScratch s t k rows
  let read8 (t : State) (a : Nat) : Nat := littleEndian 8 (fun j => spGet t k (a + j))
  StorageCanonical s →
  (∀ c' c p q, l.op = .mld ∨ l.op = .mst → l.vals = [c', c, p, q] → p.toNat < 2 ^ 48 → q.toNat < 2 ^ 35 →
    let first := c.toNat % 2 ^ 5
    let count := c.toNat / 2 ^ 5 % 2 ^ 5 + 1
    let inside (n : Nat) : Prop := first * 12288 ≤ n ∧ n < (first + count) * 12288
    (l.op = .mld → (∀ t i b, t < count → i < 32 → b < 384 → Readable s k (descriptorByte p q t i b)) →
      ∃ m r, launchEffect s k 0 l = .done (setSlot s k { x with tiles := m, tilePoison := r }) 0 l.order ∧
        (∀ t i b, t < count → i < 32 → b < 384 → cellGet m (tileAt (first + t) i b) = spGet s k (descriptorByte p q t i b)) ∧
        (∀ n, ¬ inside n → cellGet m n = cellGet x.tiles n) ∧ ∀ n, n ∈ r ↔ n ∈ x.tilePoison ∧ ¬ inside n) ∧
    (l.op = .mst → (∀ t i b, t < count → i < 32 → b < 384 → ∃ o, spAt s k (descriptorByte p q t i b) = some (k, o)) →
      (∀ n ∈ x.tilePoison, ¬ inside n) →
      -- the bytes in the order in which they are written: the later write to a place stands
      let place (j : Nat) : Nat := descriptorByte p q (j / 12288) (j / 384 % 32) (j % 384)
      ∃ u, store ((List.range (count * 12288)).map (fun j => (place j, 1))) u ∧
        ∀ j < count * 12288, (∀ i, j < i → i < count * 12288 → spAt s k (place i) ≠ spAt s k (place j)) →
          spGet u k (place j) = cellGet x.tiles (first * 12288 + j))) ∧
  (∀ c w, l.op = .accinit → l.vals = [c, w] → ∃ t, launchEffect s k 0 l = .done t 0 l.order ∧ OnlyTile s t k (accNo w) ∧
    SameTile (tileOf (getSlot t k) (accNo w)) { (tileOf x (accNo w)).cleared with e := (w.extractLsb' 16 16).toInt }) ∧
  (∀ c w, l.op = .accnorm → l.vals = [c, w] → sound w → ∃ t n, launchEffect s k 0 l = .done t 0 l.order ∧ OnlyTile s t k (accNo w) ∧
    let old := tileOf x (accNo w)
    let may (i : Nat) : Prop := -32764 ≤ old.e - 4 * i ∧ ∀ e < 1024, old.z e = 0 → |old.m e * 16 ^ i| < 2 ^ 42
    (∀ i < n, may i) ∧ ¬ may n ∧ SameTile (tileOf (getSlot t k) (accNo w)) { old with e := old.e - 4 * n, m := fun e => old.m e * 16 ^ n }) ∧
  (∀ c w a, l.op = .accsnap → l.vals = [c, w, a] → sound w → OwnRows s k [(a.toNat, 8200)] → ∃ t, store [(a.toNat, 8200)] t ∧
    (∀ e < 1024, read8 t (a.toNat + 8 * e) = (element w e).toNat) ∧
    let st := x.accStat[accNo w]
    read8 t (a.toNat + 8192) = st.e.toNat + 2 ^ 16 * st.rn.toNat + (if st.es then 2 ^ 32 else 0)) ∧
  (∀ c w a, l.op = .accload → l.vals = [c, w, a] → (∀ j < 8200, Readable s k (a.toNat + j)) →
    ∃ t, launchEffect s k 0 l = .done t 0 l.order ∧ OnlyTile s t k (accNo w) ∧
      (∀ e < 1024, cellGet (getSlot t k).acc ((accNo w).val * 1024 + e) = .ofNat 50 (read8 s (a.toNat + 8 * e))) ∧
      let st := read8 s (a.toNat + 8192)
      (getSlot t k).accStat[accNo w] = ⟨.ofNat 16 st, .ofNat 16 (st / 2 ^ 16), decide (st / 2 ^ 32 % 2 = 1)⟩) ∧
  (∀ c w d, l.op = .acccvt → l.vals = [c, w, d] → sound w →
    let f := w.toNat / 2 ^ 6 % 2 ^ 4
    let pitch := w.toNat / 2 ^ 16 % 2 ^ 16
    let rows := pitched d 32 pitch (32 * codeSize f)
    f ∈ [0, 1, 2, 4, 5, 6] → OwnRows s k rows → rows.Pairwise (RowsApart s k) →
    ∃ t fl, launchEffect s k 0 l = .done t fl l.order ∧ OnlyScratch s t k rows ∧
      let old := tileOf x (accNo w)
      let is (e : Nat) (g : BitVec 6) : Prop := ConvertsAcc f l.rm (w.getLsbD 13) old.e (old.m e) (old.z e)
        (littleEndian (codeSize f) (fun j => spGet t k (d.toNat + e / 32 * pitch + e % 32 * codeSize f + j)), g)
      (∀ e < 1024, ∃ g, is e g) ∧ ∀ q, fl.getLsbD q = true ↔ ∃ e < 1024, ∃ g, is e g ∧ g.getLsbD q = true) ∧
  (∀ c d, l.op = .permrd → l.vals = [c, d] → OwnRows s k [(d.toNat, 64)] →
    ∃ t, store [(d.toNat, 64)] t ∧ ∀ i : Fin 64, (spGet t k (d.toNat + i)).toNat = (x.perm[i]).toNat) ∧
  (∀ c d, l.op = .growrd → l.vals = [c, d] → OwnRows s k [(d.toNat, 8)] →
    ∃ t, store [(d.toNat, 8)] t ∧ read8 t d.toNat = x.grow.toNat + 2 ^ 32 * x.fst.toNat) ∧
  ∀ ta tb mw a b rest f, ((∃ c, l.op = .mma ta tb ∧ l.vals = c :: rest) ∨ ∃ c stamp, l.op = .mmas ta tb ∧ l.vals = c :: stamp :: rest) →
    rest = mw :: (if ta then [] else [a.1, a.2]) ++ (if tb then [] else [b.1, b.2]) → l.fmtw = some f → MmaEffect s k l ta tb mw a b f

/-! The factorisation words (R273 to R280), on FP32 arrays. Results and their order are stated; the flags of the operations are those of
R75. -/

/-- The arrays of a factorisation word, PERM, GROW and FST. -/
structure Arrays where
  A    : Nat → Nat → Nat
  tau  : Nat → Nat
  B    : Nat → Nat → Nat
  perm : Nat → Nat
  grow : Nat
  fst  : Nat
/-- How a step comes out: the word goes on, ends, raises 0x0F, or finds that PERM is none. -/
inductive StepEnd where
  | goes | ends | raises | noPerm
deriving DecidableEq
/-- FCTL (R273). -/
structure Fields where
  n     : Nat
  rows  : Nat
  ncol  : Nat
  unit  : Bool
  trans : Bool
  permb : Bool

/-- AbsMax and AbsMin of R274: the magnitudes of numbers are ordered as their encodings are. -/
def absMost (top : Bool) (xs : List Nat) : Nat :=
  if xs.all notNaN then (if top then (xs.map fabs).foldl max 0 else (xs.map fabs).foldl min (2 ^ 31 - 1)) else 0x7FC0_0000
/-- The largest or the least number, −0 below +0 (R178, R277). -/
def signedMost (top : Bool) (xs : List Nat) : Nat :=
  let key (x : Nat) : Int := if x < 2 ^ 31 then x else -(fabs x : Int) - 1
  if xs.all notNaN then
    match xs with
    | [] => 0
    | x :: rest => rest.foldl (fun a b => if (if top then key a < key b else key b < key a) then b else a) x
  else 0x7FC0_0000
/-- Pairs of indices below n, and those of the upper triangle. -/
def square (m n : Nat) : List (Nat × Nat) := (List.range m).flatMap (fun i => (List.range n).map (fun j => (i, j)))
def from' (a n : Nat) : List Nat := (List.range n).filter (fun i => a ≤ i)
/-- A word's Record (R274). -/
def Arrays.record (F : Arrays) (o st : Nat) : Arrays := if F.fst % 16 = 0 then { F with fst := st * 256 + o } else F
def Arrays.start (F : Arrays) (grow : Nat) : Arrays := { F with perm := fun i => i, grow := grow, fst := 0 }
/-- GROW after the last step of FLU and FQR. -/
def Arrays.grown (F : Arrays) (n : Nat) : Arrays :=
  { F with grow := if fabs F.grow = 0 then 0x3F80_0000
      else fdiv (absMost true (((square n n).filter (fun p => p.1 ≤ p.2)).map (fun p => F.A p.1 p.2))) F.grow }

/-- A step of FLU (R276). -/
def luStep (fx : Bool) (n k : Nat) (F : Arrays) : Arrays × StepEnd :=
  let F := if k = 0 then F.start (absMost true ((square n n).map (fun p => F.A p.1 p.2))) else F
  let above (x y : Nat) : Bool := notNaN x && notNaN y && decide (fabs y < fabs x)
  let p := (from' (k + 1) n).foldl (fun p i => if above (F.A i k) (F.A p k) then i else p) k
  let last (F : Arrays) : Arrays := if k + 1 = n then F.grown n else F
  if fabs (F.A p k) = 0 then (if fx then (F.record 1 k, .raises) else (last (F.record 1 k), .goes))
  else
    let row (i : Nat) : Nat := if i = k then p else if i = p then k else i
    let a (i j : Nat) : Nat := F.A (row i) j
    let low (i : Nat) : Nat := fdiv (a i k) (a k k)
    (last { F with
      A := fun i j => if k < i then (if j = k then low i else if k < j then ffma (fneg (low i)) (a k j) (a i j) else a i j) else a i j
      perm := fun i => F.perm (row i) }, .goes)
/-- A step of FCHOL (R277). -/
def cholStep (fx : Bool) (n k : Nat) (F : Arrays) : Arrays × StepEnd :=
  let F := if k = 0 then F.start (signedMost true ((List.range n).map (fun i => F.A i i))) else F
  let d := F.A k k
  if d = 0 ∨ 2 ^ 31 ≤ d ∨ notNaN d = false then
    (if fx then (F.record 2 k, .raises) else ({ F.record 2 k with grow := fdiv d F.grow }, .ends))
  else
    let l := (fpSqrt fp32 0 0 d).1
    let low (i : Nat) : Nat := fdiv (F.A i k) l
    let F := { F with A := fun i j =>
      if k ≤ j ∧ j ≤ i ∧ i < n then (if j = k then (if i = k then l else low i) else ffma (fneg (low i)) (low j) (F.A i j)) else F.A i j }
    let least := signedMost false ((List.range n).map (fun i => F.A i i))
    (if k + 1 = n then { F with grow := fdiv (fmul least least) F.grow } else F, .goes)
/-- A step of FQR (R278). -/
def qrStep (fx : Bool) (rows n k : Nat) (F : Arrays) : Arrays × StepEnd :=
  let F := if k = 0 then F.start (absMost true ((square rows n).map (fun p => F.A p.1 p.2))) else F
  let last (F : Arrays) : Arrays := if k + 1 = n then F.grown n else F
  let alpha := F.A k k
  let sum := (from' (k + 1) rows).foldl (fun q i => ffma (F.A i k) (F.A i k) q) 0
  let set (v i : Nat) : Nat := if i = k then v else F.tau i
  if fabs sum = 0 then
    (if fabs alpha = 0 then (if fx then (F.record 3 k, .raises) else (last { F.record 3 k with tau := set 0 }, .goes))
     else (last { F with tau := set 0 }, .goes))
  else
    let norm := (fpSqrt fp32 0 0 (ffma alpha alpha sum)).1
    let beta := if alpha < 2 ^ 31 then fneg norm else norm
    let t := fdiv (fsub beta alpha) beta
    let v (i : Nat) : Nat := fdiv (F.A i k) (fsub alpha beta)
    let w (j : Nat) : Nat := fmul t ((from' (k + 1) rows).foldl (fun q i => ffma (v i) (F.A i j) q) (F.A k j))
    (last { F with
      tau := set t
      A := fun i j =>
        if k ≤ i ∧ i < rows ∧ k ≤ j ∧ j < n then
          (if j = k then (if i = k then beta else v i)
           else if i = k then fsub (F.A k j) (w j) else ffma (fneg (v i)) (w j) (F.A i j))
        else F.A i j }, .goes)
/-- A step of FTRSL (lower) and FTRSU (R279). -/
def solveStep (lower fx : Bool) (c : Fields) (st : Nat) (F : Arrays) : Arrays × StepEnd :=
  let diagonal := (List.range c.n).map (fun i => F.A i i)
  if st = 0 ∧ c.permb = true ∧ ¬ (∀ v < c.n, ∃ i < c.n, F.perm i = v) then (F, .noPerm)
  else
    let old := F.B
    let F := if st = 0 then { F with
      fst := 0
      grow := if c.unit then 0x3F80_0000 else fdiv (absMost true diagonal) (absMost false diagonal)
      B := fun i j => if c.permb = true ∧ i < c.n ∧ j < c.ncol then F.B (F.perm i) j else F.B i j } else F
    let up := lower != c.trans
    let k := if up then st else c.n - 1 - st
    let zero := c.unit = false ∧ fabs (F.A k k) = 0
    if zero ∧ fx = true then ({ F.record 4 st with B := old }, .raises)
    else
      let F := if zero then F.record 4 st else F
      let x (j : Nat) : Nat :=
        let q := (if up then List.range k else from' (k + 1) c.n).foldl
          (fun q i => ffma (fneg (if c.trans then F.A i k else F.A k i)) (F.B i j) q) (F.B k j)
        if c.unit then q else fdiv q (F.A k k)
      ({ F with B := fun i j => if i = k ∧ j < c.ncol then x j else F.B i j }, .goes)
/-- A step of FAPPLYQ (R280). -/
def applyStep (c : Fields) (st : Nat) (F : Arrays) : Arrays × StepEnd :=
  let F := if st = 0 then { F with fst := 0 } else F
  let k := if c.trans then st else c.n - 1 - st
  if fabs (F.tau k) = 0 then (F, .goes)
  else
    let w (j : Nat) : Nat := fmul (F.tau k) ((from' (k + 1) c.rows).foldl (fun q i => ffma (F.A i k) (F.B i j) q) (F.B k j))
    ({ F with B := fun i j =>
      if k ≤ i ∧ i < c.rows ∧ j < c.ncol then (if i = k then fsub (F.B k j) (w j) else ffma (fneg (F.A i k)) (w j) (F.B i j)) else F.B i j }, .goes)
/-- The step of a word. -/
def factorStep (i : Instr) (c : Fields) : Nat → Arrays → Arrays × StepEnd :=
  match i with
  | .flu fx => luStep fx c.n
  | .fchol fx => cholStep fx c.n
  | .fqr fx => qrStep fx c.rows c.n
  | .ftrsl fx => solveStep true fx c
  | .ftrsu fx => solveStep false fx c
  | .fapplyq _ => applyStep c
  | _ => fun _ F => (F, .ends)
/-- Steps from one on, as many as are left: what stands after them, the step reached, and how it ended. -/
def factorRun (step : Nat → Arrays → Arrays × StepEnd) : Nat → Nat → Arrays → Arrays × Nat × StepEnd
  | 0, st, F => (F, st, .ends)
  | m + 1, st, F => match step st F with
    | (G, .goes) => factorRun step m (st + 1) G
    | (G, e) => (G, st, e)

/-- A launch of a factorisation word whose arrays are the slot's own, unpoisoned and apart: it runs its steps, from the one it stands at, to
the end of the word; or to the step that raises 0x0F, which ends it with its registers as they stand; or finds that PERM is none (0x0D). -/
def FactorEffect (s : State) (k : SlotId) (l : Launch) : Prop :=
  let x := getSlot s k
  ∀ c' w a rest, l.vals = c' :: w :: a :: rest →
    let c : Fields := ⟨w.toNat % 2 ^ 7, w.toNat / 2 ^ 8 % 2 ^ 7, w.toNat / 2 ^ 16 % 2 ^ 7, w.getLsbD 23, w.getLsbD 24, w.getLsbD 25⟩
    let ap := w.toNat / 2 ^ 32 % 2 ^ 16
    let bp := w.toNat / 2 ^ 48
    ∀ (tau b : Word) (hasTau hasB : Bool),
      ((∃ fx, l.op = .flu fx ∨ l.op = .fchol fx) ∧ rest = [] ∧ hasTau = false ∧ hasB = false ∨
       (∃ fx, l.op = .fqr fx) ∧ rest = [tau] ∧ hasTau = true ∧ hasB = false ∨
       (∃ fx, l.op = .ftrsl fx ∨ l.op = .ftrsu fx) ∧ rest = [b] ∧ hasTau = false ∧ hasB = true ∨
       (∃ fx, l.op = .fapplyq fx) ∧ rest = [tau, b] ∧ hasTau = true ∧ hasB = true) →
      let m := if hasTau then c.rows else c.n
      let arrays := pitched a m ap (4 * c.n) ++ (if hasTau then [(tau.toNat, 4 * c.n)] else []) ++ (if hasB then pitched b m bp (4 * c.ncol) else [])
      let value (t : State) (p : Nat) : Nat := littleEndian 4 (fun j => spGet t k (p + j))
      let A (t : State) (i j : Nat) : Nat := value t (a.toNat + i * ap + 4 * j)
      let T (t : State) (i : Nat) : Nat := value t (tau.toNat + 4 * i)
      let B (t : State) (i j : Nat) : Nat := value t (b.toNat + i * bp + 4 * j)
      1 ≤ c.n → c.n ≤ 64 → (hasTau = true → c.n ≤ c.rows ∧ c.rows ≤ 64) → c.ncol ≤ 64 → l.ended = false → l.prog < c.n → StorageCanonical s →
      OwnRows s k arrays → arrays.Pairwise (RowsApart s k) → (∀ r ∈ arrays, ∀ j < r.2, spBad s k (r.1 + j) = false) →
      let r := factorRun (factorStep l.op c) (c.n - l.prog) l.prog ⟨A s, T s, B s, fun i => (x.perm.toList.getD i 0).toNat, x.grow.toNat, x.fst.toNat⟩
      let F := r.1
      ∃ t fl, (∃ p g f, OnlyScratch (setSlot s k { x with perm := p, grow := g, fst := f }) t k arrays) ∧
        (r.2.2 = .ends → launchEffect s k 0 l = .done t fl l.order) ∧
        (r.2.2 = .raises → launchEffect s k 0 l = .fault t fl { l with prog := r.2.1, ended := true } (0x0F, .ofNat 64 F.fst)) ∧
        (r.2.2 = .noPerm → t = s ∧ fl = 0 ∧ ∃ v, encode l.op = some v ∧
          launchEffect s k 0 l = .fault t fl { l with prog := r.2.1, ended := false } (0x0D, v)) ∧
        (∀ i j, i < m → j < c.n → A t i j = F.A i j) ∧ (hasTau = true → ∀ i < c.n, T t i = F.tau i) ∧
        (hasB = true → ∀ i j, i < m → j < c.ncol → B t i j = F.B i j) ∧
        (∀ i : Fin 64, ((getSlot t k).perm[i]).toNat = F.perm i) ∧ (getSlot t k).grow.toNat = F.grow ∧ (getSlot t k).fst.toNat = F.fst

end Sys2Proof.Claim

namespace Sys2Proof.Claim

open Sys2Proof.Machine

/-! The traversal words (R253 to R258), on nodes and points as 32-bit words. -/

/-- The greater and the lesser number; which of two where one is a NaN is log entry 26. -/
def greater (a b : Nat) : Nat := (fpMinMax fp32 true a b).1
def lesser (a b : Nat) : Nat := (fpMinMax fp32 false a b).1
/-- Dot3 and D2 (R255). -/
def dotOf (u v : Nat → Nat) : Nat := ffma (u 2) (v 2) (ffma (u 1) (v 1) (fmul (u 0) (v 0)))
def distanceSq (p q : Nat → Nat) : Nat := dotOf (fun j => fsub (p j) (q j)) (fun j => fsub (p j) (q j))
/-- The key of a node (R255): of a point query, of XBOX and of XRAY. -/
def keyOf (i : Instr) (q node : Nat → Nat) : Nat :=
  let gap (lo hi : Nat → Nat) (j : Nat) : Nat := greater (greater (fsub (node j) (hi j)) (fsub (lo j) (node (3 + j)))) 0
  let plus := 0x7F80_0000
  match i with
  | .xbox => dotOf (gap q (fun j => q (3 + j))) (gap q (fun j => q (3 + j)))
  | .xray =>
    let lo (j : Nat) : Nat := fsub (node j) (q 7)
    let hi (j : Nat) : Nat := fadd (node (3 + j)) (q 7)
    let flat (j : Nat) : Bool := fabs (q (3 + j)) = 0
    let at' (x : Nat → Nat) (j : Nat) : Nat := fmul (fsub (x j) (q j)) (fdiv 0x3F80_0000 (q (3 + j)))
    let axes := (List.range 3).filter (fun j => !flat j)
    let first (j : Nat) : Nat := lesser (at' lo j) (at' hi j)
    let last (j : Nat) : Nat := greater (at' lo j) (at' hi j)
    let key := axes.foldl (fun m j => greater m (first j)) 0
    if (List.range 3).any (fun j => flat j && !(lessEq (lo j) (q j) && lessEq (q j) (hi j))) || axes.any (fun j => less (last j) (first j)) ||
        less (axes.foldl (fun m j => lesser m (last j)) plus) key then plus else key
  | _ => dotOf (gap q q) (gap q q)
/-- Bound() (R257). -/
def boundOf (i : Instr) (q : Nat → Nat) (cap : Nat) (f : Found) : Nat :=
  match i with
  | .xray => match f.entries with | e :: _ => e.1 | [] => q 6
  | .xrad => fmul (q 3) (q 3)
  | .xknn => if f.entries.length < cap then fmul (q 3) (q 3) else (f.entries.getLast?.map Prod.fst).getD 0
  | _ => 0
/-- Test of a point (R257): entries are (value, ID). -/
def testOf (i : Instr) (q : Nat → Nat) (cap : Nat) (f : Found) (p : Nat → Nat) : Found :=
  let below (a b : Nat × Nat) : Bool := less a.1 b.1 || (equal a.1 b.1 && decide (a.2 < b.2))
  let keep (v : Nat) : Found :=
    if f.entries.length < cap then { f with entries := f.entries ++ [(v, p 3)] } else { f with ovf := true, stop := true }
  let d2 := distanceSq p q
  match i with
  | .xray =>
    let w (j : Nat) : Nat := fsub (p j) (q j)
    let t := dotOf w (fun j => q (3 + j))
    let h := fsub (dotOf w w) (fmul t t)
    if lessEq 0 t && lessEq t (boundOf i q cap f) && lessEq h (fmul (q 7) (q 7)) && f.entries.head?.all (below (t, p 3)) then
      { f with entries := [(t, p 3)] } else f
  | .xrad => if lessEq d2 (fmul (q 3) (q 3)) then keep d2 else f
  | .xknn =>
    let e := (d2, p 3)
    let sorted := f.entries.takeWhile (fun y => !below e y) ++ e :: f.entries.dropWhile (fun y => !below e y)
    if lessEq d2 (fmul (q 3) (q 3)) && (decide (f.entries.length < cap) || f.entries.getLast?.any (below e)) then
      { f with entries := sorted.take cap } else f
  | _ => if (List.range 3).all (fun j => lessEq (q j) (p j) && lessEq (p j) (q (3 + j))) then keep 0 else f

/-- A walk in its course: the state with what the launch knows, the stack, and what is found. -/
structure Visit where
  w     : Walking
  stack : List Nat
  f     : Found
/-- One turn of the loop of R256. -/
def WalkStep (k : SlotId) (i : Instr) (nodes points : Word) (q : Nat → Nat) (cap : Nat) (c d : Visit) : Prop :=
  let read (w : Walking) (n : Nat) := travRead k w (nodes + .ofNat 64 (32 * n)) 32
  let fields (l : Words32) (j : Nat) : Nat := l.getD j 0
  ∃ n rest node w1, c.stack = n :: rest ∧ read c.w n = .ok (w1, node) ∧
    let x := fields node
    let leaf := x 7 / 2 ^ 16 % 2 = 1
    let broken := 2 ^ 17 ≤ x 7 ∨ (leaf ∧ x 7 % 2 ^ 16 = 0)
    let pruned := less (boundOf i q cap c.f) (keyOf i q x) = true
    (broken → d = ⟨w1, [], { c.f with bad := true, stop := true }⟩) ∧ (¬ broken → pruned → d = ⟨w1, rest, c.f⟩) ∧
    (¬ broken → ¬ pruned → leaf → ∃ g : Nat → Walking × Found, g 0 = (w1, c.f) ∧
      (∀ m < x 7 % 2 ^ 16, ((g m).2.stop = true → g (m + 1) = g m) ∧
        ((g m).2.stop = false → ∃ pt, travRead k (g m).1 (points + .ofNat 64 (16 * (x 6 + m))) 16 = .ok ((g (m + 1)).1, pt) ∧
          (g (m + 1)).2 = testOf i q cap (g m).2 (fields pt))) ∧
      d = ⟨(g (x 7 % 2 ^ 16)).1, if (g (x 7 % 2 ^ 16)).2.stop then [] else rest, (g (x 7 % 2 ^ 16)).2⟩) ∧
    (¬ broken → ¬ pruned → ¬ leaf → ∃ w2 w3 left right, read w1 (x 6) = .ok (w2, left) ∧ read w2 (x 6 + 1) = .ok (w3, right) ∧
      (64 < rest.length + 2 → d = ⟨w3, [], { c.f with tdeep := true, stop := true }⟩) ∧
      (rest.length + 2 ≤ 64 → d = ⟨w3, if less (keyOf i q (fields right)) (keyOf i q (fields left)) then (x 6 + 1) :: x 6 :: rest
        else x 6 :: (x 6 + 1) :: rest, c.f⟩))

/-- A launch of a traversal word: each query in turn walks its tree, reading nodes and points through the stream's TLB, and its result
record stands in scratchpad after it; a read that fails ends the launch with its fault. -/
def TraversalEffect (s : State) (k : SlotId) (l : Launch) : Prop :=
  (∀ c res qry nodes points param, l.op = .xray ∨ l.op = .xrad ∨ l.op = .xknn ∨ l.op = .xbox → l.vals = [c, res, qry, nodes, points, param] →
    let count := param.toNat % 2 ^ 16
    let cap := param.toNat / 2 ^ 16 % 2 ^ 8
    let pitch := param.toNat / 2 ^ 32
    OwnRows s k [(qry.toNat, 32 * count)] → (∀ j < 32 * count, spBad s k (qry.toNat + j) = false) →
    ∀ (W : Nat → Walking) (V : Nat → Nat → Visit) (m : Nat → Nat), W 0 = (s, l.order) →
      let slot (j i : Nat) : Nat := littleEndian 4 (fun b => spGet (W j).1 k (qry.toNat + 32 * j + 4 * i + b))
      let begun (j n : Nat) : Prop := V j 0 = ⟨W j, [0], ⟨[], false, false, false, false⟩⟩ ∧
        ∀ i < n, WalkStep k l.op nodes points (slot j) cap (V j i) (V j (i + 1))
      let done (j : Nat) : Prop := begun j (m j) ∧ m j < 2 ^ 70 ∧ (V j (m j)).stack = [] ∧
        let f := (V j (m j)).f
        let t := (V j (m j)).w
        let record : Bytes := natBytes 4 (f.entries.length + (if f.ovf then 2 ^ 16 else 0) + (if f.tdeep then 2 ^ 17 else 0) + (if f.bad then 2 ^ 18 else 0)) ++
          natBytes 4 0 ++ f.entries.flatMap (fun e => natBytes 4 e.2 ++ natBytes 4 e.1)
        OwnRows t.1 k [(res.toNat + pitch * j, record.length)] ∧ W (j + 1) = (spPutBytes t.1 k (res.toNat + pitch * j) record, t.2)
      ((∀ j < count, done j) → launchEffect s k 3 l = .done (W count).1 0 (W count).2) ∧
      ∀ j n a rest w f, j < count → (∀ i < j, done i) → begun j n → n < 2 ^ 70 → (V j n).stack = a :: rest →
        travRead k (V j n).w (nodes + .ofNat 64 (32 * a)) 32 = .error (w, f) → launchEffect s k 3 l = .fault w.1 0 { l with order := w.2 } f) ∧
  (∀ t a bs, StorageCanonical t → OwnRows t k [(a, bs.length)] → OnlyScratch t (spPutBytes t k a bs) k [(a, bs.length)] ∧
    ∀ j < bs.length, spGet (spPutBytes t k a bs) k (a + j) = bs.getD j 0) ∧
  -- a read of a node or a point
  ∀ w va n, (n = 16 ∨ n = 32) →
    (∀ f, streamTranslate w.1 k 4 va .read true = .error f → travRead k w va n = .error (w, f)) ∧
    ∀ s1 g, streamTranslate w.1 k 4 va .read true = .ok (s1, g) → (getSlot w.1 k).deterministic = false → isHost g.pa = false →
      ((∀ j < n, g.pa + j ∉ s1.poison) → (∀ y ∈ s1.log, ∀ j < n, y.covers (g.pa + j) = false) →
        ∃ s2 o, travRead k w va n = .ok ((s2, o),
          (List.range (n / 4)).map (fun i => littleEndian 4 (fun j => cellGet s1.mem (g.pa + 4 * i + j)))) ∧ { s2 with fresh := s1.fresh } = s1) ∧
      ∀ j < n, g.pa + j ∈ s1.poison → (∀ i < j, g.pa + i ∉ s1.poison) → travRead k w va n = .error ((s1, w.2), 0x13, va + .ofNat 64 j)

end Sys2Proof.Claim

/-- The effect of launches, on operands in the slot's own scratchpad. R243, R245: a launch of an elementwise integer word on INT8 or INT32
completes, each element of its destination the word's result, and no other byte of scratchpad, no flag and no memory changes. R265: a launch
of ACCZERO clears the named accumulator tiles, and no other. Both leave their queue. The vector words (R242 to R252), the matrix words (R264
to R271), the factorisation words (R273 to R280) and the traversal words (R253 to R258) have the effect that their tables and their
pseudocode give. (That a launch has its effect in one step is log entry 11, an integer conversion's clamp log entry 21, a NaN scale's flag
log entry 84, and which NaN a traversal's maximum drops log entry 26.) -/
def Obligations.LaunchesHaveTheirEffect : Prop :=
  ∀ (s : State) (k : SlotId) (n : Nat) (l : Launch),
    VectorEffect s k l ∧ MatrixEffect s k l ∧ FactorEffect s k l ∧ TraversalEffect s k l ∧
    (∀ f op z c d a b od oa ob, MayEnd s k 1 n l → elementwise l.op = some (f, op) → (f = 2 ∧ z = 1 ∨ f = 6 ∧ z = 4) → l.vals = [0x4000, c, d, a, b] →
      StorageCanonical s →
      let count := c.toNat % 2 ^ 24
      let w := 8 * z
      c.getLsbD 27 = false → Own s k d.toNat (count * z) od → Own s k a.toNat (count * z) oa →
      (c.getLsbD 28 = false → Own s k b.toNat (count * z) ob) →
      (∀ j, j < count * z → spBad s k (a.toNat + j) = false ∧ (c.getLsbD 28 = false → spBad s k (b.toNat + j) = false)) →
      (od = oa ∨ od + count * z ≤ oa ∨ oa + count * z ≤ od) →
      (c.getLsbD 28 = false → od = ob ∨ od + count * z ≤ ob ∨ ob + count * z ≤ od) →
      ∃ u, exec (.launchComplete k 2 n) s = .next u ∧ u.mem = s.mem ∧ (∀ m, m ≠ k → getSlot u m = getSlot s m) ∧
        (∀ j, j < count → element (getSlot u k) w (od + j * z) = op w (element (getSlot s k) w (oa + j * z))
          (if c.getLsbD 28 then .ofNat w b.toNat else element (getSlot s k) w (ob + j * z))) ∧
        (∀ o, ¬ (od ≤ o ∧ o < od + count * z) → cellGet (getSlot u k).scratch o = cellGet (getSlot s k).scratch o) ∧
        SameWork { getSlot u k with scratch := (getSlot s k).scratch, spPoison := (getSlot s k).spPoison, spRels := (getSlot s k).spRels }
          (withLaunches (getSlot s k) 1 (fun q => q.eraseIdx n))) ∧
    (∀ m : Word, MayEnd s k 0 n l → l.op = .acczero → l.vals = [0x4000, m] → Rising (getSlot s k).acc →
      ∃ u, exec (.launchComplete k 1 n) s = .next u ∧ u.mem = s.mem ∧ (∀ j, j ≠ k → getSlot u j = getSlot s j) ∧
        (∀ t : Fin 64, let old := (getSlot s k).accStat[t]
          ((getSlot u k).accStat[t] = if m.getLsbD t then { old with rn := 0, es := false } else old) ∧
          ∀ j, j < 1024 → cellGet (getSlot u k).acc (t * 1024 + j) = if m.getLsbD t then 0 else cellGet (getSlot s k).acc (t * 1024 + j)) ∧
        SameWork { getSlot u k with acc := (getSlot s k).acc, accStat := (getSlot s k).accStat, accPoison := (getSlot s k).accPoison }
          (withLaunches (getSlot s k) 0 (fun q => q.eraseIdx n)))

/-- The events of launches (R196, R224, R225, R233, R236 to R241, R272): a launch starts in its turn when the range checker admits it; an
MMAS starts at its stamp, with its format word, or misses it (0x0C); a byte of a copy is read, held in the buffer (R354) and lands at its
place, and counts into its barrier; a launch that is done leaves its queue, its flags are set and its completion object is updated; one
that faults holds its stream. The places of a copy's bytes are those of R236 to R240. A channel reads its record, and completes it (R206).
(That a launch but a copy has its effect in one step is log entry 11, a record's entries log entry 81, and which value an overlapping copy
reads is free: log entry 71.) -/
def Obligations.LaunchEventsFollowTheRules : Prop :=
  ∀ (s : State) (k : SlotId) (p : Fin 4) (n : Nat) (l : Launch),
    let x := getSlot s k
    let started (m : Launch) : Slot := withLaunches x p (fun q => q.set n m)
    let w := l.vals.headD 0
    -- LAUNCH_START
    (MayRun s k p n l → (∀ j, j < n → ∃ m, (getEng s k p).launches[j]? = some m ∧ m.started = true) → l.started = false →
      (∃ j, x.job = some j) → isMmas l.op = false → (p = 0 → n = 0) →
      (checkerClear s k p l = false → exec (.launchStart k (engCode p)) s = .next s) ∧
      (checkerClear s k p l = true →
        ((∀ a b, l.op ≠ .cpyg a b ∧ l.op ≠ .cpys a b) → ∃ u, exec (.launchStart k (engCode p)) s = .next u ∧
          OnlySlot s u k (started { l with started := true })) ∧
        (∀ a b c d e idx shape pitch, (l.op = .cpyg a b ∨ l.op = .cpys a b) → l.vals = [c, d, e, idx, shape, pitch] →
          let place (j : Nat) : Nat := (idx.toNat + j) % 2 ^ 64
          let rows := shape.toNat / 2 ^ 32
          ((∀ j, j < 4 * rows → spBad s k (place j) = false ∧ spAt s k (place j) ≠ none) →
            ∃ u, exec (.launchStart k (engCode p)) s = .next u ∧ OnlySlot s u k (started { l with
              started := true, idx := some ((List.range rows).map (fun r => littleEndian 4 (fun j => spGet s k (place (4 * r + j))))) })) ∧
          ((∃ j, j < 4 * rows ∧ spBad s k (place j) = true) → ∃ u, exec (.launchStart k (engCode p)) s = .next u ∧
            (getEng u k p).launches = (getEng s k p).launches.set n { l with started := true, idx := none })))) ∧
    -- MMAS_STAMP
    (∀ ta tb c stamp rest, MayRun s k 0 n l → (∀ j m, j < n → (getEng s k 0).launches[j]? = some m → isMmas m.op = true → m.started = true) →
      l.op = .mmas ta tb → l.started = false → l.vals = c :: stamp :: rest → (∃ j, x.job = some j) →
      let turn := n = 0 ∧ checkerClear s k 0 l = true
      (s.dcc.toNat < stamp.toNat → exec (.mmasStamp k) s = .next s) ∧
      (stamp.toNat ≤ s.dcc.toNat → l.fmtw ≠ none →
        (turn → ∃ u, exec (.mmasStamp k) s = .next u ∧ OnlySlot s u k (withLaunches x 0 (fun q => q.set 0 { l with started := true }))) ∧
        (¬ turn → exec (.mmasStamp k) s = .next s)) ∧
      (stamp.toNat ≤ s.dcc.toNat → l.fmtw = none → x.fmtq = [] ∨ stamp ≠ s.dcc ∨ ¬ turn →
        exec (.mmasStamp k) s = .next (launchRaises s k 0 n l (0x0C, stamp))) ∧
      ∀ f fs, stamp = s.dcc → l.fmtw = none → x.fmtq = f :: fs → turn →
        (∀ e, formatFault l.op f = some e → exec (.mmasStamp k) s = .next (launchRaises s k 0 n l e)) ∧
        (formatFault l.op f = none → ∃ u, exec (.mmasStamp k) s = .next u ∧
          OnlySlot s u k (withLaunches { x with fmtq := fs } 0 (fun q => q.set 0 { l with started := true, fmtw := some f })))) ∧
    -- COPY_BYTE_LAND
    (∀ pl s1 m1 v, MayRun s k 2 n l → l.started = true → copyPlan s k l.op l.vals (l.idx.getD []) = .ok pl → l.prog < pl.total →
      (n ≠ 0 → ∀ va, pl.src l.prog = .mem va ∨ pl.dst l.prog = .mem va → devicePage s (ctxL1 s x.ctx) va = false) →
      MemoryCanonical s1 → StorageCanonical s1 → nextByte s k pl l.prog ⟨l.saved, l.order, l.buffer⟩ = .ok (s1, m1, v) →
      let counted (t u : State) : Prop :=
        (w.getLsbD 14 = true ∨ w.getLsbD 15 = false → u.cores = t.cores) ∧
        (w.getLsbD 14 = false → w.getLsbD 15 = true → w.getLsbD 23 = false → let b := getBarrier t (coreOf k) (w.toNat % 2 ^ 10)
          (∃ h, b.owner = some (h, x.ctx)) → SameBarrier (getBarrier u (coreOf k) (w.toNat % 2 ^ 10)) { b with pend := b.pend - 1 })
      let moved (t u : State) : Prop := ∃ m, (getEng u k 2).launches = (getEng t k 2).launches.set n m ∧ m.prog = l.prog + 1 ∧
        { l with prog := m.prog, saved := m.saved, order := m.order, buffer := m.buffer } = m
      (∀ a q, pl.dst l.prog = .sp a → spAt s1 k a = some (k, q) → ∃ u, exec (.copyByteLand k (.launch n)) s = .next u ∧
        SameMemory s1 u ∧ counted s1 u ∧ moved s1 u ∧ (∀ r, r ∈ (getSlot u k).spPoison ↔ r ∈ (getSlot s1 k).spPoison ∧ r ≠ q) ∧
        ∀ r, cellGet (getSlot u k).scratch r = if r = q then v else cellGet (getSlot s1 k).scratch r) ∧
      (∀ va s2 f, pl.dst l.prog = .mem va → streamTranslate s1 k 3 va .write (rises pl.dst l.prog pl.total) = .ok (s2, f) → lands s2 k = true →
        ∃ u, exec (.copyByteLand k (.launch n)) s = .next u ∧ (∀ b, b ≠ f.pa → SameByte s2 u b) ∧ cellGet u.mem f.pa = v ∧
          f.pa ∉ u.poison ∧ counted s2 u ∧ moved s2 u)) ∧
    -- A byte of the source
    (∀ pl j m, (∀ v, m.buffer = some (v, false) → nextByte s k pl j m = .ok (s, { m with buffer := none }, v)) ∧
      (m.buffer = none → nextByte s k pl j m = readPlace s k m (pl.src j) (rises pl.src j pl.total))) ∧
    (∀ m v up, readPlace s k m (.fixed v) up = .ok (s, m, v)) ∧
    (∀ m a up, m.saved = [] → spBad s k a = false → spAt s k a ≠ none → readPlace s k m (.sp a) up = .ok (s, m, spGet s k a)) ∧
    (∀ m va s1 f up, m.saved = [] → streamTranslate s k 3 va .read up = .ok (s1, f) → f.pa < 2 ^ 43 → f.pa ∉ s1.poison →
      ∃ s2 o t, readPlace s k m (.mem va) up = .ok (s2, { m with order := o }, Machine.byteAt s2 t f.pa) ∧ { s2 with fresh := s1.fresh } = s1 ∧
        Sees m.order.cur.view o.cur.view ∧
        ∀ y ∈ s1.log, y.covers f.pa = true → y.id < m.order.cur.view.at f.pa ∨ dieOf k ∈ y.dies → y.id < t) ∧
    (∀ e va acc up, (∀ f, translateAs s (coreOf k) e x.ctx (ctxL1 s x.ctx) va acc = .error f → streamTranslate s k e va acc up = .error f) ∧
      ∀ t f, translateAs s (coreOf k) e x.ctx (ctxL1 s x.ctx) va acc = .ok (t, f) →
        ∃ u, streamTranslate s k e va acc up = .ok (u, f) ∧ { u with fresh := t.fresh, cores := t.cores } = t) ∧
    -- The places of a copy's bytes
    (let place (sp : Bool) (a : Word) : Place := if sp then .sp a.toNat else .mem a
     let signed (m : Nat) : Int := (BitVec.ofNat 32 m).toInt
     (∀ dsp ssp c dst src len pl, copyPlan s k (.cpy1d dsp ssp) [c, dst, src, len] [] = .ok pl →
      pl.total = len.toNat ∧ ∀ j, j < len.toNat → pl.src j = place ssp (src + .ofNat 64 j) ∧ pl.dst j = place dsp (dst + .ofNat 64 j)) ∧
     (∀ dsp ssp c dst src shape pitch pl, copyPlan s k (.cpy2d dsp ssp) [c, dst, src, shape, pitch] [] = .ok pl →
      let len := shape.toNat % 2 ^ 32
      let rows := shape.toNat / 2 ^ 32
      pl.total = rows * len ∧ ∀ y j, y < rows → j < len →
        pl.src (y * len + j) = place ssp (src + .ofInt 64 (y * signed (pitch.toNat % 2 ^ 32) + j)) ∧
        pl.dst (y * len + j) = place dsp (dst + .ofInt 64 (y * signed (pitch.toNat / 2 ^ 32) + j))) ∧
     (∀ dsp ssp c dst src shape pitch planes spl dpl pl, copyPlan s k (.cpy3d dsp ssp) [c, dst, src, shape, pitch, planes, spl, dpl] [] = .ok pl →
      let len := shape.toNat % 2 ^ 32
      let rows := shape.toNat / 2 ^ 32
      pl.total = planes.toNat % 2 ^ 32 * rows * len ∧
      ∀ z y j, y < rows → j < len →
        pl.src ((z * rows + y) * len + j) = place ssp (src + .ofInt 64 (z * spl.toInt + y * signed (pitch.toNat % 2 ^ 32) + j)) ∧
        pl.dst ((z * rows + y) * len + j) = place dsp (dst + .ofInt 64 (z * dpl.toInt + y * signed (pitch.toNat / 2 ^ 32) + j))) ∧
     (∀ dsp ssp c dst src a shape pitch idx pl,
      let len := shape.toNat % 2 ^ 32
      let rows := shape.toNat / 2 ^ 32
      (copyPlan s k (.cpyg dsp ssp) [c, dst, src, a, shape, pitch] idx = .ok pl → pl.total = rows * len ∧ ∀ y j, y < rows → j < len →
        pl.src (y * len + j) = place ssp (src + .ofNat 64 (idx.getD y 0 * pitch.toNat + j)) ∧
        pl.dst (y * len + j) = place dsp (dst + .ofNat 64 (y * len + j))) ∧
      (copyPlan s k (.cpys dsp ssp) [c, dst, src, a, shape, pitch] idx = .ok pl → pl.total = rows * len ∧ ∀ y j, y < rows → j < len →
        pl.src (y * len + j) = place ssp (src + .ofNat 64 (y * len + j)) ∧
        pl.dst (y * len + j) = place dsp (dst + .ofNat 64 (idx.getD y 0 * pitch.toNat + j)))) ∧
     (∀ dsp c dst pattern len pl, copyPlan s k (.cpyfill dsp) [c, dst, pattern, len] [] = .ok pl → pl.total = len.toNat ∧
      ∀ j, pl.src j = .fixed (.ofNat 8 (pattern.toNat / 256 ^ (j % 8))) ∧ pl.dst j = place dsp (dst + .ofNat 64 j)) ∧
     ∀ c a b sp pitch r t, tileNamed s x.ctx a b = .ok (r, t) →
      -- the place in scratchpad of byte i of element (x0, x1, x2, x3) of a box whose first extents are t0, t1, t2 (R237)
      let cell (t1 t2 x0 x1 x2 x3 i : Nat) : Place :=
        .sp (sp + .ofNat 64 (x0 * r.size + i) + .ofNat 64 (x1 + t1 * (x2 + t2 * x3)) * pitch).toNat
      let byte (t0 t1 t2 x0 x1 x2 x3 i : Nat) : Nat := (x0 + t0 * (x1 + t1 * (x2 + t2 * x3))) * r.size + i
      (∀ pl dir, copyPlan s k (.cpyt dir) [c, a, b, sp, pitch] [] = .ok pl →
        pl.total = r.tile 0 * r.tile 1 * r.tile 2 * r.tile 3 * r.size ∧
        ∀ x0 x1 x2 x3 i, x0 < r.tile 0 → x1 < r.tile 1 → x2 < r.tile 2 → i < r.size →
          let j := byte (r.tile 0) (r.tile 1) (r.tile 2) x0 x1 x2 x3 i
          let at' := cell (r.tile 1) (r.tile 2) x0 x1 x2 x3 i
          let inside := ∀ q : Fin 4, t.coords.getD q 0 * r.tile q + [x0, x1, x2, x3].getD q 0 < r.dim q
          (dir = false → pl.src j = .tile r t j ∧ pl.dst j = at') ∧
          (dir = true → inside → pl.src j = at' ∧ pl.dst j = .tile r t j) ∧
          (dir = true → ¬ inside → pl.dst j = .drop)) ∧
      ∀ pl d side wp, copyPlan s k (.cpytb d side) [c, a, b, sp, wp] [] = .ok pl → pitch = .ofNat 64 (wp.toNat / 2 ^ 32) →
        let layers := wp.toNat % 2 ^ 16
        let ext (q : Nat) : Nat := if q = d.toNat then layers else r.tile q
        let from' (q v : Nat) : Nat := if q = d.toNat ∧ side = false then r.tile q - layers + v else v
        let here := t.coords.getD d.toNat 0
        let there := if side then here + 1 < (r.dim d.toNat + r.tile d.toNat - 1) / r.tile d.toNat else 1 ≤ here
        let next : TileName := { t with coords := t.coords.set d.toNat (if side then here + 1 else here - 1) }
        pl.total = ext 0 * ext 1 * ext 2 * ext 3 * r.size ∧
        ∀ x0 x1 x2 x3 i, x0 < ext 0 → x1 < ext 1 → x2 < ext 2 → i < r.size →
          let j := byte (ext 0) (ext 1) (ext 2) x0 x1 x2 x3 i
          pl.dst j = cell (ext 1) (ext 2) x0 x1 x2 x3 i ∧
          (there → pl.src j = .tile r next (byte (r.tile 0) (r.tile 1) (r.tile 2) (from' 0 x0) (from' 1 x1) (from' 2 x2) (from' 3 x3) i)) ∧
          (¬ there → pl.src j = .fixed 0)) ∧
    -- LAUNCH_COMPLETE
    (∀ s1 fl o, MayEnd s k p n l → launchEffect s k p l = .done s1 fl o → ∃ u, exec (.launchComplete k (engCode p) n) s = .next u ∧
      SameMemory s1 u ∧ (∀ m, m ≠ k → getSlot u m = getSlot s1 m) ∧ Told (getSlot u k) (engCode p) w o ∧
      SameWork (getSlot u k) (tagged (withLaunches { getSlot s1 k with fflags := (getSlot s1 k).fflags ||| fl } p (fun q => q.eraseIdx n)) w) ∧
      let b := getBarrier s1 (coreOf k) (w.toNat % 2 ^ 10)
      ((w.getLsbD 14 = true ∨ w.getLsbD 15 = false ∨ p = 2) → u.cores = s1.cores) ∧
      (w.getLsbD 14 = false → w.getLsbD 15 = true → p ≠ 2 → (∃ h, b.owner = some (h, (getSlot s1 k).ctx)) →
        SameBarrier (getBarrier u (coreOf k) (w.toNat % 2 ^ 10))
          (if b.arr.toNat < b.exp.toNat then { b with arr := b.arr + 1 } else { b with surp := true }))) ∧
    -- LAUNCH_FAULT
    (∀ s1 fl l1 f, MayEnd s k p n l → launchEffect s k p l = .fault s1 fl l1 f →
      let flagged (m : Launch) : State := setSlot s1 k (withLaunches { getSlot s1 k with fflags := (getSlot s1 k).fflags ||| fl } p (fun q => q.set n m))
      ((getEng s k p).held = false →
        exec (.launchFault k (engCode p) n) s = .next (engineFault (flagged l1) k p l.pc (some l.seq) f)) ∧
      ((getEng s k p).held = true → exec (.launchFault k (engCode p) n) s = .next (flagged { l1 with parked := true, ended := l.ended }))) ∧
    -- Copy chains
    ∀ ch : Bool, let c := x.chans[chanNo ch]
      (ChannelRuns s k c → c.rcd = none → ∀ s1 o ctl, chanRead s k c.order c.recordVa 1 true = .ok (s1, o, ctl) →
        ((wordAt ctl 0).getLsbD 0 = false → ∃ u, exec (.chainRecordRead k (chanNo ch)) s = .next u ∧
          OnlySlot s1 u k (withChan (getSlot s1 k) ch { c with idle := true, order := o })) ∧
        (∀ s2 o2 rest, (wordAt ctl 0).getLsbD 0 = true → chanRead s1 k o (c.recordVa + 8) 7 false = .ok (s2, o2, rest) →
          let bs := ctl ++ rest
          let r : ChainRec := ⟨wordAt bs 0, wordAt bs 1, wordAt bs 2, wordAt bs 3, wordAt bs 4, wordAt bs 5, wordAt bs 6, wordAt bs 7⟩
          (recordOk s2 r = true → (getSlot s2 k).detctl = false → ∃ u o3, exec (.chainRecordRead k (chanNo ch)) s = .next u ∧
            Sees o2.cur.view o3.cur.view ∧ OnlySlot s2 u k (withChan { getSlot s2 k with checker := (getSlot s2 k).checker + 1 } ch
              { c with done := r.ctl.toNat / 2 ^ 16, rcd := some r, saved := [], buffer := none, order := o3 })) ∧
          (recordOk s2 r = false → c.abandon = false → (∀ j, x.job = some j → j.card.pnode = none) → ∃ u m, exec (.chainFault k (chanNo ch)) s = .next u ∧
            (getSlot u k).chans[chanNo ch] = m ∧ m.halt = some .check ∧ m.head = c.head ∧ m.code = 0x01 ∧
            m.pending = some ⟨0x01, c.recordVa, 3, 0, .ofNat 48 ch.toNat, none, some (chanNo ch)⟩))) ∧
      (∀ r s1 f, ChannelRuns s k c → c.abandon = false → c.rcd = some r → r.len.toNat * (r.rows.toNat % 2 ^ 32) ≤ c.done →
        streamTranslate s k 3 c.recordVa .write true = .ok (s1, f) → lands s1 k = true → MemoryCanonical s1 →
        ∃ u o, exec (.chainRecordComplete k (chanNo ch)) s = .next u ∧
          (∀ j, j < 8 → cellGet u.mem (f.pa + j) =
            .ofNat 8 ((r.ctl.toNat / 4 % 64 * 4 + r.len.toNat * (r.rows.toNat % 2 ^ 32) % 2 ^ 48 * 2 ^ 16) / 256 ^ j)) ∧
          (∀ b, ¬ (f.pa ≤ b ∧ b < f.pa + 8) → SameByte s1 u b) ∧
          SameWork (getSlot u k) (tagged (withChan (getSlot s1 k) ch { c with
            head := (c.head + 1) % c.size, nrec := c.nrec + 1, rcd := none, halt := none, abandon := false, fix := false, code := 0,
            pending := none, saved := [], buffer := none, done := 0, stop := c.stopping, stopping := false, order := o }) r.cmpl))

namespace Sys2Proof.Claim

open Sys2Proof.Machine

/-! Commands (R371 to R374). -/

/-- A command completes with a status and a result, in a state; from a queue, its entry then says so (R372). -/
def Answers (i : Instr) (s : State) (code : Nat) (result : Word) (t : State) : Prop := exec i s = .next (finishCmd t code result)
/-- A command is refused with a status, and changes nothing else. -/
def Refused (i : Instr) (s : State) (code : Nat) : Prop := Answers i s code 0 s
/-- A context that is live, and is not being destroyed. -/
def Live (s : State) (c : Ctx) (y : Context) : Prop := findCtx s c = some y ∧ y.dying = false
/-- The slot runs a job of a context. -/
def RunsJobOf (s : State) (k : SlotId) (c : Ctx) : Prop := ∃ j, (getSlot s k).job = some j ∧ j.ctx = c
/-- The slot that a command names. -/
def Names (core : BitVec 7) (slot : Bool) (k : SlotId) : Prop := k.val = 2 * core.toNat + slot.toNat
/-- A job of a slot that stands stopped with its record written, and valid. -/
def Stopped (s : State) (k : SlotId) (st : Stop) : Prop :=
  (getSlot s k).stop = some st ∧ st.written = true ∧ (recordWord s k 0).getLsbD 0 = true
/-- The debug commands are open (R388). -/
def DebugOpen (s : State) : Prop := Config.debugLock = false ∨ s.host.unlocked = true
/-- The TLBs and the walk cache of every core, with the entries that a test admits removed. -/
def TlbsWithout (s t : State) (p : TlbEntry → Prop) : Prop :=
  ∀ c : Fin 96, (∀ (e : EngId) (x : TlbEntry), x ∈ (t.cores[c]).tlbs[e] ↔ x ∈ (s.cores[c]).tlbs[e] ∧ ¬ p x) ∧
    ∀ x, x ∈ (t.cores[c]).walks ↔ x ∈ (s.cores[c]).walks ∧ ¬ p x
/-- Memory after a write of n bytes from an address on that every agent sees: the bytes stand there and are poisoned no more, and all else
of memory stands. -/
def Wrote (s t : State) (a n : Nat) (v : Nat → Byte) : Prop :=
  (∀ b, ¬ (a ≤ b ∧ b < a + n) → SameByte s t b ∧ (b ∈ t.poison ↔ b ∈ s.poison)) ∧
  ∀ j, j < n → (∀ m, Machine.byteAt t m (a + j) = v j) ∧ a + j ∉ t.poison
/-- The 64-bit word at an address, as the last write to each byte left it. -/
def memAt (s : State) (a : Nat) : Word := .ofNat 64 (littleEndian 8 (fun j => cellGet s.mem (a + j)))
/-- Nothing but memory changes. -/
def OnlyMemory (s t : State) : Prop := { t with mem := s.mem, poison := s.poison, log := s.log } = s
/-- No byte of a slot's record is poisoned. -/
def RecordClean (s : State) (k : SlotId) : Prop := ∀ b, saveAddr s k ≤ b → b < saveAddr s k + 8192 → b ∉ s.poison

end Sys2Proof.Claim

/-- The commands of R374: each, where its checks pass, has the effect of its rule and completes with STATUS 0 (SUBMIT with the job's
number, STEP with 1 or 2 in its result where the word waits or its stream is over); where a check fails, it completes with the status
of the table and changes nothing; one that cannot complete yet has begun, and completes when it is taken again. A command that came from a
queue writes STATUS, advances HEAD and counts in DONE (R371, R372). (The model's choices in the formats of R374 are log entries 38 and 39;
RESUME and STEP rest on log entries 43, 52, 53 and 62, TLB_INVALIDATE on log entry 67, the traces on log entry 54.) -/
def Obligations.CommandsFollowTheRules : Prop :=
  ∀ (s : State) (ctx : Ctx) (node : BitVec 10) (core : BitVec 7) (slot : Bool) (k : SlotId),
    let n := node.toNat
    (∀ code r, s.curCmd = none → finishCmd s code r = s) ∧
    (∀ q code r g, s.curCmd = some q → readRing { s with curCmd := none, cmdWait := if q = 0 then none else s.cmdWait } q = some g →
      MemoryCanonical s → code < 256 → r.toNat < 2 ^ 48 → g.irq = false →
      (∀ a ∈ [g.entry g.head + 8, g.header + 16, g.header + 32], paOk s a = true) →
      (g.entry g.head + 16 ≤ g.header ∨ g.header + 64 ≤ g.entry g.head) →
      memAt (finishCmd s code r) (g.entry g.head + 8) = .ofNat 64 (code + 256 + r.toNat * 2 ^ 16) ∧
      memAt (finishCmd s code r) (g.header + 16) = .ofNat 64 ((g.head + 1) % 2 ^ 32) ∧
      memAt (finishCmd s code r) (g.header + 32) = memAt s (g.header + 32) + 1) ∧
    -- CREATE_CONTEXT
    (∀ priv paired partner l1 save status header, let i : Instr := .createContext ctx node priv paired partner l1 save status header
      (paired = true → feature s 3 = true) →
      (findCtx s ctx ≠ none → Refused i s 14) ∧
      (findCtx s ctx = none → ctx ∈ s.invalidating → Refused i s 5) ∧
      (findCtx s ctx = none → ctx ∉ s.invalidating →
        (256 ≤ s.contexts.length → Refused i s 6) ∧
        (s.contexts.length < 256 → findRegion s n ≠ none → hasChild s n = false →
          (save.toNat % 8192 ≠ 0 → Refused i s 3) ∧
          (save.toNat % 8192 = 0 → isLpddr s save.toNat = true → isLpddr s (save.toNat + 0x17_FFFF) = true →
            (paired = true → partnerOk s n partner = true) → ∃ t, Answers i s 0 0 t ∧ { t with contexts := s.contexts } = s ∧
            t.contexts = s.contexts.map (fun y => if paired = true ∧ y.id = partner then { y with partner := some ctx } else y) ++
              [⟨ctx, n, priv, if paired then some partner else none, l1.toNat, save.toNat, status.toNat, header.toNat, 1, 0, false, [], [], [],
                false, []⟩])))) ∧
    -- DESTROY_CONTEXT
    (findCtx s ctx = none → Refused (.destroyContext ctx) s 16) ∧
    (findCtx s ctx ≠ none → (∀ m, ¬ RunsJobOf s m ctx) → ∃ t, Answers (.destroyContext ctx) s 0 0 t ∧ findCtx t ctx = none ∧
      (∀ c, c ≠ ctx → findCtx t c = (findCtx s c).map (fun y => if y.partner = some ctx then { y with partner := none } else y)) ∧
      (∀ j, j ∈ t.jobs ↔ j ∈ s.jobs ∧ j.ctx ≠ ctx) ∧ (∀ l ∈ t.lines, l.ctx ≠ ctx) ∧ (∀ e, e ∈ t.ready ↔ e ∈ s.ready ∧ e.ctx ≠ ctx) ∧
      (∀ e, e ∈ t.counts ↔ e ∈ s.counts ∧ e.ctx ≠ ctx) ∧ (∀ e, e ∈ t.texts ↔ e ∈ s.texts ∧ e.2.owner ≠ ctx) ∧
      TlbsWithout s t (fun e => e.asid = ctx ∧ ¬ Global e) ∧ ∀ m, (getSlot t m).resident ≠ some ctx) ∧
    (findCtx s ctx ≠ none → (∃ m, RunsJobOf s m ctx) → ∃ t, (Answers (.destroyContext ctx) s 0 0 t ∨
      exec (.destroyContext ctx) s = .next (deferCmd t (.destroyContext ctx)) ∧ ∃ y, findCtx t ctx = some y ∧ y.dying = true) ∧
      ∀ j ∈ t.jobs, j ∈ s.jobs ∧ j.ctx ≠ ctx) ∧
    -- SET_REGION
    (s.host.rwOnce.getLsbD 0 = false → (∀ a, Refused (.setRegion node a) s 4) ∧ Refused (.setRegionDelete node) s 4) ∧
    (∀ a bs, s.host.rwOnce.getLsbD 0 = true → physBytes s a.toNat 128 = some bs → MemoryCanonical s →
      let r := regionOf bs
      let old := findRegion s n
      (blockOk bs r = false ∨ bytesVal (bs.take 2) ≠ n ∨ parentOk s n r = false → Refused (.setRegion node a) s 4) ∧
      (blockOk bs r = true → bytesVal (bs.take 2) = n → parentOk s n r = true →
        let asks := (ownFlag r 1 = some true ∧ feature s 1 = false) ∨ ((ownFlag r 2 = some true ∨ ownFlag r 3 = some true) ∧ feature s 7 = false)
        (asks → Refused (.setRegion node a) s 1) ∧
        (¬ asks → quietChange old r = true → subtreeBusy s n = true → Refused (.setRegion node a) s 5) ∧
        (¬ asks → (quietChange old r = true → subtreeBusy s n = false) →
          let new : State := { s with regions := tableSet s.regions n r }
          let records (m : Nat) : Prop := (setsFlag new m 2 = true ∧ setsFlag s m 2 = false) ∨ (recordsAt new m = true ∧ recordsAt s m = false)
          let replays (m : Nat) : Prop := setsFlag new m 3 = true ∧ setsFlag s m 3 = false
          let touched (b : Nat) : Prop := ∃ m, (records m ∧ effTrbase new m ≤ b ∧ b < effTrbase new m + 8) ∨
            (replays m ∧ effTrbase new m + 8 ≤ b ∧ b < effTrbase new m + 16)
          let h := s.host.rtbase.toNat + 128 * n
          ∃ t, Answers (.setRegion node a) s 0 0 t ∧
            { t with regions := s.regions, mem := s.mem, poison := s.poison, log := s.log, traceNo := s.traceNo } = s ∧
            findRegion t n = some r ∧ (∀ m, m ≠ n → findRegion t m = findRegion s m) ∧
            (∀ m, records m → tableGet t.traceNo m = some 0 ∧ (paOk s (effTrbase new m) = true → memAt t (effTrbase new m) = 0)) ∧
            (∀ m, ¬ records m → tableGet t.traceNo m = tableGet s.traceNo m) ∧
            (∀ m, replays m → paOk s (effTrbase new m + 8) = true → memAt t (effTrbase new m + 8) = 0) ∧
            ∀ b, ¬ touched b → (h ≤ b ∧ b < h + 128 → cellGet t.mem b = bs.getD (b - h) 0) ∧ (¬ (h ≤ b ∧ b < h + 128) → SameByte s t b)))) ∧
    (s.host.rwOnce.getLsbD 0 = true → n ≠ 0 → findRegion s n ≠ none → hasChild s n = false → hasContext s n = false →
      ∃ t, Answers (.setRegionDelete node) s 0 0 t ∧ { t with regions := s.regions } = s ∧ findRegion t n = none ∧
        ∀ m, m ≠ n → findRegion t m = findRegion s m) ∧
    -- SET_LAYOUT
    (∀ y a bs, ∀ handle : BitVec 16, Live s ctx y → physBytes s a.toNat 64 = some bs →
      let i : Instr := .setLayout ctx handle a
      let r : Layout := Vector.ofFn (fun j : Fin 8 => wordAt bs j.val)
      let h := handle.toNat
      let next := ∀ o, tableGet y.layouts h = some o → r.gen = (Layout.gen o + 1) % 256
      let mine (c : Ctx) (m : Nat) : Prop := c = ctx ∧ m = h
      (layoutOk r = false ∨ ¬ next → Refused i s 10) ∧
      (layoutOk r = true → next → ∃ t z, Answers i s 0 0 t ∧ findCtx t ctx = some z ∧ { z with layouts := y.layouts } = y ∧
        tableGet z.layouts h = some (r.set 1 (.ofNat 64 (r[1].toNat % 2 ^ 32 + tileTotal r * 2 ^ 32))) ∧
        (∀ m, m ≠ h → tableGet z.layouts m = tableGet y.layouts m) ∧ (∀ l, l ∈ t.lines ↔ l ∈ s.lines ∧ ¬ mine l.ctx l.tile.handle) ∧
        (∀ e, e ∈ t.counts ↔ e ∈ s.counts ∧ ¬ mine e.ctx e.handle) ∧
        (∀ e, e ∈ t.ready ↔ e ∈ s.ready ∧ ¬ (mine e.ctx e.tile.handle ∧ e.tile.gen ≠ r.gen)) ∧ t.slots = s.slots)) ∧
    -- DECLARE_PIPELINE and SET_PLANK
    (∀ y a hd bs ps, Live s ctx y → physBytes s a.toNat 8 = some hd → physBytes s (a.toNat + 8) (8 * (wordAt hd 0).toNat) = some bs →
      1 ≤ (wordAt hd 0).toNat → (wordAt hd 0).toNat ≤ 8 → ps.length = (wordAt hd 0).toNat →
      (∀ j st, ps[j]? = some st → stageEntry (wordAt bs j) = some st) →
      let good := (ps.map Stage.queue).Nodup ∧ (∀ st ∈ ps, stageOf y st.queue = none ∧ queued s ctx st.queue = 0) ∧
        (ps.map Stage.mins).sum ≤ slotBudget s y
      (good → ∃ t, Answers (.declarePipeline ctx a) s 0 0 t ∧ t = setCtx s { y with pipes := y.pipes ++ [ps] }) ∧
      (¬ good → Refused (.declarePipeline ctx a) s 9)) ∧
    (∀ a hd bs ws, ∀ cluster : Fin 16, physBytes s a.toNat 8 = some hd →
      (wordAt hd 0).toNat = ws.length + cluster.val / 4 * 2 ^ 8 + cluster.val % 4 * 2 ^ 10 → 1 ≤ ws.length → ws.length ≤ 64 →
      physBytes s (a.toNat + 8) (8 * ws.length) = some bs → (∀ j w, ws[j]? = some w → windowEntry s (wordAt bs j) = some w) →
      dieLive s (cluster.val / 4) = true →
      (sharesOk s ws = false → Refused (.setPlank a) s 11) ∧
      (sharesOk s ws = true →
        ((∀ p ∈ s.planks, p.cluster ≠ cluster) → Answers (.setPlank a) s 0 0
          { s with planks := s.planks ++ [⟨cluster, ws, 0, s.dcc.toNat, [], 0, 0, [], none⟩] }) ∧
        ((∃ p ∈ s.planks, p.cluster = cluster) → Answers (.setPlank a) s 0 0
          { s with planks := s.planks.map (fun p => if p.cluster = cluster then { p with next := some ws } else p) }))) ∧
    -- SUBMIT
    (∀ y queue card, Live s ctx y →
      let i : Instr := .submit ctx queue card
      let r := enterQueue s y queue.toNat card 0 (submitEdge s)
      (∀ f, r = .error (.fault f) → Refused i s 8) ∧ (r = .error .feature → Refused i s 1) ∧ (r = .error .full → Refused i s 15) ∧
      ∀ t m, r = .ok (t, m) → Answers i s 0 (.ofNat 64 m) t ∧ m = y.nextSeq ∧ ∃ j, t.jobs = s.jobs ++ [j] ∧ j.seq = m ∧ j.ctx = y.id ∧
        j.queue = queue.toNat ∧ j.card.addr = card ∧ j.started = false ∧ j.admitted = false ∧ j.edge = submitEdge s ∧ t.slots = s.slots) ∧
    -- TLB_INVALIDATE
    (∀ v : Word, MemoryCanonical s → ∀ p ∈ removalsOf v (.tlbInvalidateAll v) (.tlbInvalidateAsid v) (.tlbInvalidatePage v),
      (¬ InFlight s p → ∃ t, Answers p.word s 0 0 t ∧ Removed s t p ∧ t.slots = s.slots) ∧
      (InFlight s p → ∃ t, exec p.word s = .next (deferCmd t p.word) ∧ { t with invalidating := s.invalidating } = s)) ∧
    -- RESUME
    (∀ y st, Live s ctx y → Names core slot k →
      ((getSlot s k).stop = none → Refused (.resume ctx core slot) s 12) ∧
      (Stopped s k st → ¬ RunsJobOf s k ctx → Refused (.resume ctx core slot) s 12) ∧
      (Stopped s k st → st.why ≠ .ending → RunsJobOf s k ctx → draining s ctx = false → MemoryCanonical s → RecordClean s k →
        ∃ t, Answers (.resume ctx core slot) s 0 0 t ∧ t.slots = (setSlot s k (getSlot t k)).slots ∧
          let x := getSlot t k
          x.stop = none ∧ x.pc = recordWord s k 5 ∧ x.poison = recordWord s k 6 &&& ~~~1 ∧ x.dead = recordWord s k 7 &&& ~~~1 ∧
          x.tags = recordWord s k 17 ∧ (∀ r : Reg, r ≠ 0 → x.readS r = recordWord s k (32 + r.toNat)) ∧
          (∀ e : Fin 4, (x.engs[e]).held = false) ∧ (∀ c : Fin 2, (x.chans[c]).halt = none) ∧
          Wrote s t (saveAddr s k) 1 (fun _ => cellGet s.mem (saveAddr s k) &&& 0xFE)) ∧
      (∀ b, Stopped s k st → st.why ≠ .ending → RunsJobOf s k ctx → draining s ctx = false → b < 8192 → saveAddr s k + b ∈ s.poison →
        (∀ m, m < b → saveAddr s k + m ∉ s.poison) → (∀ j, (getSlot s k).job = some j → j.card.pnode = none) →
        ∃ t f, Answers (.resume ctx core slot) s 0 0 t ∧ (getSlot t k).stop = some ⟨.fault, some f, false, false, none, true⟩ ∧
          f.code = 0x13 ∧ f.val = .ofNat 64 (saveAddr s k + b) ∧ SameMemory s t)) ∧
    (∀ y, Live s ctx y →
      (y.halted = false → Refused (.resumeAll ctx) s 0) ∧
      (y.halted = true → (∀ m st, RunsJobOf s m ctx → (getSlot s m).stop = some st → st.why = .halt → Stopped s m st ∧ RecordClean s m) →
        ∃ t, Answers (.resumeAll ctx) s 0 0 t ∧ findCtx t ctx = some { y with halted := false } ∧
          ∀ m, (getSlot s m).stop.map Stop.why = some .halt → RunsJobOf s m ctx → (getSlot t m).stop = none)) ∧
    -- ABORT and RESET_PARTITION
    (∀ y, findCtx s ctx = some y → s.curCmd = none → Names core slot k →
      (¬ RunsJobOf s k ctx → Refused (.abort ctx core slot) s 12) ∧
      (RunsJobOf s k ctx → (getSlot s k).atStop = true → draining s ctx = false → ∃ t, Answers (.abort ctx core slot) s 0 0 t ∧
        (getSlot t k).job = none ∧ (getSlot t k).stop = none ∧ (∀ m, m ≠ k → getSlot t m = getSlot s m) ∧ t.jobs = s.jobs)) ∧
    (∀ y, findCtx s ctx = some y → s.curCmd = none → draining s ctx = false → (∀ m, RunsJobOf s m ctx → (getSlot s m).atStop = true) →
      ∃ t, Answers (.abortAll ctx) s 0 0 t ∧ (∀ j, j ∈ t.jobs ↔ j ∈ s.jobs ∧ j.ctx ≠ ctx) ∧
        ∀ m, (RunsJobOf s m ctx → (getSlot t m).job = none) ∧ (¬ RunsJobOf s m ctx → getSlot t m = getSlot s m)) ∧
    (Names core slot k →
      (dieLive s (k.val / 48) = false → Refused (.resetPartition core slot) s 3) ∧
      (dieLive s (k.val / 48) = true → (getSlot s k).job ≠ none → Refused (.resetPartition core slot) s 5) ∧
      (dieLive s (k.val / 48) = true → (getSlot s k).job = none → ∃ t, Answers (.resetPartition core slot) s 0 0 t ∧
        (∀ m, m ≠ k → getSlot t m = getSlot s m) ∧ (getSlot t k).resident = none ∧ (getSlot t k).scratch = [] ∧ (getSlot t k).tiles = [] ∧
        (getSlot t k).acc = [] ∧ (getSlot t k).ckpt = [] ∧ (getSlot t k).lost = true ∧ (∀ r : Fin 64, ((getSlot t k).snaps[r]).valid = false) ∧
        ∀ b, (getBarrier t (coreOf k) b).owner = match (getBarrier s (coreOf k) b).owner with
          | some (o, c) => if o = decide (k.val % 2 = 1) then none else some (o, c)
          | none => none)) ∧
    -- HALT and STEP
    (∀ y, Live s ctx y → ¬ DebugOpen s → Refused (.hostHalt ctx) s 13) ∧
    (∀ y, Live s ctx y → DebugOpen s → ∃ u : State, (∃ t, exec (.hostHalt ctx) s = .next t ∧
        (t = finishCmd u 0 0 ∨ t = deferCmd u (.hostHalt ctx)) ∧
        ((∀ m j, (getSlot s m).job = some j → j.ctx = ctx → j.started = true → ∃ st, (getSlot s m).stop = some st ∧ st.written = true) →
          t = finishCmd u 0 0)) ∧
      u.mem = s.mem ∧ u.contexts = s.contexts.map (fun c => if c.id = ctx then { c with halted := true } else c) ∧
      ∀ m, getSlot u m = if (getSlot s m).stop = none ∧ ∃ j, (getSlot s m).job = some j ∧ j.ctx = ctx ∧ j.started = true
        then { getSlot s m with stop := some ⟨.halt, none, false, false, none, false⟩ } else getSlot s m) ∧
    ∀ y st, ∀ e : EngId, Live s ctx y → Names core slot k → DebugOpen s → s.curCmd = none → Stopped s k st → st.why = .halt → RunsJobOf s k ctx →
      let i : Instr := .stepStream ctx core slot (.ofNat 3 e.val)
      let running := setSlot s k { ((getSlot s k).restored (recordWord s k)).stepFrom e with stop := none }
      (streamOver (getSlot s k) e = true → Answers i s 0 2 s) ∧
      (streamOver (getSlot s k) e = false → RecordClean s k → ∀ t bs w, MayIssue running k e → Fetches { running with cur := ⟨k, e⟩ } k e t bs →
        decodeBytes bs = some w → ∃ u v, exec w { t with fresh := t.fresh + 1 } = .next u ∧ exec (.handlerEntry k) u = .next v ∧
        let x := getSlot v k
        let again : Stop := ⟨.halt, none, false, false, some (if x.checker = (getSlot running k).checker then 0 else x.checker), false⟩
        let y : Slot := { x with stop := some again }
        ((x.stop = none ∨ ∃ st, x.stop = some st ∧ st.why = .halt) →
          (y.atStop = true → ∃ (r : Word) (z : State), Answers i s 0 r z ∧ (r = 0 ∨ r = 1) ∧ (r = 1 ↔ waitingWord v k e ≠ none ∧ x.await = none) ∧
            (∀ m, m ≠ k → getSlot z m = getSlot v m) ∧ getSlot z k = { y with stop := some { again with written := true } }) ∧
          (y.atStop = false → exec i s = .next (deferCmd (setSlot v k y) i))) ∧
        ∀ st, x.stop = some st → st.why ≠ .halt → st.step = none → Answers i s 0 0 v)

namespace Sys2Proof.Claim
open Sys2Proof.Machine

/-- The host registers after a write to W0 (R369, R370) that sets one and does nothing else; none where nothing changes. -/
def w0Row (h : HostRegs) (o : Nat) (v : Word) : Option HostRegs :=
  let once (bit : Nat) (g : HostRegs) : Option HostRegs :=
    if h.mode = 2 ∧ h.rwOnce.getLsbD bit = false then some { g with rwOnce := h.rwOnce ||| 1 <<< bit } else none
  match o with
  | 0x28 => if h.mode = 1 then some { h with faccept0 := v } else none
  | 0x30 => if h.mode = 1 then some { h with faccept1 := v } else none
  | 0x40 => once 0 { h with rtbase := v }
  | 0x48 => once 1 { h with pqbase := v }
  | 0x60 => once 2 { h with fqbase := v }
  | 0x68 => once 3 { h with fqsize := v }
  | 0x70 => some { h with fqhead := v }
  | 0x90 => some { h with err := h.err &&& ~~~(v.setWidth 5) }
  | 0x500 => some { h with fwlen := v }
  | _ => none

/-- A wide register after a write to its word j of n. -/
def Widened {w : Nat} (old new : BitVec w) (n j : Nat) (v : Word) : Prop :=
  ∀ m, m < n → new.extractLsb' (64 * m) 64 = if m = j then v else old.extractLsb' (64 * m) 64
/-- A request of the host stays until the supply recovers, or the link on its way has retrained: it has no effect, and is kept. -/
def IsHeld (s : State) (i : Instr) : Prop :=
  exec i s = .next s ∧
  ∀ rest, s.agenda = .event i :: rest → step s = .next { s with agenda := rest, curCmd := none, held := s.held ++ [i] }
/-- A link that is down holds up the host's access to an address (R377); none does during a start or in recovery mode. -/
def Stuck (s : State) (a : Nat) : Prop :=
  s.host.starting = false ∧ s.host.mode ≠ 3 ∧ isLpddr s a = true ∧ ¬ Linked s 0 (homeOf a)
/-- An access of the host through W2 that reaches nothing (R367, R368). -/
def Unreached (s : State) (r : Option Nat) : State :=
  { s with host := { s.host with
    err := s.host.err ||| 1, msix := s.host.msix ||| 4, w2Data := match r with | some n => List.replicate n 0xFF | none => s.host.w2Data } }
/-- The state in which the waiting word of a slot's control stream is taken again, with what the host has answered. -/
def answered (s : State) (k : SlotId) (pa : Nat) (r : Option Bytes) : State :=
  { setSlot s k { getSlot s k with await := none, reply := some (.bytes pa r) } with cur := ⟨k, 0⟩ }
/-- An event is the waiting word i taken again in u. -/
def Retakes (e : Instr) (s : State) (i : Instr) (u : State) : Prop := ∃ t, exec e s = .next t ∧ exec i u = .next t
/-- The slot is the first of which a property holds. -/
def First (p : SlotId → Prop) (k : SlotId) : Prop := p k ∧ ∀ j : SlotId, j.val < k.val → ¬ p j
/-- A slot's load waits for n bytes of host memory at an address. -/
def Reads (s : State) (pa n : Nat) (k : SlotId) : Prop := ∃ va, (getSlot s k).await = some (.hostRead va pa n)

end Sys2Proof.Claim

open Sys2Proof Sys2Proof.Machine Sys2Proof.Claim

/-- The host port (R108, R126, R365, R367 to R370, R372, R377, R379, R380, R383, R391). A write to W0 sets the register that R369 names
under R370's conditions, or does what its row says: CTRL, ATTGO, DBGRESP, FWGO. An access of W2 reads or writes LPDDR-6, or the staging
buffer in recovery; elsewhere a read gives ones, a write is dropped, and ERR.W2 is set with vector 2. An AtomicOp is performed whole; a
128-bit CAS is no request that the port serves. A completion of a device read stores its data, and the word that waits for it is taken
again with them, or with poison where the completion failed; that of a host atomic takes its word again with the old value, or with the
placement fault. A tail write sets TAIL, and ERR.QBROKEN where R372 says. A T1 frame is appended, answered, dropped or counted, and a
frame whose commands have completed is replied to. TIME follows the grandmaster and never goes backward. A request that comes in a supply
pause, or that a link holds up, is kept for later, and T1 frames of a pause are dropped. (The model's choices: which of several words that
await the same bytes goes first is log entry 1; that host accesses are in the order of the steps is log entry 6; what a W2 access to
poisoned bytes does is log entry 38; the waits for a link are log entry 55; frames are log entry 57, and failed completions log entry
65; AtomicOps rest on log entry 73, and TIME on log entry 40.) -/
def Obligations.HostPortFollowsTheRules : Prop :=
  ∀ (s : State), let h := s.host
    -- what waits for the supply or for a link
    (s.paused = true →
      (∀ off v wr addr n data op wide x y q tail resp chal,
        ∀ i ∈ ([.w0Write off v, .hostW2 wr addr n data, .hostAtomicOp op wide addr x y, .queueTailWrite q tail, .ctrlRst, .ctrlGo, .attgo,
          .dbgResp resp chal, .fwgo] : List Instr), IsHeld s i) ∧
      ∀ port etype queue seq es, exec (.t1Frame port etype queue seq es) s = .next s) ∧
    (∀ wr addr n data op wide x y, Stuck s (BitVec.toNat addr) →
      ∀ i ∈ ([.hostW2 wr addr n data, .hostAtomicOp op wide addr x y] : List Instr), IsHeld s i) ∧
    (∀ q tail r, readRing s (BitVec.toNat q) = some r → ¬ Linked s 0 (homeOf r.header) → IsHeld s (.queueTailWrite q tail)) ∧
    -- time, which a supply pause leaves
    (∀ port ns, let g : HostRegs := { h with tsync := true, tport := port, tcorr := (ns - s.time).setWidth 32 }
      exec (.ptpSync port ns) s = .next (if s.time.toNat ≤ ns.toNat then { s with host := g, time := ns, slew := 0 }
        else { s with host := g, slew := s.time.toNat - ns.toNat })) ∧
    -- completions of the device's own requests
    (∀ pa n data, n = List.length data →
      (pa < 2 ^ 43 ∨ 2 ^ 44 < pa + n → ∀ ok, exec (.hostReadCompletion pa ok data) s = .next s) ∧
      (MemoryCanonical s → 2 ^ 43 ≤ pa → pa < 2 ^ 44 → pa + n ≤ 2 ^ 44 → ∃ u, OnlyMemory s u ∧ Wrote s u pa n (fun j => data.getD j 0) ∧
        ((∀ k, ¬ Reads s pa n k) → exec (.hostReadCompletion pa true data) s = .next u) ∧
        ∀ k i, First (Reads s pa n) k → (getSlot s k).wait = some i → encode i ≠ none →
          Retakes (.hostReadCompletion pa true data) s i (answered u k pa (some data))) ∧
      (2 ^ 43 ≤ pa → pa < 2 ^ 44 → pa + n ≤ 2 ^ 44 →
        ((∀ k m, ¬ Reads s pa m k) → exec (.hostReadCompletion pa false data) s = .next s) ∧
        ∀ k i, First (fun k => ∃ m, Reads s pa m k) k → (getSlot s k).wait = some i → encode i ≠ none →
          Retakes (.hostReadCompletion pa false data) s i (answered s k pa none)) ∧
      ((∀ k, ¬ Reads s pa n k) → exec (.completionTimeout pa n) s = .next s) ∧
      ∀ k i, First (Reads s pa n) k → (getSlot s k).wait = some i → encode i ≠ none →
        Retakes (.completionTimeout pa n) s i (answered s k pa none)) ∧
    (∀ (ok : Bool) old, let Atomic (k : SlotId) : Prop := ∃ va pa n, (getSlot s k).await = some (.hostAtomic va pa n)
      ((∀ k, ¬ Atomic k) → exec (.hostAtomicOpCompletion ok old) s = .next s) ∧
      ∀ k va pa n i, First Atomic k → (getSlot s k).await = some (.hostAtomic va pa n) → (getSlot s k).wait = some i → encode i ≠ none →
        (ok = false → Retakes (.hostAtomicOpCompletion ok old) s i (answered s k pa none)) ∧
        (ok = true → ∃ bs, bs.length = min n 8 ∧ (∀ j, j < bs.length → bs.getD j 0 = .ofNat 8 (old.toNat / 256 ^ j)) ∧
          Retakes (.hostAtomicOpCompletion ok old) s i (answered s k pa (some bs)))) ∧
    -- replies of T1
    (∀ port f pre post ws, s.t1Frames = pre ++ f :: post → f.port = port → (∀ g ∈ pre, g.port = port → frameStatus s g = none) →
      frameStatus s f = some ws →
      exec (.t1Reply port) s = .next { s with t1Frames := pre ++ post, t1Out := s.t1Out ++ [(port, f.seq, ws)] }) ∧
    (∀ port, (∀ g ∈ s.t1Frames, g.port = port → frameStatus s g = none) → exec (.t1Reply port) s = .next s) ∧
    (∀ f r, f.now = none → readRing s f.queue = some r →
      let past := (r.head + 2 ^ 32 - f.first) % 2 ^ 32
      frameStatus s f = if f.count ≤ past ∧ past < 2 ^ 31 then
        some ((List.range f.count).map (fun i => memAt s (r.entry (f.first + i) + 8))) else none) ∧
    (∀ f ws, f.now = some ws → frameStatus s f = some ws) ∧
    (s.paused = false →
    -- W0
    (∀ off v, let o := BitVec.toNat off
      (o ≠ 0x10 → o ≠ 0x170 → o ≠ 0x508 → (∀ j, j < 6 → o ≠ 0x140 + 8 * j) → (∀ j, j < 12 → o ≠ 0x240 + 8 * j) →
        exec (.w0Write off v) s = .next (match w0Row h o v with | some g => { s with host := g } | none => s)) ∧
      (∀ j, j < 6 → o = 0x140 + 8 * j → ∃ w, exec (.w0Write off v) s = .next { s with host := { h with anonce := w } } ∧ Widened h.anonce w 6 j v) ∧
      (∀ j, j < 12 → o = 0x240 + 8 * j → ∃ w, Widened h.response w 12 j v ∧
        (j ≠ 11 → exec (.w0Write off v) s = .next { s with host := { h with response := w } }) ∧
        (j = 11 → ∃ chal, exec (.w0Write off v) s = exec (.dbgResp w chal) { s with fresh := s.fresh + 1 })) ∧
      (o = 0x170 → exec (.w0Write off v) s = if v = 1 then exec .attgo s else .next s) ∧
      (o = 0x508 → exec (.w0Write off v) s = if v = 1 then exec .fwgo s else .next s) ∧
      (o = 0x10 → ∀ u, (if v.getLsbD 0 then exec .ctrlGo s else .next s) = .next u →
        exec (.w0Write off v) s = if v.getLsbD 1 then exec .ctrlRst u else .next u)) ∧
    -- W2
    (∀ addr n data, ∀ wr : Bool, 0 < n → ¬ Stuck s (BitVec.toNat addr) →
      let a := BitVec.toNat addr
      let inside := if h.mode = 3 then a + n ≤ 2 ^ 22 else isLpddr s a = true ∧ isLpddr s (a + n - 1) = true
      (¬ inside → exec (.hostW2 wr addr n data) s = .next (Unreached s (if wr then none else some n))) ∧
      (inside → h.mode ≠ 3 →
        exec (.hostW2 false addr n data) s = .next { s with host := { h with w2Data := (List.range n).map (fun j => cellGet s.mem (a + j)) } } ∧
        (MemoryCanonical s → data.length = n → ∃ t, exec (.hostW2 true addr n data) s = .next t ∧ OnlyMemory s t ∧
          Wrote s t a n (fun j => data.getD j 0))) ∧
      (inside → h.mode = 3 →
        exec (.hostW2 false addr n data) s =
          .next { s with host := { h with w2Data := (List.range n).map (fun j => cellGet h.staging (a + j)) } } ∧
        (Memory.wf h.staging = true → data.length = n → ∃ m, exec (.hostW2 true addr n data) s = .next { s with host := { h with staging := m } } ∧
          ∀ b, cellGet m b = if a ≤ b ∧ b < a + n then data.getD (b - a) 0 else cellGet h.staging b))) ∧
    (∀ op (wide : Bool) addr (x y : Word), ¬ Stuck s (BitVec.toNat addr) →
      let a := BitVec.toNat addr
      let n := if wide then 8 else 4
      let i : Instr := .hostAtomicOp op wide addr x y
      let at_ (b : Nat) : Byte := if h.mode = 3 then cellGet h.staging b else cellGet s.mem b
      let old := littleEndian n (fun j => at_ (a + j))
      let new := match op with
        | .fetchAdd => old + x.toNat
        | .swap => x.toNat
        | .cas => if old = y.toNat % 256 ^ n then x.toNat else old
        | .cas128 => old
      let g : HostRegs := { h with w2Data := (List.range n).map (fun j => at_ (a + j)) }
      let inside := if h.mode = 3 then a + n ≤ 2 ^ 22 else isLpddr s a = true
      (op = .cas128 → exec i s = .next { s with host := { h with w2Data := [] } }) ∧
      (op ≠ .cas128 → a % n ≠ 0 → exec i s = .next s) ∧
      (op ≠ .cas128 → a % n = 0 →
        (¬ inside → exec i s = .next (Unreached s (some n))) ∧
        (inside → h.mode = 3 → Memory.wf h.staging = true → ∃ m, exec i s = .next { s with host := { g with staging := m } } ∧
          ∀ b, cellGet m b = if a ≤ b ∧ b < a + n then .ofNat 8 (new / 256 ^ (b - a)) else cellGet h.staging b) ∧
        (inside → h.mode ≠ 3 → (∃ j, j < n ∧ a + j ∈ s.poison) → exec i s = .next s) ∧
        (inside → h.mode ≠ 3 → MemoryCanonical s → (∀ j, j < n → a + j ∉ s.poison) → ∃ t, exec i s = .next t ∧ t.host = g ∧
          OnlyMemory { s with host := t.host } t ∧ Wrote s t a n (fun j => .ofNat 8 (new / 256 ^ j))))) ∧
    -- queues
    (∀ queue tail, readRing s (BitVec.toNat queue) = none → exec (.queueTailWrite queue tail) s = .next s) ∧
    (∀ queue tail r, readRing s (BitVec.toNat queue) = some r → MemoryCanonical s → Linked s 0 (homeOf r.header) →
      ∃ t, exec (.queueTailWrite queue tail) s = .next t ∧ Wrote s t (r.header + 24) 8 (fun j => .ofNat 8 (tail.toNat / 256 ^ j)) ∧
        OnlyMemory { s with broken := t.broken, host := t.host } t ∧
        (∀ q, q ≠ queue.toNat → (q ∈ t.broken ↔ q ∈ s.broken)) ∧
        let far := r.size < (tail.toNat % 2 ^ 32 + 2 ^ 32 - r.head) % 2 ^ 32
        (queue.toNat ∈ t.broken ↔ far) ∧ t.host = (if far then { h with err := h.err ||| 2, msix := h.msix ||| 4 } else h)) ∧
    -- T1
    (∀ port etype queue seq es,
      let p : Fin 2 := if port then 1 else 0
      let n := List.length es
      let i : Instr := .t1Frame port etype queue seq es
      let s1 : State := { s with t1Seq := s.t1Seq.set p.val (some seq) p.isLt }
      let say (code : Nat) : Prop := exec i s = .next { s1 with t1Frames :=
        s.t1Frames ++ [⟨port, seq, queue.toNat, 0, n, some (List.replicate n (.ofNat 64 (256 + code)))⟩] }
      let on := h.mode = 2 ∧ feature s 6 = true
      let mine := etype = some h.etype
      let old := ∃ l, s.t1Seq[p] = some l ∧ seq.toNat ≤ l.toNat
      (¬ on → exec i s = .next s) ∧
      (on → etype = none → exec i s = .next { s with t1Drops := s.t1Drops.set p.val (s.t1Drops[p] + 1) p.isLt }) ∧
      (on → etype ≠ none → ¬ mine ∨ n = 0 ∨ 20 < n ∨ old → exec i s = .next s) ∧
      (on → mine → 0 < n → n ≤ 20 → ¬ old →
        (queue = 0 → Config.t1Privilege = false → say 2) ∧
        (queue ≠ 0 ∨ Config.t1Privilege = true → (readRing s queue.toNat = none → say 16) ∧ ∀ r, readRing s queue.toNat = some r →
          (r.size < r.count + n → say 15) ∧
          (r.count + n ≤ r.size → MemoryCanonical s → (∀ e ∈ es, e.length = 8) →
            (r.ring + 64 * r.size ≤ r.header ∨ r.header + 32 ≤ r.ring) → ∃ t, exec i s = .next t ∧ OnlyMemory { s1 with t1Frames := t.t1Frames } t ∧
            t.t1Frames = s.t1Frames ++ [⟨port, seq, queue.toNat, r.tail, n, none⟩] ∧
            memAt t (r.header + 24) = .ofNat 64 ((r.tail + n) % 2 ^ 32) ∧
            (∀ j m, j < n → m < 8 → memAt t (r.entry (r.tail + j) + 8 * m) = (es.getD j []).getD m 0) ∧
            ∀ b, (∀ j, j < n → ¬ (r.entry (r.tail + j) ≤ b ∧ b < r.entry (r.tail + j) + 64)) → ¬ (r.header + 24 ≤ b ∧ b < r.header + 32) →
              SameByte s t b)))))

namespace Sys2Proof.Claim
open Sys2Proof.Machine

/-- The state of t but for memory, the host registers, region node 0 and the fault queue: what a start leaves of the module. -/
def Cleared (s t : State) : Prop :=
  { t with mem := [], poison := [], host := HostRegs.reset, regions := [], fqWait := [] } =
    { State.reset with agenda := s.agenda, fresh := s.fresh, cur := s.cur, t1Out := s.t1Out, regions := [] }

/-- The host registers that no start keeps stand at their reset values; those that stand from start to start are FAILS, the alarm fuse,
whether the key store is zeroed, and the boot flash. -/
def keptRegs (h : HostRegs) : HostRegs :=
  { HostRegs.reset with fails := h.fails, alatch := h.alatch, keysZero := h.keysZero, flash := h.flash, active := h.active }

/-- A cold start has begun (R365, R381): nothing of the device's memory survives. -/
def ColdBegins (s t : State) : Prop :=
  Cleared s t ∧ t.regions = [(0, Region.root)] ∧ t.fqWait = [] ∧ t.host = keptRegs s.host ∧
  (MemoryCanonical s → ∀ b, cellGet t.mem b = if hostBase ≤ b then cellGet s.mem b else 0) ∧
  ∀ b, b ∈ t.poison ↔ b ∈ s.poison ∧ hostBase ≤ b

/-- A warm start has begun (R369, R376, R382): memory survives, and region node 0, the links, the entries of the fault queue, the
interrupts raised, and the counters that reset at a cold start. -/
def WarmBegins (s t : State) : Prop :=
  Cleared s t ∧ t.regions = [(0, (findRegion s 0).getD Region.root)] ∧ t.fqWait = s.fqWait ∧ t.mem = s.mem ∧ t.poison = s.poison ∧
  t.host = { keptRegs s.host with
    warm := true, stretch := s.host.stretch, pauses := s.host.pauses, alarm := s.host.alarm, alarms := s.host.alarms,
    linkUp := s.host.linkUp, retrains := s.host.retrains, msix := s.host.msix }

/-- Recovery mode (R383): nothing runs, and nothing is offered or accepted. -/
def Recovers (s t : State) : Prop :=
  Cleared s t ∧ t.regions = [(0, Region.root)] ∧ t.fqWait = [] ∧ t.mem = s.mem ∧ t.poison = s.poison ∧
  t.host = { s.host with
    mode := 3, starting := false, retry := false, features := 0, foffer0 := 0, faccept0 := 0, faccept1 := 0
    rtbase := 0, pqbase := 0, fqbase := 0, fqsize := 0, rwOnce := 0, fqhead := 0, fqtail := 0 }

/-- A start has failed (R383): FAILS counts it, and the third leads to recovery. -/
def HasFailed (s t : State) : Prop :=
  let f : BitVec 8 := if s.host.fails = 255 then 255 else s.host.fails + 1
  (f.toNat < 3 → t = { s with host := { s.host with fails := f, retry := true } }) ∧
  (3 ≤ f.toNat → Recovers { s with host := { s.host with fails := f } } t)

/-- The checks of R384 on an image; where its parts lie is log entry 77. -/
def ImagePasses (img : Bytes) (n : Nat) : Prop :=
  let part (off len : Nat) : Bytes := (img.drop off).take len
  let hdr := part 0 64
  let le (off len : Nat) : Nat := littleEndian len (fun j => (part off len).getD j 0)
  match n with
  | 1 => Config.sha384 (part 64 96) = Config.keyFuse false
  | 2 => Config.sha384 (part 256 56) = Config.keyFuse true
  | 3 => Config.ecdsaOk (part 64 96) (part 160 96) hdr = true
  | 4 => Config.lmsOk (part 256 56) (part 312 2668) hdr = true
  | 5 => Config.sha384 (part 2980 (le 8 8)) = .ofNat 384 (le 16 48)
  | _ => Config.minVersion ≤ le 0 8
/-- The image verifies, or n is the first check that it fails. -/
def FirstFailed (img : Bytes) (n : Nat) : Prop :=
  (n = 0 ∧ ∀ m, 1 ≤ m → m ≤ 6 → ImagePasses img m) ∨
  (1 ≤ n ∧ n ≤ 6 ∧ ¬ ImagePasses img n ∧ ∀ m, 1 ≤ m → m < n → ImagePasses img m)
/-- The image of the active slot of the boot flash (R383). -/
def activeImage (h : HostRegs) : Bytes := (if h.active then h.flash.2 else h.flash.1).getD (Config.factoryImage h.active)

/-- The step at which a start stands fails (R381, R382): what the report says, except for step 7 and for the BIST that a warm start skips;
or an image that does not verify. -/
def Fails (h : HostRegs) (r : StartReport) : Prop :=
  (r.failStep = some h.step.toNat ∧ h.step ≠ 7 ∧ ¬ (h.warm = true ∧ h.step = 4)) ∨
  (h.step = 2 ∧ ∃ n, 1 ≤ n ∧ n ≤ 6 ∧ ¬ ImagePasses (activeImage h) n)

/-- One step of a start (R378, R381 to R384, R388, R390). -/
def Steps (s : State) (r : StartReport) (t : State) : Prop :=
  let h := s.host
  let n := h.step.toNat
  (Fails h r → HasFailed s t) ∧
  (¬ Fails h r →
    (n = 1 ∨ n = 3 ∨ n = 4 ∨ n = 5 → t = { s with host := { h with step := h.step + 1 } }) ∧
    (n = 2 → t = { s with host := { h with step := 3, meas := Config.sha384 ((activeImage h).take 64), etype := r.etype } }) ∧
    (n = 6 → ∃ v : Word, t = { s with host := { h with
        step := 7, linkUp := h.linkUp ||| (if r.secondPackage then 7 else 1), foffer0 := v } } ∧
      v.getLsbD 0 = r.secondPackage ∧ (∀ b, 1 ≤ b → b ≤ 5 → v.getLsbD b = true) ∧ v.getLsbD 6 = !h.keysZero ∧ v.getLsbD 7 = true ∧ v.toNat < 256) ∧
    (n = 7 → t = { s with dcc := 0, host := { h with step := 8 } }) ∧
    (n = 8 → (h.alatch = true → Recovers { s with host := { h with step := 9, starting := false, challenge := r.challenge } } t) ∧
      (h.alatch = false → t = { s with host := { h with step := 9, starting := false, challenge := r.challenge, mode := 1, fails := 0 } })))
/-- A start runs at most n steps, until it ends or fails. -/
def RunsTo (r : StartReport) : Nat → State → State → Prop
  | 0, s, t => t = s
  | n + 1, s, t =>
    if s.host.starting = true ∧ s.host.retry = false then ∃ u, Steps s r u ∧ RunsTo r n u t else t = s

/-- An alarm recorded (R390). -/
def logged (s : State) (src : BitVec 8) : State :=
  { s with host := { s.host with alarm := src, alarms := s.host.alarms + 1, err := s.host.err ||| 4, msix := s.host.msix ||| 4 } }
/-- An entry of the fault queue says that the job of a slot has ended with a fatal fault (R356, R359). -/
def EndsWith (s : State) (k : SlotId) (code : BitVec 8) (w : Word × Word) : Prop :=
  ∃ j, (getSlot s k).job = some j ∧ w.1.toNat = j.seq % 2 ^ 48 + j.ctx.toNat * 2 ^ 48 + 4 * 2 ^ 60 ∧
    w.2.toNat = code.toNat + k.val / 2 * 2 ^ 8 + k.val % 2 * 2 ^ 15
/-- n entries are posted, one after the other. -/
def Posts : Nat → State → State → Prop
  | 0, s, t => t = s
  | n + 1, s, t => ∃ u, exec .faultQueuePost s = .next u ∧ Posts n u t

/-- What the fused policy makes of an alarm (R390), up to the start that follows. -/
def Alarmed (src : BitVec 8) (s t : State) : Prop :=
  (Config.alarmPolicy = 0 → t = logged s src) ∧
  (Config.alarmPolicy = 1 →
    (s.host.starting = true → s.host.retry = true → t = logged s src) ∧
    (s.host.starting = true → s.host.retry = false → HasFailed (logged s src) t) ∧
    (s.host.starting = false → ∃ (u v : State) (ks : List SlotId) (ws : List (Word × Word)),
      (∀ k, k ∈ ks ↔ (getSlot s k).job ≠ none) ∧ ks.Nodup ∧ ws.length = ks.length ∧
      (∀ (n : Nat) (k : SlotId) (w : Word × Word), ks[n]? = some k → ws[n]? = some w → (∀ j, (getSlot s k).job = some j → j.seq < 2 ^ 48) → EndsWith s k 0x17 w) ∧
      u.fqWait = s.fqWait ++ ws ∧ u.host = (logged s src).host ∧ u.jobs = s.jobs ∧ u.contexts = s.contexts ∧
      (∀ k, (getSlot u k).job = none ∧ ((getSlot s k).job = none → getSlot u k = getSlot s k)) ∧
      Posts (s.fqWait ++ ws).length u v ∧ t = { v with agenda := s.agenda ++ [.event .ctrlRst] })) ∧
  (Config.alarmPolicy ≠ 0 → Config.alarmPolicy ≠ 1 →
    Recovers { s with host := { s.host with keysZero := true, alatch := true, asig := 0 } } t)

end Sys2Proof.Claim

open Sys2Proof Sys2Proof.Machine Sys2Proof.Claim

/-- Starts, supply, links, alarms and the start controller's registers (R29, R364, R365, R377, R378, R381 to R385, R387 to R390): which
event begins which start, what each step of a start does, what a start clears and keeps, when it fails, what GO latches, what a supply
pause stops and a recovery lets go on, what a link shows, and what an alarm, a quote, an unlock and a recovery update do. The fused policy,
the signatures and what a start finds are free values (log entries 5, 8); the parts of an image are log entry 77. (The model's choices:
registers that the spec gives no reset value are log entry 5, how TIME counts log
entry 40, what a record with an error does log entry 52, held requests and the wait
for a link log entry 55, links that take no part log entry 56, the alarm log entry 58, and what a warm start keeps log entry 76.) -/
def Obligations.StartsAndSupplyFollowTheRules : Prop :=
  ∀ (s : State) (r : StartReport), let h := s.host
    -- starts
    (h.starting = true → h.retry = false →
      (∃ t, exec (.coldStart r) s = .next t ∧ RunsTo r 8 s t) ∧ (∃ t, exec .startTimeout s = .next t ∧ HasFailed s t) ∧
      (s.agenda = [] → ∃ q u t, u = { s with time := u.time, slew := u.slew, fresh := u.fresh } ∧ step s = .next t ∧ Steps u q t)) ∧
    (h.starting = true → h.retry = true → s.agenda = [] →
      ∃ u t, u = { s with time := u.time, slew := u.slew, fresh := u.fresh } ∧ step s = .next t ∧ ColdBegins u t) ∧
    (h.starting = false → exec (.coldStart r) s = .next s ∧ exec .startTimeout s = .next s) ∧
    (h.retry = true → exec (.coldStart r) s = .next s ∧ exec .startTimeout s = .next s ∧
      ∃ u t, ColdBegins s u ∧ exec (.startRetry r) s = .next t ∧ Steps u r t) ∧
    (h.retry = false → exec (.startRetry r) s = .next s) ∧
    (h.starting = true → ∀ l, exec (.perst r) s = .next s ∧ (s.paused = false → exec .ctrlRst s = .next s) ∧
      exec (.linkRetrainTimeout l r) s = .next s) ∧
    (h.starting = false → ∃ u t, WarmBegins s u ∧ exec (.perst r) s = .next t ∧ Steps u r t) ∧
    (h.starting = false → s.paused = false → ∃ t, exec .ctrlRst s = .next t ∧ WarmBegins s t) ∧
    (s.paused = true → ∃ u t, ColdBegins s u ∧ exec (.pauseTimeout r) s = .next t ∧ Steps u r t) ∧
    (s.paused = false → exec (.pauseTimeout r) s = .next s ∧ exec .supplyRecover s = .next s ∧
      (h.mode = 1 → exec .ctrlGo s = .next { s with host := { h with features := h.faccept0 &&& h.foffer0, mode := 2, step := 10 } }) ∧
      (h.mode ≠ 1 → exec .ctrlGo s = .next s)) ∧
    -- supply
    (∀ n, exec (.clockStretch n) s = .next { s with host := { h with stretch := h.stretch + .ofNat 64 n } }) ∧
    (h.starting = true → (h.retry = true → exec .supplyPause s = .next s) ∧
      (h.retry = false → ∃ t, exec .supplyPause s = .next t ∧ HasFailed s t)) ∧
    (h.starting = false → s.paused = true → exec .supplyPause s = .next s) ∧
    (h.starting = false → s.paused = false → ∃ t, exec .supplyPause s = .next t ∧
      t = { s with paused := true, host := { h with pauses := h.pauses + 1 }, slots := t.slots } ∧
      ∀ k, getSlot t k = if (getSlot s k).stop = none ∧ ∃ j, (getSlot s k).job = some j ∧ j.started = true
        then { getSlot s k with stop := some ⟨.pause, none, false, false, none, false⟩ } else getSlot s k) ∧
    (s.paused = true → ∃ t, exec .supplyRecover s = .next t ∧ t.paused = false ∧ t.jobs = s.jobs ∧ t.contexts = s.contexts ∧ t.host = h ∧
      t.dcc = s.dcc ∧ t.held = [] ∧ t.agenda = s.held.map Move.event ++ s.agenda ∧
      ∀ k, let x := getSlot s k
        let y := getSlot t k
        let Alone := ∀ m, m ≠ k → ∀ st, (getSlot s m).stop = some st → st.why ≠ .pause
        (∀ st, x.stop = some st → st.why = .pause → st.written = false → y = { x with stop := none }) ∧
        ((∀ st, x.stop = some st → st.why ≠ .pause) → y = x) ∧
        (∀ st, x.stop = some st → st.why = .pause → st.written = true →
          (RecordClean s k → y.stop = none) ∧
          (Alone → MemoryCanonical s → RecordClean s k →
            y.pc = recordWord s k 5 ∧ y.tags = recordWord s k 17 ∧ (∀ g : Reg, g ≠ 0 → y.readS g = recordWord s k (32 + g.toNat)) ∧
            (∀ e : Fin 4, (y.engs[e]).held = false) ∧ (∀ c : Fin 2, (y.chans[c]).halt = none) ∧
            Wrote s t (saveAddr s k) 1 (fun _ => cellGet s.mem (saveAddr s k) &&& 0xFE)) ∧
          (Alone → ∀ b, b < 8192 → saveAddr s k + b ∈ s.poison → (∀ m, m < b → saveAddr s k + m ∉ s.poison) →
            (∀ j, x.job = some j → j.card.pnode = none) → ∃ f, y.stop = some ⟨.fault, some f, false, false, none, true⟩ ∧
              f.code = 0x13 ∧ f.val = .ofNat 64 (saveAddr s k + b)))) ∧
    -- links
    (∀ l : Fin 3,
      let used := l = 0 ∨ (if h.mode = 2 then feature s 0 = true else h.foffer0.getLsbD 0 = true)
      exec (.linkCrcRetry l) s = .next s ∧
      exec (.linkTrainingLost l) s = .next { s with host := { h with linkUp := h.linkUp &&& ~~~((1 : BitVec 3) <<< l.val) } } ∧
      (h.linkUp.getLsbD l.val = true ∨ ¬ used → exec (.linkRetrainTimeout l r) s = .next s) ∧
      (h.linkUp.getLsbD l.val = true → exec (.linkRetrained l) s = .next s) ∧
      (h.linkUp.getLsbD l.val = false →
        (∃ t, exec (.linkRetrained l) s = .next t ∧
          t = { s with host := { h with linkUp := h.linkUp ||| 1 <<< l.val, retrains := t.host.retrains }
                       held := if s.paused then s.held else []
                       agenda := if s.paused then s.agenda else s.held.map Move.event ++ s.agenda } ∧
          ∀ m : Fin 3, t.host.retrains[m] = if m = l ∧ h.retrains[l] ≠ 255 then h.retrains[l] + 1 else h.retrains[m]) ∧
        (h.starting = false → used → ∃ u t, WarmBegins s u ∧ exec (.linkRetrainTimeout l r) s = .next t ∧
          Steps { u with host := { u.host with err := 8, msix := u.host.msix ||| 4 } } r t))) ∧
    -- alarms
    (∀ src, (1 ≤ src.toNat ∧ src.toNat ≤ 4 → ∃ t, exec (.alarm src r) s = .next t ∧ Alarmed src s t) ∧
      (¬ (1 ≤ src.toNat ∧ src.toNat ≤ 4) → exec (.alarm src r) s = .next s)) ∧
    -- attestation, debug unlock, recovery update
    (s.paused = false →
    exec .attgo s = .next { s with host := { h with asig := if h.keysZero then 0 else Config.quote h.meas h.anonce h.features 0 } } ∧
    (∀ resp chal,
      let g : HostRegs := { h with challenge := chal, badResponses := h.badResponses + 1, response := resp }
      (Config.debugSigned h.challenge resp = true →
        exec (.dbgResp resp chal) s = .next { s with host := { h with unlocked := true, badResponses := 0, challenge := chal, response := resp } }) ∧
      (Config.debugSigned h.challenge resp = false → h.badResponses ≠ 4 → exec (.dbgResp resp chal) s = .next { s with host := g }) ∧
      (Config.debugSigned h.challenge resp = false → h.badResponses = 4 →
        ∃ t, exec (.dbgResp resp chal) s = .next t ∧ Alarmed 5 { s with host := g } t)) ∧
    (h.mode ≠ 3 → exec .fwgo s = .next s) ∧
    (h.mode = 3 → ∃ n,
      let img := (List.range (min h.fwlen.toNat (2 ^ 22))).map (cellGet h.staging)
      let g : HostRegs := { h with fwstat := Config.checkCode n, badImages := h.badImages + 1 }
      FirstFailed img n ∧
      (n = 0 → ∃ t, exec .fwgo s = .next t ∧ ColdBegins { s with host := { h with
        fails := 0, flash := if h.active then (some img, h.flash.2) else (h.flash.1, some img), active := !h.active } } t) ∧
      (n ≠ 0 → h.badImages ≠ 2 → exec .fwgo s = .next { s with host := g }) ∧
      (n ≠ 0 → h.badImages = 2 → ∃ t, exec .fwgo s = .next t ∧ Alarmed 6 { s with host := g } t)))

namespace Sys2Proof.Claim
open Sys2Proof.Machine

/-- Orders 1 to 4 of R282 hold of a queued job whose context is served (R360, R362, R365). -/
def MayBeAdmitted (s : State) (j : Job) : Prop :=
  served s j.ctx = true ∧
  (∀ k ∈ liveJobs s j.ctx, k.queue = j.queue → k.seq < j.seq →
    k.admitted = true ∧ k.card.carry = 0 ∧
    ∀ a ∈ k.foot, ∀ b ∈ j.foot, (a.kind = 0 ∧ b.kind = 0) ∨ ∀ c, ¬ (a.base ≤ c ∧ c < a.base + a.len ∧ b.base ≤ c ∧ c < b.base + b.len)) ∧
  ∀ n ∈ j.after, ∀ k ∈ liveJobs s j.ctx, k.seq ≠ n
/-- Order 5 of R282 for one entry. -/
def Written (y : Context) (t : TileName) : Prop :=
  ∃ r : Layout, tableGet y.layouts t.handle = some r ∧ coordsOk r t.coords = true ∧ t.gen = Layout.gen r
/-- Order 6 of R282 for one entry (R285). -/
def Ready (s : State) (y : Context) (c : Ctx) (t : TileName) : Prop :=
  (∃ e ∈ s.ready, e.ctx = c ∧ e.tile = t) ∨ ∃ r : Layout, tableGet y.layouts t.handle = some r ∧ Layout.tcount r ≤ tileCount s c t.handle t.gen
/-- A queued job meets orders 1 to 7 of R282, or fails at order 5 or 7 and is admitted with that fault. -/
def Passes (s : State) (j : Job) (f : Option FCode) : Prop :=
  ∃ y, findCtx s j.ctx = some y ∧ MayBeAdmitted s j ∧
    (((∀ t ∈ j.waits, Written y t) ∧ (∀ t ∈ j.waits, Ready s y j.ctx t) ∧ f = j.conflict.map fun n => (0x09, .ofNat 64 n)) ∨
      ∃ pre t post, j.waits = pre ++ t :: post ∧ (∀ u ∈ pre, Written y u) ∧ ¬ Written y t ∧
        f = some (if ∃ r : Layout, tableGet y.layouts t.handle = some r ∧ coordsOk r t.coords = true then 0x0A else 0x07,
          .ofNat 64 (t.handle + t.gen * 2 ^ 16)))

/-- A job's effective priority (R41); a priority is at most 7. -/
def prioOf (s : State) (j : Job) : Nat :=
  match findCtx s j.ctx with
  | some y => Min.min 7 (if j.card.prio = 0 then effPrio s y.node else Min.min j.card.prio (effPrio s y.node))
  | none => 3
/-- The order of R284: one job goes before another. Queues have four bits and sequence numbers 48 (R37). -/
def Goes (s : State) (i j : Job) : Prop :=
  prioOf s j < prioOf s i ∨ (prioOf s j = prioOf s i ∧ (i.ctx.toNat < j.ctx.toNat ∨ (i.ctx = j.ctx ∧
    (i.queue % 16 < j.queue % 16 ∨ (i.queue % 16 = j.queue % 16 ∧ i.seq % 2 ^ 48 < j.seq % 2 ^ 48)))))

/-! Dispatch traces (R296 to R298). -/

/-- CNT, NEXT and an entry of a node's trace. -/
def traceCnt (s : State) (n : Nat) : Nat := (memAt s (effTrbase s n)).toNat % 2 ^ 48
def traceNext (s : State) (n : Nat) : Nat := (memAt s (effTrbase s n + 8)).toNat % 2 ^ 48
def traceWord (s : State) (n w : Nat) : Nat := (memAt s (effTrbase s n + 64 + 16 * traceNext s n + 8 * w)).toNat
/-- The entry at NEXT names a job. -/
def NamedBy (s : State) (n : Nat) (j : Job) : Prop :=
  traceWord s n 0 = j.seq + j.ctx.toNat * 2 ^ 48 + j.queue * 2 ^ 60 ∧ j.seq < 2 ^ 48
/-- The slot that the entry at NEXT names can take part, and the job's granules fit there (R91). -/
def CanTake (s : State) (n : Nat) (j : Job) (k : SlotId) : Prop :=
  k.val = 2 * (traceWord s n 1 % 2 ^ 7) + traceWord s n 1 / 2 ^ 7 % 2 ∧ dieLive s (k.val / 48) = true ∧ pwSum j.card.partw ≤ 256
/-- The trace lets no job of its subtree go on in order: it is at its end; or the job that it names has entered its queue and is not
admissible, or has left it. -/
def Ends (s : State) (n : Nat) (j : Job) : Prop :=
  traceNext s n = traceCnt s n ∨ (¬ NamedBy s n j ∧
    ((∃ m ∈ s.jobs, NamedBy s n m ∧ m.admitted = false ∧ ¬ ∃ f, Passes s m f) ∨
      ((∀ m ∈ s.jobs, ¬ NamedBy s n m) ∧ ∃ y, findCtx s (.ofNat 12 (traceWord s n 0 / 2 ^ 48)) = some y ∧
        1 ≤ traceWord s n 0 % 2 ^ 48 ∧ traceWord s n 0 % 2 ^ 48 < y.nextSeq ∧
        ∀ m ∈ s.jobs, ¬ (m.ctx = y.id ∧ m.seq = traceWord s n 0 % 2 ^ 48))))
/-- The trace holds a job back until the job that it names has been admitted. -/
def HoldsBack (s : State) (n : Nat) (j : Job) : Prop := ¬ Ends s n j ∧ ¬ NamedBy s n j
/-- The trace names the job for a slot, with its CSUM. -/
def NamesFor (s : State) (n : Nat) (j : Job) (k : SlotId) : Prop :=
  traceNext s n ≠ traceCnt s n ∧ NamedBy s n j ∧ CanTake s n j k ∧ j.sig0.toNat % 2 ^ 32 = traceWord s n 1 / 2 ^ 32
/-- The trace diverges at the job that it names (R298): it can take no such slot, or its CSUM differs. -/
def Diverges (s : State) (n : Nat) (j : Job) : Prop :=
  traceNext s n ≠ traceCnt s n ∧ NamedBy s n j ∧ ∀ k, ¬ NamesFor s n j k

/-- A job may leave its queue at a decision in which some traces have already raised their fault (R298). -/
def MayLeave (s : State) (stuck : List Nat) (j : Job) : Prop :=
  (∃ f, Passes s j f) ∧ (∀ n ∈ replayNodes s j.ctx, ¬ HoldsBack s n j) ∧
  ¬ ((∃ n ∈ replayNodes s j.ctx, Ends s n j) ∧ ∃ n ∈ replayNodes s j.ctx, n ∈ stuck)

/-- Each node records an admission in its trace's next entry, where one is free; else it sets OVF (R297). -/
def Recorded : List Nat → State → List (Nat × Nat) → State → Prop
  | [], s, l, t => l = [] ∧ t = s
  | n :: ns, s, l, t =>
    let i := (tableGet s.traceNo n).getD 0
    let a := effTrbase s n
    (64 + 16 * (i + 1) ≤ effTrsize s n → ∃ l' u, l = (n, i) :: l' ∧ Recorded ns u l' t ∧ { u with traceNo := s.traceNo } = s ∧
      tableGet u.traceNo n = some (i + 1) ∧ ∀ m, m ≠ n → tableGet u.traceNo m = tableGet s.traceNo m) ∧
    (effTrsize s n < 64 + 16 * (i + 1) → ∃ u, Recorded ns u l t ∧ OnlyMemory s u ∧
      (MemoryCanonical s → (∀ b, ¬ (a ≤ b ∧ b < a + 8) → SameByte s u b) ∧ (paOk s a = true → memAt u a = memAt s a ||| 0x8000_0000_0000_0000)))

/-- A job is admitted (R46, R127, R128, R282, R297, R298): it takes its queue's carry set, its fault if it has one, and the slots that
traces name for it; and it is to see what the edges to it order. -/
def Admitted (s : State) (j : Job) (t : State) : Prop :=
  ∃ (u : State) (y : Context) (x : Job) (fault : Option FCode), findCtx s j.ctx = some y ∧
    { x with admitted := j.admitted, admitNo := j.admitNo, startFault := j.startFault, traceSlot := j.traceSlot, carried := j.carried,
             traceAt := j.traceAt, edge := j.edge, era := j.era } = j ∧
    Recorded (recordNodes s j.ctx) s x.traceAt u ∧
    t = { u with admitNo := s.admitNo + 1, jobs := s.jobs.map fun k => if k.ctx = j.ctx ∧ k.seq = j.seq then
      { k with admitted := true, admitNo := s.admitNo, startFault := x.startFault, traceSlot := x.traceSlot, carried := x.carried,
               traceAt := x.traceAt, edge := k.edge.join (admissionEdge s j), era := x.era } else k } ∧
    x.carried = (tableGet y.carry j.queue).getD [] ∧ x.edge = j.edge.join (admissionEdge s j) ∧ Passes s j fault ∧
    -- orders 5 and 7 come before a divergence, except at a trace that cannot go on
    ((∀ n ∈ replayNodes s j.ctx, ∃ k, NamesFor s n j k) → x.startFault = fault ∧
      ∀ k, k ∈ x.traceSlot ↔ ∃ n ∈ replayNodes s j.ctx, NamesFor s n j k) ∧
    ((∃ n ∈ replayNodes s j.ctx, Ends s n j) → ∃ n ∈ replayNodes s j.ctx, x.startFault = some (0x14, .ofNat 64 (traceNext s n))) ∧
    ((∀ n ∈ replayNodes s j.ctx, ¬ Ends s n j) → (∃ n ∈ replayNodes s j.ctx, Diverges s n j) →
      (∀ f, fault = some f → x.startFault = some f) ∧
      (fault = none → ∃ n ∈ replayNodes s j.ctx, x.startFault = some (0x14, .ofNat 64 (traceNext s n))))
/-- What an admission orders (R127, R128): a job sees what the retirements before it, in its queue or by its after-list, and the RDYSETs
of its tiles order. -/
def AdmissionOrders (s : State) (j : Job) : Prop :=
  ∀ y, findCtx s j.ctx = some y →
    (∀ e ∈ y.edges, (e.seq ∈ j.after ∨ (e.queue = j.queue ∧ conflicts false e.foot j.foot ≠ [])) →
      ∀ p ∈ e.made, p.2 < (admissionEdge s j).at p.1) ∧
    (∀ e ∈ s.ready, e.ctx = j.ctx → e.tile ∈ j.waits → Sees e.edge (admissionEdge s j)) ∧
    ∀ t ∈ j.waits, ∀ e (r : Layout), findCount s j.ctx t.handle t.gen = some e → tableGet y.layouts t.handle = some r → r.tcount ≤ e.count →
      Sees e.edge (admissionEdge s j)

/-- A decision (R282, R284, R298, R308): one after the other, the first job of those that may leave is admitted, or dropped where its hood
word is no longer good. -/
def Decides : Nat → List Nat → State → State → Prop
  | 0, _, s, t => t = s
  | fuel + 1, stuck, s, t =>
    ((∀ j ∈ s.jobs, j.admitted = false → ¬ MayLeave s stuck j) → t = s) ∧
    ((∃ j ∈ s.jobs, j.admitted = false ∧ MayLeave s stuck j) → ∃ j ∈ s.jobs, ∃ (u : State) (stuck' : List Nat),
      j.admitted = false ∧ MayLeave s stuck j ∧ (∀ i ∈ s.jobs, i.admitted = false → MayLeave s stuck i → ¬ Goes s i j) ∧
      (∀ y, findCtx s j.ctx = some y →
        (hoodAdmits s y j = true → Admitted s j u) ∧
        (hoodAdmits s y j = false → { u with jobs := s.jobs } = s ∧ ∀ i, i ∈ u.jobs ↔ i ∈ s.jobs ∧ ¬ (i.ctx = j.ctx ∧ i.seq = j.seq))) ∧
      (∀ n, n ∈ stuck' ↔ n ∈ stuck ∨ (n ∈ replayNodes s j.ctx ∧ ∃ m ∈ replayNodes s j.ctx, Ends s m j)) ∧ Decides fuel stuck' u t)

/-- Admission (R282, R284, R285, R297, R298, R308). -/
def AdmissionRule (s : State) : Prop :=
  (∃ t, exec .admissionDecision s = .next t ∧ Decides s.jobs.length [] s t) ∧
  (∀ j, AdmissionOrders s j) ∧
  ∀ c n, (n ∈ recordNodes s c ↔ ∃ y, findCtx s c = some y ∧ n ∈ regionPath s y.node ∧ setsFlag s n 2 = true ∧ effFlag s n 3 = false) ∧
    (n ∈ replayNodes s c ↔ ∃ y, findCtx s c = some y ∧ n ∈ regionPath s y.node ∧ setsFlag s n 3 = true)

/-- The time that a window has: B + ALLOW - D. -/
def windowEnd (p : Plank) (w : Window) : Nat := p.begin_ + (w.allow - p.debt)
/-- The running window serves a context (R293). -/
def WindowFor (p : Plank) (w : Window) (c : Ctx) : Prop :=
  p.windows[p.cur]? = some w ∧
  if w.open_ = true then ∀ v ∈ p.windows, v.open_ = false → v.ctx ≠ c else w.ctx = c
/-- A plank has room for a job at DCC now (R294). -/
def HasRoom (p : Plank) (now : Nat) (j : Job) : Prop :=
  ∃ w, WindowFor p w j.ctx ∧ now < windowEnd p w ∧ now + j.card.cost.toNat ≤ windowEnd p w

/-- A slot qualifies for a job (R287): it runs none; the granules fit; every budget, the stage's allotment and the cluster's plank have
room; and a replayed trace names it. -/
def FitsIn (s : State) (j : Job) (k : SlotId) : Prop :=
  let x := getSlot s (otherSlot k)
  (getSlot s k).job = none ∧ dieLive s (k.val / 48) = true ∧
  pwSum j.card.partw + (match x.job with | some i => pwSum i.card.partw | none => if x.resident = none then 0 else pwCkg x.granules) ≤ 256 ∧
  (∃ y, findCtx s j.ctx = some y ∧ (∀ n ∈ regionPath s y.node, slotsRun s (dieOf k) n < effSlots s n (dieOf k)) ∧
    ∀ p i st, stageOf y j.queue = some (p, i) → p[i]? = some st → runningOf s j.ctx j.queue < st.allot) ∧
  (∀ p, s.planks.find? (fun p => p.cluster = clusterOf k) = some p → HasRoom p s.dcc.toNat j) ∧
  ∀ m ∈ j.traceSlot, m = k
/-- The class of a slot for a job (R288); that class 0 asks for checkpoint granules is log entry 18. -/
def classOf (s : State) (j : Job) (k : SlotId) : Nat :=
  let x := getSlot s k
  if x.resident = some j.ctx then (if pwCkg x.granules ≠ 0 ∧ pwCkg x.granules = pwCkg j.card.partw then 0 else 1)
  else if x.resident = none then 2 else 3
/-- A slot lies on the preferred die of a job (R27, R288). -/
def OnHome (s : State) (j : Job) (k : SlotId) : Prop :=
  ∃ f l w, j.foot = f :: l ∧ walk s (ctxL1 s j.ctx) (.ofNat 64 f.base) = .ok w ∧ paOk s w.leaf.pa = true ∧ homeOf w.leaf.pa = dieOf k
/-- The order of R288. -/
def Ahead (s : State) (j : Job) (m k : SlotId) : Prop :=
  classOf s j m < classOf s j k ∨ (classOf s j m = classOf s j k ∧
    ((OnHome s j m ∧ ¬ OnHome s j k) ∨ ((OnHome s j m ↔ OnHome s j k) ∧ m.val < k.val)))

/-- The first stage of a pipeline, in its order, that a relation puts before no other and behind none. -/
def Picked (p : List Stage) (ok : Stage → Prop) (above : Stage → Stage → Bool) (i : Nat) : Prop :=
  ∃ st, p[i]? = some st ∧ ok st ∧ ∀ j z, p[j]? = some z → ok z → above z st = false ∧ (j < i → above st z = true)
/-- The last stage of those that a relation puts no other behind. -/
def Given (p : List Stage) (ok : Stage → Prop) (above : Stage → Stage → Bool) (i : Nat) : Prop :=
  ∃ st, p[i]? = some st ∧ ok st ∧ ∀ j z, p[j]? = some z → ok z → above st z = false ∧ (i < j → above z st = true)
/-- Only the slot k and memory differ. -/
def OtherSlots (s t : State) (k : SlotId) : Prop := ∀ m, m ≠ k → getSlot t m = getSlot s m

/-- The entries of a job's traces are written for its slot, and each CNT counts (R296, R297). -/
def TracesWritten (j : Job) (k : SlotId) : List (Nat × Nat) → State → State → Prop
  | [], s, t => t = s
  | (n, i) :: l, s, t =>
    let a := effTrbase s n
    let e := a + 64 + 16 * i
    ∃ u, TracesWritten j k l u t ∧ OnlyMemory s u ∧
      (MemoryCanonical s → ∀ b, ¬ (a ≤ b ∧ b < a + 8) → ¬ (e ≤ b ∧ b < e + 16) → SameByte s u b) ∧
      (MemoryCanonical s → paOk s a = true → paOk s e = true → paOk s (e + 8) = true → j.seq < 2 ^ 48 → j.queue < 16 →
        memAt u e = .ofNat 64 (j.seq + j.ctx.toNat * 2 ^ 48 + j.queue * 2 ^ 60) ∧
        memAt u (e + 8) = .ofNat 64 (k.val / 2 + k.val % 2 * 2 ^ 7 + j.sig0.toNat % 2 ^ 32 * 2 ^ 32) ∧ memAt u a = memAt s a + 1)
/-- NEXT of each replayed trace advances by 1 (R298). -/
def TracesAdvance : List Nat → State → State → Prop
  | [], s, t => t = s
  | n :: l, s, t =>
    let a := effTrbase s n + 8
    ∃ u, TracesAdvance l u t ∧ OnlyMemory s u ∧ (MemoryCanonical s → ∀ b, ¬ (a ≤ b ∧ b < a + 8) → SameByte s u b) ∧
      (MemoryCanonical s → paOk s a = true → memAt u a = .ofNat 64 ((traceNext s n + 1) % 2 ^ 48))

/-- Placement (R287 to R289, R39, R92, R297, R298). -/
def PlacementRule (s : State) (k : SlotId) : Prop :=
  let x := getSlot s k
  let Waiting (i : Job) : Prop := i ∈ s.jobs ∧ i.admitted = true ∧ served s i.ctx = true
  (∀ j, Waiting j → FitsIn s j k → (∀ m, FitsIn s j m → m = k ∨ Ahead s j k m) →
    (∀ i, Waiting i → i ≠ j → (∃ m, FitsIn s i m) → Goes s j i) →
    ∃ u v t, exec .placement s = .next t ∧ OtherSlots s u k ∧ (getSlot u k).job = some j ∧ (getSlot u k).resident = some j.ctx ∧
      (getSlot u k).granules = j.card.partw ∧ u.mem = s.mem ∧ u.log = s.log ∧ u.contexts = s.contexts ∧ u.regions = s.regions ∧
      (∀ i, i ∈ u.jobs ↔ i ∈ s.jobs ∧ ¬ (i.ctx = j.ctx ∧ i.seq = j.seq)) ∧
      (∀ p, (∃ q ∈ u.planks, q = p) ↔ ∃ q ∈ s.planks, p = if q.cluster = clusterOf k then { q with jobs := q.jobs ++ [(j.ctx, j.seq)] } else q) ∧
      (x.resident ≠ some j.ctx → (getSlot u k).scratch = [] ∧ (getSlot u k).tiles = [] ∧ (getSlot u k).acc = [] ∧ (getSlot u k).ckpt = []) ∧
      (x.resident = some j.ctx → x.granules = j.card.partw →
        (getSlot u k).scratch = x.scratch ∧ (getSlot u k).tiles = x.tiles ∧ (getSlot u k).acc = x.acc ∧ (getSlot u k).ckpt = x.ckpt) ∧
      TracesWritten j k j.traceAt u v ∧ (j.traceSlot = [] → t = v) ∧ (j.traceSlot ≠ [] → TracesAdvance (replayNodes s j.ctx) v t)) ∧
  ((∀ j, Waiting j → ∀ m, ¬ FitsIn s j m) → exec .placement s = .next s)

/-- The start of a job (R44, R282). -/
def StartRule (s : State) (k : SlotId) : Prop :=
  let x := getSlot s k
  (∀ j y, x.job = some j → j.started = false → served s j.ctx = true → findCtx s j.ctx = some y → j.startFault = none →
    ∃ t, exec (.jobStart k) s = .next t ∧ OtherSlots s t k ∧ t.mem = s.mem ∧ t.jobs = s.jobs ∧
      let z := getSlot t k
      z.job = some { j with started := true, limit := j.card.cost.toNat * effOvr s y.node / 16 } ∧ z.pc = j.card.cpc ∧ z.preds = 1 ∧ z.fflags = 0 ∧ z.spoob = 0 ∧ z.tags = 0 ∧ z.fmtq = [] ∧
      z.frm = 0 ∧ z.partw = j.card.partw ∧ z.key = 0 ∧ z.ctr = 0 ∧ z.detctl = (effFlag s y.node 1 || j.card.det) ∧ z.sig = j.sig0 ∧
      z.jend = false ∧ z.hnd = false ∧ z.trapVec = 0 ∧ z.age = 256 ∧
      (∀ e : Fin 4, z.engs[e] = if j.card.engPc e = 0 then EngStream.reset else { EngStream.reset with started := true, pc := j.card.engPc e }) ∧
      (∀ g : Reg, (∀ c ∈ j.carried, c.reg ≠ g) → z.poisoned g = false ∧ z.isDead g = false ∧
        z.readS g = if g = 1 then j.card.init[0] else if g = 2 then j.card.init[1] else if g = 3 then j.card.init[2]
          else if g = 4 then j.card.init[3] else if g = 61 then j.card.addr else 0) ∧
      (∀ c ∈ j.carried, c.reg ≠ 0 → (∀ d ∈ j.carried, d.reg = c.reg → d = c) →
        z.readS c.reg = c.value ∧ z.poisoned c.reg = c.poison ∧ z.isDead c.reg = c.dead) ∧
      z.scratch = x.scratch ∧ z.tiles = x.tiles ∧ z.acc = x.acc ∧ z.ckpt = x.ckpt ∧ z.granules = x.granules) ∧
  (∀ j f y, x.job = some j → j.started = false → served s j.ctx = true → findCtx s j.ctx = some y → j.startFault = some f →
    ∃ u, (getSlot u k).job = some { j with started := true, limit := j.card.cost.toNat * effOvr s y.node / 16 } ∧ (getSlot u k).pc = j.card.cpc ∧ (∀ e : Fin 4, ((getSlot u k).engs[e]).started = false) ∧
      OtherSlots s u k ∧ u.mem = s.mem ∧ exec (.jobStart k) s = .next (takeFault u k ⟨f.1, f.2, 0, j.card.cpc, 0, none, none⟩)) ∧
  (∀ j, x.job = some j → j.started = true ∨ served s j.ctx = false → exec (.jobStart k) s = .next s)

/-- Retirement (R45, R46, R221, R375). -/
def RetireRule (s : State) (k : SlotId) : Prop :=
  let x := getSlot s k
  (∀ j y, x.job = some j → s.paused = false → findCtx s j.ctx = some y →
    let meets := j.started = true ∧ x.stop = none ∧ x.jend = true ∧ x.await = none ∧
      (∀ e : Fin 4, ((x.engs[e]).started = true → (x.engs[e]).arrived = true) ∧ (x.engs[e]).launches = []) ∧
      (∀ c : Fin 2, ¬ Busy x.chans[c] ∧ (x.chans[c]).halt = none) ∧ x.watch ≤ j.limit
    (¬ meets → exec (.jobRetire k) s = .next s) ∧
    (meets → MemoryCanonical s → paOk s y.status = true → paOk s (y.status + 8) = true → ∃ t, exec (.jobRetire k) s = .next t ∧ OtherSlots s t k ∧
      (getSlot t k).job = none ∧ (getSlot t k).resident = x.resident ∧ (getSlot t k).scratch = x.scratch ∧
      (∃ z, findCtx t j.ctx = some z ∧ { z with csig := y.csig, carry := y.carry, edges := y.edges } = y ∧ z.csig = y.csig + x.sig ∧
        (∀ p ∈ x.made, (∃ w ∈ s.log, w.id = p.2) → ∃ e ∈ z.edges, e.seq = j.seq ∧ e.queue = j.queue ∧ e.foot = j.foot ∧ p ∈ e.made) ∧
        ∃ l, tableGet z.carry j.queue = some l ∧ ∀ g : Reg, (∃ c ∈ l, c.reg = g) ↔ g ≠ 0 ∧ g ≠ 61 ∧ j.card.carry.getLsbD g.toNat = true) ∧
      memAt t y.status = memAt s y.status + 1 ∧ memAt t (y.status + 8) = y.csig + x.sig))

/-- One move of the allocator of a pipeline (R52); total is what all stages of the context are allotted. -/
def AllotMove (s : State) (y : Context) (total : Nat) (p q : List Stage) : Prop :=
  let occ (z : Stage) : Nat := queued s y.id z.queue
  let above (z w : Stage) : Bool := decide ((w.allot ≠ 0 ∧ z.allot = 0) ∨ (w.allot ≠ 0 ∧ z.allot ≠ 0 ∧ occ w * z.allot < occ z * w.allot))
  let takes (z : Stage) : Prop := z.allot < z.maxs ∧ 0 < occ z
  let gives (z : Stage) : Prop := z.mins < z.allot ∧ runningOf s y.id z.queue < z.allot
  ((∀ z ∈ p, ¬ takes z) → q = p) ∧
  ∀ i st, Picked p takes above i → p[i]? = some st →
    (total < slotBudget s y → q = p.set i { st with allot := st.allot + 1 }) ∧
    (slotBudget s y ≤ total →
      ((∀ z ∈ p, ¬ gives z) → q = p) ∧
      ∀ m dn, Given p gives above m → p[m]? = some dn →
        q = if above st dn = true then (p.set i { st with allot := st.allot + 1 }).set m { dn with allot := dn.allot - 1 } else p)
/-- The allocators of a context's pipelines, one after the other. -/
def Allots (s : State) (y : Context) : List (List Stage) → List (List Stage) → List (List Stage) → Prop
  | done, [], r => r = done
  | done, p :: rest, r =>
    ∃ q, AllotMove s y (((done ++ p :: rest).flatten).map Stage.allot).sum p q ∧ Allots s y (done ++ [q]) rest r
/-- The allocator of pipelines (R52). -/
def AllocatorRule (s : State) : Prop :=
  (s.paused = true ∨ s.dcc.toNat % 4096 ≠ 0 → exec .pipelineAllocator s = .next s) ∧
  (s.paused = false → s.dcc.toNat % 4096 = 0 → ∃ t : State, exec .pipelineAllocator s = .next t ∧ { t with contexts := s.contexts } = s ∧
    t.contexts.length = s.contexts.length ∧ ∀ (n : Nat) (y : Context), s.contexts[n]? = some y →
      ∃ r, t.contexts[n]? = some { y with pipes := r } ∧ Allots s y [] y.pipes r)

/-- A window ends at once (R293, R294): its context is not live, or its budget is 0 or less. -/
def WindowVoid (s : State) (p : Plank) : Prop :=
  ∀ w, p.windows[p.cur]? = some w → (w.open_ = false ∧ findCtx s w.ctx = none) ∨ w.allow ≤ p.debt
/-- A window has ended (R293, R294): none of its jobs runs, and its time has passed, none of its admitted jobs fits, or it ends at once. -/
def WindowEnded (s : State) (p : Plank) : Prop :=
  (∀ m j, (getSlot s m).job = some j → (j.ctx, j.seq) ∉ p.jobs) ∧
  (WindowVoid s p ∨ (∀ w, p.windows[p.cur]? = some w → windowEnd p w ≤ s.dcc.toNat) ∨
    ∀ j ∈ s.jobs, j.admitted = true → ¬ HasRoom p s.dcc.toNat j)
/-- The plank as a window's end leaves it (R293, R294): removed, replaced, or at its next window with the debt settled. -/
def NextWindow (s : State) (p : Plank) (q : Option Plank) : Prop :=
  (p.next = some [] → q = none) ∧
  (∀ v vs, p.next = some (v :: vs) → q = some ⟨p.cluster, v :: vs, 0, s.dcc.toNat, [], 0, 0, [], none⟩) ∧
  (p.next = none → ∀ w, p.windows[p.cur]? = some w → ∃ z, q = some z ∧
    { z with cur := p.cur, begin_ := p.begin_, debts := p.debts, openDebt := p.openDebt, lastEnd := p.lastEnd, jobs := p.jobs } = p ∧
    z.cur = (p.cur + 1) % p.windows.length ∧ z.begin_ = s.dcc.toNat ∧ z.jobs = [] ∧ z.lastEnd = 0 ∧
    let debt := p.debt + (p.lastEnd - windowEnd p w) - (windowEnd p w - s.dcc.toNat)
    if w.open_ = true then z.openDebt = debt ∧ z.debts = p.debts
    else tableGet z.debts w.ctx.toNat = some debt ∧ z.openDebt = p.openDebt ∧ ∀ c, c ≠ w.ctx.toNat → tableGet z.debts c = tableGet p.debts c)
/-- Windows that end at once make way in turn, at most n of them. -/
def Turns (s : State) : Nat → Plank → Option Plank → Prop
  | 0, p, q => q = some p
  | n + 1, p, q => ∃ z, NextWindow s p z ∧ (z = none → q = none) ∧
    ∀ r, z = some r → (WindowVoid s r → Turns s n r q) ∧ (¬ WindowVoid s r → q = some r)

/-- The end of a plank's window (R293, R294). -/
def PlankRule (s : State) : Prop :=
  (∀ p w, p ∈ s.planks → (∀ q ∈ s.planks, q.cluster = p.cluster → q = p) → p.windows[p.cur]? = some w →
    (s.paused = true ∨ ¬ WindowEnded s p → exec (.plankWindowEnd p.cluster) s = .next s) ∧
    (s.paused = false → WindowEnded s p → ∃ t q, exec (.plankWindowEnd p.cluster) s = .next t ∧ { t with planks := s.planks } = s ∧
      Turns s p.windows.length p q ∧ (∀ z, z.cluster ≠ p.cluster → (z ∈ t.planks ↔ z ∈ s.planks)) ∧
      ∀ z, z.cluster = p.cluster → (z ∈ t.planks ↔ q = some z)))

/-- A waiting word may be taken again (R182). -/
def MayRetest (s : State) (k : SlotId) (e : EngId) : Prop :=
  let x := getSlot s k
  s.paused = false ∧ (∃ j, x.job = some j ∧ j.started = true) ∧ x.stop = none ∧ (e = 0 → x.jend = false ∧ x.await = none) ∧
  ∀ p : Fin 4, e.val = p.val + 1 → (x.engs[p]).started = true ∧ (x.engs[p]).arrived = false ∧ (x.engs[p]).held = false
/-- The word at which a stream waits. -/
def WaitsAt (s : State) (k : SlotId) (e : EngId) (w : Option Instr) : Prop :=
  (e = 0 → (getSlot s k).wait = w) ∧ ∀ p : Fin 4, e.val = p.val + 1 → ((getSlot s k).engs[p]).wait = w

/-- The watchdog (R295, R361) and a waiting word (R182): taken again, it completes where its condition holds, and else waits on. -/
def StreamRule (s : State) (k : SlotId) : Prop :=
  let x := getSlot s k
  (∀ j, x.job = some j → j.started = true → x.stop = none → s.paused = false →
    (x.watch ≤ j.limit → exec (.segmentOverrun k) s = .next s) ∧
    (j.limit < x.watch → NotProvisional { s with cur := ⟨k, 0⟩ } → ∀ pc,
      (x.jend = false → pc = x.pc) →
      (let runs (e : Fin 4) : Prop := (x.engs[e]).started = true ∧ (x.engs[e]).arrived = false
       x.jend = true → ((∀ e, ¬ runs e) ∧ pc = x.pc) ∨ ∃ e : Fin 4, runs e ∧ (∀ i : Fin 4, i.val < e.val → ¬ runs i) ∧ pc = (x.engs[e]).pc) →
      ∃ t, exec (.segmentOverrun k) s = .next t ∧ OtherSlots s t k ∧
        getSlot t k = { x with stop := some ⟨.fault, some ⟨0x12, .ofNat 64 x.watch, 0, pc, 0, none, none⟩, false, false, none, true⟩ })) ∧
  (x.job = none ∨ x.stop ≠ none ∨ s.paused = true → exec (.segmentOverrun k) s = .next s) ∧
  (∀ e i, WaitsAt s k e (some i) → MayRetest s k e → encode i ≠ none → Retakes (.waitConditionMet k e) s i { s with cur := ⟨k, e⟩ }) ∧
  (∀ e, WaitsAt s k e none ∨ ¬ MayRetest s k e → exec (.waitConditionMet k e) s = .next s)

/-- Entering a handler for a pending fault (R350, R351, R353). -/
def HandlerRule (s : State) (k : SlotId) : Prop :=
  let x := getSlot s k
  (x.stop ≠ none ∨ x.await ≠ none ∨ x.job = none ∨ x.nextPending = none → exec (.handlerEntry k) s = .next s) ∧
  (∀ f, x.nextPending = some f → x.stop = none → x.await = none → x.job ≠ none →
    (HandlerReady x → ∃ y : Slot, y = x.dropPending f ∧ exec (.handlerEntry k) s = .next (setSlot s k { y with
      trapCause := causeWord f, trapVal := f.val, trapPc := if f.eng = 0 ∨ f.node.isSome = true then f.pc else x.pc, hnd := true, skip := false,
      dnode := f.node.getD 0, wait := none, pc := .ofNat 64 (x.trapVec.toNat / 8 % 2 ^ 45 * 8) })) ∧
    (x.hnd = true → x.jend = false → exec (.handlerEntry k) s = .next s) ∧
    ((x.hnd = false ∧ x.trapVec.getLsbD 0 = false) ∨ x.jend = true → ∃ t, exec (.handlerEntry k) s = .next t ∧ OtherSlots s t k ∧
      (getSlot t k).stop = some ⟨.fault, some f, false, false, none, false⟩)) ∧
  (∀ e : Fin 4, ∀ f, (∀ i : Fin 4, i.val < e.val → (x.engs[i]).pending = none) → (x.engs[e]).pending = some f →
    (e = 3 → ∀ c : Fin 2, (x.chans[c]).pending = none) → x.nextPending = some f)

/-- The stop points (R309, R354 to R356, R359); what an error in the record does is log entry 52. -/
def StopRule (s : State) (k : SlotId) : Prop :=
  let x := getSlot s k
  (x.job = none ∨ x.stop = none ∨ x.atStop = false → ∀ n, exec (.jobStopComplete k n) s = .next s) ∧
  (∀ j st n, x.job = some j → j.seq < 2 ^ 48 → x.stop = some st → x.atStop = true → draining s j.ctx = false →
    (st.why = .ending → ∃ t, exec (.jobStopComplete k n) s = .next t ∧ OtherSlots s t k ∧ (getSlot t k).job = none ∧ t.fqWait = s.fqWait) ∧
    (st.why ≠ .ending → st.fatal = false → st.written = true → exec (.jobStopComplete k n) s = .next s) ∧
    (st.why ≠ .ending → st.fatal = false → st.written = false → runningFactor (getEng s k 0) = none →
      (RecordClean s k → MemoryCanonical s →
        ∃ t, exec (.jobStopComplete k n) s = .next t ∧ OtherSlots s t k ∧ getSlot t k = { x with stop := some { st with written := true } } ∧
          (∀ b, b < saveAddr s k ∨ saveAddr s k + 8192 ≤ b → SameByte s t b) ∧
          (recordWord t k 0).getLsbD 0 = true ∧ recordWord t k 1 = .ofNat 64 (j.seq + j.ctx.toNat * 2 ^ 48) ∧ recordWord t k 2 = j.card.addr ∧
          recordWord t k 5 = x.pc ∧ recordWord t k 6 = x.poison ∧ recordWord t k 7 = x.dead ∧ recordWord t k 17 = x.tags ∧
          (∀ g : Reg, g ≠ 0 → recordWord t k (32 + g.toNat) = x.readS g) ∧
          (st.why = .pause ∨ st.step ≠ none ∧ st.why = .halt → t.fqWait = s.fqWait) ∧
          (st.why = .fault ∨ st.step = none ∧ st.why = .halt → ∃ e, t.fqWait = s.fqWait ++ [e] ∧
            e.1.toNat / 2 ^ 60 = (if st.why = .halt then 1 else 0) ∧ e.2.toNat / 2 ^ 8 % 2 ^ 7 = k.val / 2 ∧
            ∀ f, st.fault = some f → st.why = .fault → e.2.toNat % 2 ^ 8 = f.code.toNat)) ∧
      (∀ b, b < 8192 → saveAddr s k + b ∈ s.poison → (∀ m, m < b → saveAddr s k + m ∉ s.poison) →
        ∃ t, exec (.jobStopComplete k n) s = .next t ∧ OtherSlots s t k ∧ t.mem = s.mem ∧ t.fqWait = s.fqWait ∧
          (j.card.pnode = none → ∃ f, (getSlot t k).stop = some ⟨.fault, some f, false, false, none, true⟩ ∧ f.code = 0x13 ∧
            f.val = .ofNat 64 (saveAddr s k + b)) ∧
          (j.card.pnode ≠ none → (getSlot t k).stop.map Stop.why = some .ending)))) ∧
  (∀ j st f n, x.job = some j → j.seq < 2 ^ 48 → x.stop = some st → st.why ≠ .ending → st.fault = some f → st.fatal = true → x.atStop = true →
    draining s j.ctx = false → ∃ t, exec (.jobStopComplete k n) s = .next t ∧ OtherSlots s t k ∧ (getSlot t k).job = none ∧
      ∃ e, t.fqWait = s.fqWait ++ [e] ∧ e.1.toNat / 2 ^ 60 = 4 ∧ e.2.toNat % 2 ^ 8 = f.code.toNat)

/-- The drain of a domain (R355, R360). -/
def DrainRule (s : State) (k : SlotId) : Prop :=
  let x := getSlot s k
  (∀ j st f n, x.job = some j → j.seq < 2 ^ 48 → x.stop = some st → st.fault = some f → st.fatal = true → domainOf s x.ctx = some n →
    let inside (m : SlotId) : Prop := ∃ i, (getSlot s m).job = some i ∧ inSubtree s i.ctx n = true
    inside k →
    ((∀ m, inside m → (getSlot s m).atStop = true) → ∃ t, exec (.faultDomainDrain k) s = .next t ∧
      (∀ m, inside m → (getSlot t m).job = none ∧ (getSlot t m).scratch = [] ∧ (getSlot t m).tiles = [] ∧ (getSlot t m).acc = [] ∧
        (getSlot t m).ckpt = [] ∧ (getSlot t m).resident = (getSlot s m).resident) ∧
      (∀ m, ¬ inside m → getSlot t m = getSlot s m) ∧ (∀ i, i ∈ t.jobs ↔ i ∈ s.jobs ∧ inSubtree s i.ctx n = false) ∧
      (∀ c, inSubtree s c n = true → ∀ y, findCtx t c = some y → y.carry = []) ∧
      ∃ e, t.fqWait = s.fqWait ++ [e] ∧ e.1.toNat / 2 ^ 60 = 3 ∧ e.2.toNat % 2 ^ 8 = f.code.toNat) ∧
    ((∃ m, inside m ∧ (getSlot s m).atStop = false) → ∃ t, exec (.faultDomainDrain k) s = .next t ∧ t.jobs = s.jobs ∧ t.mem = s.mem ∧ t.fqWait = s.fqWait ∧
      ∀ m, (inside m → m ≠ k → (getSlot s m).stop = none → (getSlot t m).stop = some ⟨.ending, none, false, false, none, false⟩) ∧
        (¬ inside m ∨ m = k → getSlot t m = getSlot s m))) ∧
  (x.job = none ∨ x.stop = none ∨ (∀ st, x.stop = some st → st.fatal = false) ∨ domainOf s x.ctx = none →
    exec (.faultDomainDrain k) s = .next s)

/-- The fault queue (R376). -/
def FaultQueueRule (s : State) : Prop :=
  (s.fqWait = [] → exec .faultQueuePost s = .next s) ∧
  (∀ w0 w1 rest, s.fqWait = (w0, w1) :: rest →
    let h := s.host
    let at_ := h.fqbase.toNat + h.fqtail.toNat % h.fqsize.toNat * 16
    ((∀ n, 4 ≤ n → n ≤ 16 → h.fqsize.toNat ≠ 2 ^ n) → exec .faultQueuePost s = .next s) ∧
    (∀ n, 4 ≤ n → n ≤ 16 → h.fqsize.toNat = 2 ^ n →
      (2 ^ n ≤ (h.fqtail - h.fqhead).toNat % 2 ^ 32 → exec .faultQueuePost s =
        .next { s with host := { h with err := h.err ||| 0x10, msix := h.msix ||| 4 } }) ∧
      ((h.fqtail - h.fqhead).toNat % 2 ^ 32 < 2 ^ n → MemoryCanonical s → paOk s at_ = true → paOk s (at_ + 8) = true → ∃ t, exec .faultQueuePost s = .next t ∧
        OnlyMemory { s with host := t.host, fqWait := rest } t ∧
        t.host = { h with fqtail := .ofNat 64 ((h.fqtail.toNat + 1) % 2 ^ 32), msix := h.msix ||| 1 } ∧
        Wrote s t at_ 16 (fun i => if i < 8 then .ofNat 8 (w0.toNat / 256 ^ i) else .ofNat 8 (w1.toNat / 256 ^ (i - 8))))))

/-- Soft errors (R29, R30, R286): an error corrected is counted; one that is not poisons what it struck, or drops a tag, an entry of a
readiness table, of a TLB or of a walk cache, which is fetched again; code is fetched again. -/
def SoftErrorRule (s : State) (k : SlotId) : Prop :=
  let x := getSlot s k
  (∀ c e, ∀ target ∈ ([.icache c, .tlb c e, .walkCache c] : List SoftTarget), exec (.softError target false) s = .next s) ∧
  (∀ target, (∀ c e, target ∉ ([.icache c, .tlb c e, .walkCache c] : List SoftTarget)) →
    exec (.softError target false) s = .next { s with corrected := s.corrected + 1 }) ∧
  (∀ pa n, (isLpddr s pa && isLpddr s (pa + n - 1)) = true → ∃ t, exec (.softError (.memory pa n) true) s = .next t ∧ OnlyMemory s t ∧ t.mem = s.mem ∧
    ∀ b, b ∈ t.poison ↔ b ∈ s.poison ∨ (pa ≤ b ∧ b < pa + n)) ∧
  (∀ off n, off + n ≤ spSize x → ∃ y : Slot, exec (.softError (.pool k off n) true) s = .next (setSlot s k y) ∧ { y with spPoison := x.spPoison } = x ∧
    ∀ b, b ∈ y.spPoison ↔ b ∈ x.spPoison ∨ (off ≤ b ∧ b < off + n)) ∧
  (∀ off n, off + n ≤ pwCkg x.granules * 16384 → ∃ y : Slot, exec (.softError (.checkpoint k off n) true) s = .next (setSlot s k y) ∧
    { y with ckPoison := x.ckPoison } = x ∧ ∀ b, b ∈ y.ckPoison ↔ b ∈ x.ckPoison ∨ (off ≤ b ∧ b < off + n)) ∧
  (∀ off n, off + n ≤ pwRfg x.granules * 16384 → ∃ y : Slot, exec (.softError (.tileRegs k off n) true) s = .next (setSlot s k y) ∧
    { y with tilePoison := x.tilePoison } = x ∧ ∀ b, b ∈ y.tilePoison ↔ b ∈ x.tilePoison ∨ (off ≤ b ∧ b < off + n)) ∧
  (∀ off n, off + n ≤ pwAcg x.granules * 2048 → ∃ y : Slot, exec (.softError (.accTiles k off n) true) s = .next (setSlot s k y) ∧
    { y with accPoison := x.accPoison } = x ∧ ∀ b, b ∈ y.accPoison ↔ b ∈ x.accPoison ∨ (off ≤ b ∧ b < off + n)) ∧
  (∀ (c : Fin 2) (n : Nat) (v : Byte) (bad : Bool), (x.chans[c]).buffer = some (v, bad) → ∃ t, exec (.softError (.holdBuffer k n (some c)) true) s = .next t ∧
    OtherSlots s t k ∧ ((getSlot t k).chans[c]).buffer = some (v, true) ∧
    { getSlot t k with chans := x.chans } = x ∧ ∀ d : Fin 2, d ≠ c → (getSlot t k).chans[d] = x.chans[d]) ∧
  (∀ (n : Nat) (l : Launch) (v : Byte) (bad : Bool), (x.engs[(2 : Fin 4)]).launches[n]? = some l → l.buffer = some (v, bad) →
    ∃ t, exec (.softError (.holdBuffer k n none) true) s = .next t ∧ OtherSlots s t k ∧ { getSlot t k with engs := x.engs } = x ∧
      ((getSlot t k).engs[(2 : Fin 4)]).launches = (x.engs[(2 : Fin 4)]).launches.set n { l with buffer := some (v, true) } ∧
      ∀ e : Fin 4, e ≠ 2 → (getSlot t k).engs[e] = x.engs[e]) ∧
  (∀ pre l post off n, s.lines = pre ++ l :: post → ∃ z : TileLine, exec (.softError (.tileData l.die (pre.filter (fun m => m.die = l.die)).length off n) true) s =
    .next { s with lines := pre ++ z :: post } ∧ { z with bad := l.bad } = l ∧ ∀ b, b ∈ z.bad ↔ b ∈ l.bad ∨ (off ≤ b ∧ b < off + n)) ∧
  (∀ pre l post, s.lines = pre ++ l :: post → ∃ t, exec (.softError (.tileTag l.die (pre.filter (fun m => m.die = l.die)).length) true) s = .next t ∧
    { t with lines := s.lines, poison := s.poison } = s ∧ (∀ z, z ∈ t.lines ↔ z ∈ s.lines ∧ ¬ (z.ctx = l.ctx ∧ z.tile = l.tile)) ∧
    ∀ b, b ∈ t.poison ↔ b ∈ s.poison ∨ ∃ r ∈ l.runs, ∃ i, i < r.len ∧ b = r.pa + i ∧ l.dirty.getLsbD ((r.off + i) / 1024) = true) ∧
  (∀ pre e post, s.ready = pre ++ e :: post → exec (.softError (.readiness e.die (pre.filter (fun m => m.die = e.die)).length) true) s =
    .next { s with ready := pre ++ post }) ∧
  (∀ (c : Fin 96) (e : EngId), ∃ t, exec (.softError (.tlb c e) true) s = .next t ∧ t = { s with cores := t.cores, fresh := s.fresh + 1 } ∧
    (∀ m, m ≠ c → t.cores[m] = s.cores[m]) ∧ { t.cores[c] with tlbs := (s.cores[c]).tlbs } = s.cores[c] ∧
    (∀ g : EngId, g ≠ e → ((t.cores[c]).tlbs)[g] = ((s.cores[c]).tlbs)[g]) ∧
    ∃ i, ((t.cores[c]).tlbs)[e] = (((s.cores[c]).tlbs)[e]).eraseIdx i ∧ ((((s.cores[c]).tlbs)[e]) ≠ [] → i < (((s.cores[c]).tlbs)[e]).length)) ∧
  (∀ c : Fin 96, ∃ t, exec (.softError (.walkCache c) true) s = .next t ∧ t = { s with cores := t.cores, fresh := s.fresh + 1 } ∧
    (∀ m, m ≠ c → t.cores[m] = s.cores[m]) ∧ { t.cores[c] with walks := (s.cores[c]).walks } = s.cores[c] ∧
    ∃ i, (t.cores[c]).walks = ((s.cores[c]).walks).eraseIdx i ∧ ((s.cores[c]).walks ≠ [] → i < ((s.cores[c]).walks).length)) ∧
  (∀ c, exec (.softError (.icache c) true) s = .next s)

/-- Writes, fills, requests and replies that arrive (R22, R99, R100, R121, R125, R209, R299, R377). -/
def ArrivalRule (s : State) (k : SlotId) : Prop :=
  let x := getSlot s k
  (∀ (d : Die) (n : Nat),
    let i : Instr := .remoteWriteApply d n
    ((s.log.filter (fun w => !w.dies.contains d))[n]? = none → exec i s = .next s) ∧
    ∀ w, (s.log.filter (fun w => !w.dies.contains d))[n]? = some w →
      let free := (∀ z ∈ s.log, z.id = w.id ∨ d ∈ z.dies ∨ w.clock[dieOf z.by_.slot] ≤ z.id) ∧ Linked s (dieOf w.by_.slot) d
      (¬ free → exec i s = .next s) ∧
      (free → ∃ t, exec i s = .next t ∧ { t with log := s.log } = s ∧
        ∀ z, z ∈ t.log ↔ ∃ v ∈ s.log, z = (if v.id = w.id then { v with dies := v.dies ++ [d] } else v) ∧
          ∃ e : Die, dieLive s e.val = true ∧ e ∉ z.dies)) ∧
  (∀ pre w post, s.writeBacks = pre ++ w :: post → MemoryCanonical s → (w.data.map Prod.fst).Nodup → ∃ t, exec (.tileLineWriteBack pre.length) s = .next t ∧
    t.writeBacks = pre ++ post ∧ t.lines = s.lines ∧ t.slots = s.slots ∧ OnlyMemory { s with writeBacks := t.writeBacks } t ∧
    ∀ b, (∀ v, (b, v) ∈ w.data → (∀ m, Machine.byteAt t m b = v) ∧ b ∉ t.poison) ∧ ((∀ v, (b, v) ∉ w.data) → SameByte s t b)) ∧
  (s.writeBacks = [] → ∀ n, exec (.tileLineWriteBack n) s = .next s) ∧
  (∀ (n : Nat) q, s.fills[n]? = some q → let u : State := { s with fills := s.fills.eraseIdx n }
    (∀ r t l, findLayout s q.ctx q.tile.handle = some r → r.gen = q.tile.gen → tileDevice s q.ctx r q.tile.coords q.sectors = false →
      fillTile u q.ctx r q.tile q.sectors = .line t l → exec (.tileLineFill n) s = .next t) ∧
    ((∀ r, findLayout s q.ctx q.tile.handle = some r → r.gen = q.tile.gen → tileDevice s q.ctx r q.tile.coords q.sectors = false →
      ∀ t l, fillTile u q.ctx r q.tile q.sectors ≠ .line t l) → exec (.tileLineFill n) s = .next u)) ∧
  (∀ q u, takeRequest s q.die q.unit = some (q, u) → (getSlot u q.slot).await = some (.unit q.die q.unit) → (getSlot u q.slot).reply = none →
    (∀ t v, runUnit u q.slot q.die q.order (serveRequest q) = .value t v →
      exec (.dieUnitRequest q.die q.unit) s = .next (modSlot t q.slot fun y => { y with reply := some (.value v) })) ∧
    (∀ t f, runUnit u q.slot q.die q.order (serveRequest q) = .fault t f →
      exec (.dieUnitRequest q.die q.unit) s = .next (modSlot t q.slot fun y => { y with reply := some (.fault ⟨f.1, f.2, 0, y.pc, 0, none, none⟩) })) ∧
    ∀ t f, runUnit u q.slot q.die q.order (serveRequest q) = .deferred t f →
      exec (.dieUnitRequest q.die q.unit) s = .next (modSlot t q.slot fun y => { y with reply := some (.fault { f with pc := y.pc }) })) ∧
  (∀ die unit, (∀ q ∈ s.requests, ¬ (q.die = die ∧ q.unit = unit)) → exec (.dieUnitRequest die unit) s = .next s) ∧
  (∀ d u i sd srcs v, x.await = some (.unit d u) → x.reply = some (.value v) → x.wait = some i → unitFields i = some (sd, srcs) →
    exec (.dieUnitReply k) s = .next (setSlot s k { (x.markDead srcs).writeS sd v with await := none, reply := none, wait := none, pc := x.pc + 8 })) ∧
  (∀ d u f, x.await = some (.unit d u) → x.reply = some (.fault f) →
    exec (.dieUnitReply k) s = .next (takeFault (setSlot s k { x with await := none, reply := none, wait := none }) k f)) ∧
  (∀ pre q post g sd a b, s.remoteReady = pre ++ q :: post → (∀ p ∈ pre, p.die ≠ q.die) → q.slot = k → x.await = some (.rdyset sd) → x.ctx = q.ctx →
    x.wait = some (.rdyset g sd a b) → let u : State := { s with remoteReady := pre ++ post }
    (∀ t v, publish u k q.die q.counterDie q.a q.tile q.rel q.edge = .ok (t, v) → getSlot t k = x → exec (.rdysetApply q.die) s =
      .next (setSlot t k { (x.markDead [a, b]).writeS sd v with await := none, wait := none, pc := x.pc + 8 })) ∧
    ∀ f, publish u k q.die q.counterDie q.a q.tile q.rel q.edge = .error f → exec (.rdysetApply q.die) s =
      .next (takeFault (setSlot u k { x with await := none, wait := none }) k ⟨f.1, f.2, 0, x.pc, 0, none, none⟩)) ∧
  (∀ d, (∀ q ∈ s.remoteReady, q.die ≠ d) → exec (.rdysetApply d) s = .next s)

end Sys2Proof.Claim

open Sys2Proof Sys2Proof.Machine Sys2Proof.Claim

/-- The scheduler's events and those that finish faults, requests and writes (R22, R29, R35, R44 to R46, R52, R92, R99, R100, R121, R125,
R127, R128, R182, R209, R282 to R298, R308, R309, R350, R351, R354 to R356, R359 to R361, R375 to R377). A decision admits the first job of
R284 that may leave its queue, again and again, as its region's traces let it; placement takes the first job of R289 that finds a slot to
the first slot of R288, and writes or follows its traces; a start sets what R44 lists; a retirement leaves the carry set, the signature and
the status words; the allocator moves one slot of a pipeline; a plank's window ends with its debt settled; the watchdog faults. A waiting
word is taken again; a pending fault enters the handler, waits or suspends; at its stop points a job is recorded or ends; the fault queue
takes its entries in order; a domain drains; a soft error poisons or drops what it struck; and what travels arrives. (The model's choices:
the moment of each event is log entry 1, the entry that a parity error strikes log entry 2, carry sets log entry 16, class 0 log entry 18,
poison in scratchpad and tiles log entries 22 and 59, tiles that are ready log entry 36, the discards of R308 log entry 37, an error in a
record log entry 52, traces log entry 54, and windows and overruns log entry 61.) -/
def Obligations.SchedulerAndEventsFollowTheRules : Prop :=
  ∀ (s : State) (k : SlotId),
    AdmissionRule s ∧ PlacementRule s k ∧ StartRule s k ∧ RetireRule s k ∧ AllocatorRule s ∧ PlankRule s ∧ StreamRule s k ∧ HandlerRule s k ∧
    StopRule s k ∧ DrainRule s k ∧ FaultQueueRule s ∧ SoftErrorRule s k ∧ ArrivalRule s k
end

