-- ==== Sys2Proof/Laws/Encoding.lean ====
section
/-! SUPPORT. Laws/Encoding.lean: the fields that the readers of Decode.lean take from a packed word are the fields that were
packed. -/

namespace Sys2Proof

/-! Fields of a concatenation. -/

theorem ext_append_high {m n : Nat} (x : BitVec m) (y : BitVec n) (s k : Nat) (h : n ≤ s) :
    ext (x ++ y) s k = ext x (s - n) k := by
  apply BitVec.eq_of_getLsbD_eq
  intro i hi
  simp only [ext, BitVec.getLsbD_extractLsb', hi, decide_true, Bool.true_and, BitVec.getLsbD_append]
  rw [if_neg (by omega)]
  congr 1
  omega

theorem ext_append_low {m n : Nat} (x : BitVec m) (y : BitVec n) (s k : Nat) (h : s + k ≤ n) :
    ext (x ++ y) s k = ext y s k := by
  apply BitVec.eq_of_getLsbD_eq
  intro i hi
  simp only [ext, BitVec.getLsbD_extractLsb', hi, decide_true, Bool.true_and, BitVec.getLsbD_append]
  rw [if_pos (by omega)]

theorem ext_self {n : Nat} (x : BitVec n) : ext x 0 n = x := by simp [ext]

theorem bit_append_high {m n : Nat} (x : BitVec m) (y : BitVec n) (s : Nat) (h : n ≤ s) :
    (x ++ y).getLsbD s = x.getLsbD (s - n) := by
  rw [BitVec.getLsbD_append, if_neg (by omega)]

theorem bit_append_low {m n : Nat} (x : BitVec m) (y : BitVec n) (s : Nat) (h : s < n) :
    (x ++ y).getLsbD s = y.getLsbD s := by
  rw [BitVec.getLsbD_append, if_pos h]

theorem bit_self (b : Bool) : (bit b).getLsbD 0 = b := by cases b <;> rfl

/-! The fields of packE. -/

theorem fOp_packE (g : Guard) (op : BitVec 10) (sd : Reg) (a b c : Src) (low : BitVec 19) :
    fOp (packE g op sd a b c low) = op := by
  simp only [fOp, packE]
  repeat (first | rw [ext_append_high _ _ _ _ (by decide)] | rw [ext_append_low _ _ _ _ (by decide)])
  exact ext_self _

theorem fSd_packE (g : Guard) (op : BitVec 10) (sd : Reg) (a b c : Src) (low : BitVec 19) :
    fSd (packE g op sd a b c low) = sd := by
  simp only [fSd, packE]
  repeat (first | rw [ext_append_high _ _ _ _ (by decide)] | rw [ext_append_low _ _ _ _ (by decide)])
  exact ext_self _

theorem fGuard_packE (g : Guard) (op : BitVec 10) (sd : Reg) (a b c : Src) (low : BitVec 19) :
    fGuard (packE g op sd a b c low) = g := by
  simp only [fGuard, fNeg, fPred, packE]
  repeat (first | rw [ext_append_high _ _ _ _ (by decide)] | rw [ext_append_low _ _ _ _ (by decide)])
  repeat (first | rw [bit_append_high _ _ _ (by decide)] | rw [bit_append_low _ _ _ (by decide)])
  rw [ext_self, bit_self]

theorem fA_packE (g : Guard) (op : BitVec 10) (sd : Reg) (a b c : Src) (low : BitVec 19) :
    fA (packE g op sd a b c low) = a := by
  simp only [fA, packE]
  repeat (first | rw [ext_append_high _ _ _ _ (by decide)] | rw [ext_append_low _ _ _ _ (by decide)])
  repeat (first | rw [bit_append_high _ _ _ (by decide)] | rw [bit_append_low _ _ _ (by decide)])
  rw [ext_self, bit_self]

theorem fB_packE (g : Guard) (op : BitVec 10) (sd : Reg) (a b c : Src) (low : BitVec 19) :
    fB (packE g op sd a b c low) = b := by
  simp only [fB, packE]
  repeat (first | rw [ext_append_high _ _ _ _ (by decide)] | rw [ext_append_low _ _ _ _ (by decide)])
  repeat (first | rw [bit_append_high _ _ _ (by decide)] | rw [bit_append_low _ _ _ (by decide)])
  rw [ext_self, bit_self]

theorem fC_packE (g : Guard) (op : BitVec 10) (sd : Reg) (a b c : Src) (low : BitVec 19) :
    fC (packE g op sd a b c low) = c := by
  simp only [fC, packE]
  repeat (first | rw [ext_append_high _ _ _ _ (by decide)] | rw [ext_append_low _ _ _ _ (by decide)])
  repeat (first | rw [bit_append_high _ _ _ (by decide)] | rw [bit_append_low _ _ _ (by decide)])
  rw [ext_self, bit_self]

/-! The fields of packI. -/

theorem fOp_packI (g : Guard) (op : BitVec 10) (sd : Reg) (a : Src) (imm : BitVec 32) :
    fOp (packI g op sd a imm) = op := by
  simp only [fOp, packI]
  repeat (first | rw [ext_append_high _ _ _ _ (by decide)] | rw [ext_append_low _ _ _ _ (by decide)])
  exact ext_self _

theorem fSd_packI (g : Guard) (op : BitVec 10) (sd : Reg) (a : Src) (imm : BitVec 32) :
    fSd (packI g op sd a imm) = sd := by
  simp only [fSd, packI]
  repeat (first | rw [ext_append_high _ _ _ _ (by decide)] | rw [ext_append_low _ _ _ _ (by decide)])
  exact ext_self _

theorem fImm32_packI (g : Guard) (op : BitVec 10) (sd : Reg) (a : Src) (imm : BitVec 32) :
    fImm32 (packI g op sd a imm) = imm := by
  simp only [fImm32, packI]
  repeat (first | rw [ext_append_high _ _ _ _ (by decide)] | rw [ext_append_low _ _ _ _ (by decide)])
  exact ext_self _

theorem fGuard_packI (g : Guard) (op : BitVec 10) (sd : Reg) (a : Src) (imm : BitVec 32) :
    fGuard (packI g op sd a imm) = g := by
  simp only [fGuard, fNeg, fPred, packI]
  repeat (first | rw [ext_append_high _ _ _ _ (by decide)] | rw [ext_append_low _ _ _ _ (by decide)])
  repeat (first | rw [bit_append_high _ _ _ (by decide)] | rw [bit_append_low _ _ _ (by decide)])
  rw [ext_self, bit_self]

theorem fA_packI (g : Guard) (op : BitVec 10) (sd : Reg) (a : Src) (imm : BitVec 32) :
    fA (packI g op sd a imm) = a := by
  simp only [fA, packI]
  repeat (first | rw [ext_append_high _ _ _ _ (by decide)] | rw [ext_append_low _ _ _ _ (by decide)])
  repeat (first | rw [bit_append_high _ _ _ (by decide)] | rw [bit_append_low _ _ _ (by decide)])
  rw [ext_self, bit_self]

/-! The fields of packM. -/

theorem fOp_packM (g : Guard) (op : BitVec 10) (d : Reg) (a : Src) (l : Bool) (size : BitVec 3) (order : BitVec 2) (scope : BitVec 4) (spec : Bool) (off : BitVec 22) :
    fOp (packM g op d a l size order scope spec off) = op := by
  simp only [fOp, packM]
  repeat (first | rw [ext_append_high _ _ _ _ (by decide)] | rw [ext_append_low _ _ _ _ (by decide)])
  exact ext_self _

theorem fSd_packM (g : Guard) (op : BitVec 10) (d : Reg) (a : Src) (l : Bool) (size : BitVec 3) (order : BitVec 2) (scope : BitVec 4) (spec : Bool) (off : BitVec 22) :
    fSd (packM g op d a l size order scope spec off) = d := by
  simp only [fSd, packM]
  repeat (first | rw [ext_append_high _ _ _ _ (by decide)] | rw [ext_append_low _ _ _ _ (by decide)])
  exact ext_self _

theorem fMSize_packM (g : Guard) (op : BitVec 10) (d : Reg) (a : Src) (l : Bool) (size : BitVec 3) (order : BitVec 2) (scope : BitVec 4) (spec : Bool) (off : BitVec 22) :
    fMSize (packM g op d a l size order scope spec off) = size := by
  simp only [fMSize, packM]
  repeat (first | rw [ext_append_high _ _ _ _ (by decide)] | rw [ext_append_low _ _ _ _ (by decide)])
  exact ext_self _

theorem fMOrder_packM (g : Guard) (op : BitVec 10) (d : Reg) (a : Src) (l : Bool) (size : BitVec 3) (order : BitVec 2) (scope : BitVec 4) (spec : Bool) (off : BitVec 22) :
    fMOrder (packM g op d a l size order scope spec off) = order := by
  simp only [fMOrder, packM]
  repeat (first | rw [ext_append_high _ _ _ _ (by decide)] | rw [ext_append_low _ _ _ _ (by decide)])
  exact ext_self _

theorem fMScope_packM (g : Guard) (op : BitVec 10) (d : Reg) (a : Src) (l : Bool) (size : BitVec 3) (order : BitVec 2) (scope : BitVec 4) (spec : Bool) (off : BitVec 22) :
    fMScope (packM g op d a l size order scope spec off) = scope := by
  simp only [fMScope, packM]
  repeat (first | rw [ext_append_high _ _ _ _ (by decide)] | rw [ext_append_low _ _ _ _ (by decide)])
  exact ext_self _

theorem fOff22_packM (g : Guard) (op : BitVec 10) (d : Reg) (a : Src) (l : Bool) (size : BitVec 3) (order : BitVec 2) (scope : BitVec 4) (spec : Bool) (off : BitVec 22) :
    fOff22 (packM g op d a l size order scope spec off) = off := by
  simp only [fOff22, packM]
  repeat (first | rw [ext_append_high _ _ _ _ (by decide)] | rw [ext_append_low _ _ _ _ (by decide)])
  exact ext_self _

theorem fMSpec_packM (g : Guard) (op : BitVec 10) (d : Reg) (a : Src) (l : Bool) (size : BitVec 3) (order : BitVec 2) (scope : BitVec 4) (spec : Bool) (off : BitVec 22) :
    fMSpec (packM g op d a l size order scope spec off) = spec := by
  simp only [fMSpec, packM]
  repeat (first | rw [bit_append_high _ _ _ (by decide)] | rw [bit_append_low _ _ _ (by decide)])
  exact bit_self _

theorem fGuard_packM (g : Guard) (op : BitVec 10) (d : Reg) (a : Src) (l : Bool) (size : BitVec 3) (order : BitVec 2) (scope : BitVec 4) (spec : Bool) (off : BitVec 22) :
    fGuard (packM g op d a l size order scope spec off) = g := by
  simp only [fGuard, fNeg, fPred, packM]
  repeat (first | rw [ext_append_high _ _ _ _ (by decide)] | rw [ext_append_low _ _ _ _ (by decide)])
  repeat (first | rw [bit_append_high _ _ _ (by decide)] | rw [bit_append_low _ _ _ (by decide)])
  rw [ext_self, bit_self]

theorem fA_packM (g : Guard) (op : BitVec 10) (d : Reg) (a : Src) (l : Bool) (size : BitVec 3) (order : BitVec 2) (scope : BitVec 4) (spec : Bool) (off : BitVec 22) :
    fA (packM g op d a l size order scope spec off) = a := by
  simp only [fA, packM]
  repeat (first | rw [ext_append_high _ _ _ _ (by decide)] | rw [ext_append_low _ _ _ _ (by decide)])
  repeat (first | rw [bit_append_high _ _ _ (by decide)] | rw [bit_append_low _ _ _ (by decide)])
  rw [ext_self, bit_self]

theorem fMData_packM (g : Guard) (op : BitVec 10) (d : Reg) (a : Src) (l : Bool) (size : BitVec 3) (order : BitVec 2) (scope : BitVec 4) (spec : Bool) (off : BitVec 22) :
    fMData (packM g op d a l size order scope spec off) = ⟨d, l⟩ := by
  simp only [fMData, packM]
  repeat (first | rw [ext_append_high _ _ _ _ (by decide)] | rw [ext_append_low _ _ _ _ (by decide)])
  repeat (first | rw [bit_append_high _ _ _ (by decide)] | rw [bit_append_low _ _ _ (by decide)])
  rw [ext_self, bit_self]

/-! The fields of packB. -/

theorem fOp_packB (g : Guard) (op : BitVec 10) (off : BitVec 46) :
    fOp (packB g op off) = op := by
  simp only [fOp, packB]
  repeat (first | rw [ext_append_high _ _ _ _ (by decide)] | rw [ext_append_low _ _ _ _ (by decide)])
  exact ext_self _

theorem fOff46_packB (g : Guard) (op : BitVec 10) (off : BitVec 46) :
    fOff46 (packB g op off) = off := by
  simp only [fOff46, packB]
  repeat (first | rw [ext_append_high _ _ _ _ (by decide)] | rw [ext_append_low _ _ _ _ (by decide)])
  exact ext_self _

theorem fGuard_packB (g : Guard) (op : BitVec 10) (off : BitVec 46) :
    fGuard (packB g op off) = g := by
  simp only [fGuard, fNeg, fPred, packB]
  repeat (first | rw [ext_append_high _ _ _ _ (by decide)] | rw [ext_append_low _ _ _ _ (by decide)])
  repeat (first | rw [bit_append_high _ _ _ (by decide)] | rw [bit_append_low _ _ _ (by decide)])
  rw [ext_self, bit_self]

/-! The fields of packP. -/

theorem fOp_packP (g : Guard) (op : BitVec 10) (pd pe : Pred) (a b : Src) (cc : BitVec 4) (d : Bool) :
    fOp (packP g op pd pe a b cc d) = op := by
  simp only [fOp, packP]
  repeat (first | rw [ext_append_high _ _ _ _ (by decide)] | rw [ext_append_low _ _ _ _ (by decide)])
  exact ext_self _

theorem fPPd_packP (g : Guard) (op : BitVec 10) (pd pe : Pred) (a b : Src) (cc : BitVec 4) (d : Bool) :
    fPPd (packP g op pd pe a b cc d) = pd := by
  simp only [fPPd, packP]
  repeat (first | rw [ext_append_high _ _ _ _ (by decide)] | rw [ext_append_low _ _ _ _ (by decide)])
  exact ext_self _

theorem fPPe_packP (g : Guard) (op : BitVec 10) (pd pe : Pred) (a b : Src) (cc : BitVec 4) (d : Bool) :
    fPPe (packP g op pd pe a b cc d) = pe := by
  simp only [fPPe, packP]
  repeat (first | rw [ext_append_high _ _ _ _ (by decide)] | rw [ext_append_low _ _ _ _ (by decide)])
  exact ext_self _

theorem fPCc_packP (g : Guard) (op : BitVec 10) (pd pe : Pred) (a b : Src) (cc : BitVec 4) (d : Bool) :
    fPCc (packP g op pd pe a b cc d) = cc := by
  simp only [fPCc, packP]
  repeat (first | rw [ext_append_high _ _ _ _ (by decide)] | rw [ext_append_low _ _ _ _ (by decide)])
  exact ext_self _

theorem fPD_packP (g : Guard) (op : BitVec 10) (pd pe : Pred) (a b : Src) (cc : BitVec 4) (d : Bool) :
    fPD (packP g op pd pe a b cc d) = d := by
  simp only [fPD, packP]
  repeat (first | rw [bit_append_high _ _ _ (by decide)] | rw [bit_append_low _ _ _ (by decide)])
  exact bit_self _

theorem fGuard_packP (g : Guard) (op : BitVec 10) (pd pe : Pred) (a b : Src) (cc : BitVec 4) (d : Bool) :
    fGuard (packP g op pd pe a b cc d) = g := by
  simp only [fGuard, fNeg, fPred, packP]
  repeat (first | rw [ext_append_high _ _ _ _ (by decide)] | rw [ext_append_low _ _ _ _ (by decide)])
  repeat (first | rw [bit_append_high _ _ _ (by decide)] | rw [bit_append_low _ _ _ (by decide)])
  rw [ext_self, bit_self]

theorem fPA_packP (g : Guard) (op : BitVec 10) (pd pe : Pred) (a b : Src) (cc : BitVec 4) (d : Bool) :
    fPA (packP g op pd pe a b cc d) = a := by
  simp only [fPA, packP]
  repeat (first | rw [ext_append_high _ _ _ _ (by decide)] | rw [ext_append_low _ _ _ _ (by decide)])
  repeat (first | rw [bit_append_high _ _ _ (by decide)] | rw [bit_append_low _ _ _ (by decide)])
  rw [ext_self, bit_self]

theorem fPB_packP (g : Guard) (op : BitVec 10) (pd pe : Pred) (a b : Src) (cc : BitVec 4) (d : Bool) :
    fPB (packP g op pd pe a b cc d) = b := by
  simp only [fPB, packP]
  repeat (first | rw [ext_append_high _ _ _ _ (by decide)] | rw [ext_append_low _ _ _ _ (by decide)])
  repeat (first | rw [bit_append_high _ _ _ (by decide)] | rw [bit_append_low _ _ _ (by decide)])
  rw [ext_self, bit_self]

/-! The fields of packPI. -/

theorem fOp_packPI (g : Guard) (op : BitVec 10) (pd pe : Pred) (a : Src) (cc : BitVec 4) (imm : BitVec 21) :
    fOp (packPI g op pd pe a cc imm) = op := by
  simp only [fOp, packPI]
  repeat (first | rw [ext_append_high _ _ _ _ (by decide)] | rw [ext_append_low _ _ _ _ (by decide)])
  exact ext_self _

theorem fPPd_packPI (g : Guard) (op : BitVec 10) (pd pe : Pred) (a : Src) (cc : BitVec 4) (imm : BitVec 21) :
    fPPd (packPI g op pd pe a cc imm) = pd := by
  simp only [fPPd, packPI]
  repeat (first | rw [ext_append_high _ _ _ _ (by decide)] | rw [ext_append_low _ _ _ _ (by decide)])
  exact ext_self _

theorem fPPe_packPI (g : Guard) (op : BitVec 10) (pd pe : Pred) (a : Src) (cc : BitVec 4) (imm : BitVec 21) :
    fPPe (packPI g op pd pe a cc imm) = pe := by
  simp only [fPPe, packPI]
  repeat (first | rw [ext_append_high _ _ _ _ (by decide)] | rw [ext_append_low _ _ _ _ (by decide)])
  exact ext_self _

theorem fPiCc_packPI (g : Guard) (op : BitVec 10) (pd pe : Pred) (a : Src) (cc : BitVec 4) (imm : BitVec 21) :
    fPiCc (packPI g op pd pe a cc imm) = cc := by
  simp only [fPiCc, packPI]
  repeat (first | rw [ext_append_high _ _ _ _ (by decide)] | rw [ext_append_low _ _ _ _ (by decide)])
  exact ext_self _

theorem fImm21_packPI (g : Guard) (op : BitVec 10) (pd pe : Pred) (a : Src) (cc : BitVec 4) (imm : BitVec 21) :
    fImm21 (packPI g op pd pe a cc imm) = imm := by
  simp only [fImm21, packPI]
  repeat (first | rw [ext_append_high _ _ _ _ (by decide)] | rw [ext_append_low _ _ _ _ (by decide)])
  exact ext_self _

theorem fGuard_packPI (g : Guard) (op : BitVec 10) (pd pe : Pred) (a : Src) (cc : BitVec 4) (imm : BitVec 21) :
    fGuard (packPI g op pd pe a cc imm) = g := by
  simp only [fGuard, fNeg, fPred, packPI]
  repeat (first | rw [ext_append_high _ _ _ _ (by decide)] | rw [ext_append_low _ _ _ _ (by decide)])
  repeat (first | rw [bit_append_high _ _ _ (by decide)] | rw [bit_append_low _ _ _ (by decide)])
  rw [ext_self, bit_self]

theorem fPA_packPI (g : Guard) (op : BitVec 10) (pd pe : Pred) (a : Src) (cc : BitVec 4) (imm : BitVec 21) :
    fPA (packPI g op pd pe a cc imm) = a := by
  simp only [fPA, packPI]
  repeat (first | rw [ext_append_high _ _ _ _ (by decide)] | rw [ext_append_low _ _ _ _ (by decide)])
  repeat (first | rw [bit_append_high _ _ _ (by decide)] | rw [bit_append_low _ _ _ (by decide)])
  rw [ext_self, bit_self]

/-! The fields of packQ. -/

theorem fOp_packQ (g : Guard) (op : BitVec 10) (pd pa pb : Pred) (na nb : Bool) :
    fOp (packQ g op pd pa pb na nb) = op := by
  simp only [fOp, packQ]
  repeat (first | rw [ext_append_high _ _ _ _ (by decide)] | rw [ext_append_low _ _ _ _ (by decide)])
  exact ext_self _

theorem fPPd_packQ (g : Guard) (op : BitVec 10) (pd pa pb : Pred) (na nb : Bool) :
    fPPd (packQ g op pd pa pb na nb) = pd := by
  simp only [fPPd, packQ]
  repeat (first | rw [ext_append_high _ _ _ _ (by decide)] | rw [ext_append_low _ _ _ _ (by decide)])
  exact ext_self _

theorem fPPe_packQ (g : Guard) (op : BitVec 10) (pd pa pb : Pred) (na nb : Bool) :
    fPPe (packQ g op pd pa pb na nb) = pa := by
  simp only [fPPe, packQ]
  repeat (first | rw [ext_append_high _ _ _ _ (by decide)] | rw [ext_append_low _ _ _ _ (by decide)])
  exact ext_self _

theorem fQPb_packQ (g : Guard) (op : BitVec 10) (pd pa pb : Pred) (na nb : Bool) :
    fQPb (packQ g op pd pa pb na nb) = pb := by
  simp only [fQPb, packQ]
  repeat (first | rw [ext_append_high _ _ _ _ (by decide)] | rw [ext_append_low _ _ _ _ (by decide)])
  exact ext_self _

theorem fQNa_packQ (g : Guard) (op : BitVec 10) (pd pa pb : Pred) (na nb : Bool) :
    fQNa (packQ g op pd pa pb na nb) = na := by
  simp only [fQNa, packQ]
  repeat (first | rw [bit_append_high _ _ _ (by decide)] | rw [bit_append_low _ _ _ (by decide)])
  exact bit_self _

theorem fQNb_packQ (g : Guard) (op : BitVec 10) (pd pa pb : Pred) (na nb : Bool) :
    fQNb (packQ g op pd pa pb na nb) = nb := by
  simp only [fQNb, packQ]
  repeat (first | rw [bit_append_high _ _ _ (by decide)] | rw [bit_append_low _ _ _ (by decide)])
  exact bit_self _

theorem fGuard_packQ (g : Guard) (op : BitVec 10) (pd pa pb : Pred) (na nb : Bool) :
    fGuard (packQ g op pd pa pb na nb) = g := by
  simp only [fGuard, fNeg, fPred, packQ]
  repeat (first | rw [ext_append_high _ _ _ _ (by decide)] | rw [ext_append_low _ _ _ _ (by decide)])
  repeat (first | rw [bit_append_high _ _ _ (by decide)] | rw [bit_append_low _ _ _ (by decide)])
  rw [ext_self, bit_self]

/-! The fields of packS. -/

theorem fOp_packS (g : Guard) (op : BitVec 10) (sd : Reg) (a : Src) (csr : BitVec 13) (imm : BitVec 20) :
    fOp (packS g op sd a csr imm) = op := by
  simp only [fOp, packS]
  repeat (first | rw [ext_append_high _ _ _ _ (by decide)] | rw [ext_append_low _ _ _ _ (by decide)])
  exact ext_self _

theorem fSd_packS (g : Guard) (op : BitVec 10) (sd : Reg) (a : Src) (csr : BitVec 13) (imm : BitVec 20) :
    fSd (packS g op sd a csr imm) = sd := by
  simp only [fSd, packS]
  repeat (first | rw [ext_append_high _ _ _ _ (by decide)] | rw [ext_append_low _ _ _ _ (by decide)])
  exact ext_self _

theorem fCsr_packS (g : Guard) (op : BitVec 10) (sd : Reg) (a : Src) (csr : BitVec 13) (imm : BitVec 20) :
    fCsr (packS g op sd a csr imm) = csr := by
  simp only [fCsr, packS]
  repeat (first | rw [ext_append_high _ _ _ _ (by decide)] | rw [ext_append_low _ _ _ _ (by decide)])
  exact ext_self _

theorem fImm20_packS (g : Guard) (op : BitVec 10) (sd : Reg) (a : Src) (csr : BitVec 13) (imm : BitVec 20) :
    fImm20 (packS g op sd a csr imm) = imm := by
  simp only [fImm20, packS]
  repeat (first | rw [ext_append_high _ _ _ _ (by decide)] | rw [ext_append_low _ _ _ _ (by decide)])
  exact ext_self _

theorem fGuard_packS (g : Guard) (op : BitVec 10) (sd : Reg) (a : Src) (csr : BitVec 13) (imm : BitVec 20) :
    fGuard (packS g op sd a csr imm) = g := by
  simp only [fGuard, fNeg, fPred, packS]
  repeat (first | rw [ext_append_high _ _ _ _ (by decide)] | rw [ext_append_low _ _ _ _ (by decide)])
  repeat (first | rw [bit_append_high _ _ _ (by decide)] | rw [bit_append_low _ _ _ (by decide)])
  rw [ext_self, bit_self]

theorem fA_packS (g : Guard) (op : BitVec 10) (sd : Reg) (a : Src) (csr : BitVec 13) (imm : BitVec 20) :
    fA (packS g op sd a csr imm) = a := by
  simp only [fA, packS]
  repeat (first | rw [ext_append_high _ _ _ _ (by decide)] | rw [ext_append_low _ _ _ _ (by decide)])
  repeat (first | rw [bit_append_high _ _ _ (by decide)] | rw [bit_append_low _ _ _ (by decide)])
  rw [ext_self, bit_self]

/-! The low bits of packE and of packS. -/

theorem ext_packE (g : Guard) (op : BitVec 10) (sd : Reg) (a b c : Src) (low : BitVec 19) (s n : Nat) (h : s + n ≤ 19) :
    ext (packE g op sd a b c low) s n = ext low s n := by
  simp only [packE]
  repeat rw [ext_append_low _ _ _ _ (by omega)]

theorem bit_packE (g : Guard) (op : BitVec 10) (sd : Reg) (a b c : Src) (low : BitVec 19) (s : Nat) (h : s < 19) :
    (packE g op sd a b c low).getLsbD s = low.getLsbD s := by
  simp only [packE]
  repeat rw [bit_append_low _ _ _ (by omega)]

theorem bit_packS (g : Guard) (op : BitVec 10) (sd : Reg) (a : Src) (csr : BitVec 13) (imm : BitVec 20) (s : Nat) (h : s < 20) :
    (packS g op sd a csr imm).getLsbD s = imm.getLsbD s := by
  simp only [packS]
  repeat rw [bit_append_low _ _ _ (by omega)]

/-! The fields of an engine word. -/

theorem wMajor_packW (m : BitVec 4) (n i : BitVec 6) : wMajor (packW m n i) = m := by
  simp only [wMajor, packW]
  rw [ext_append_high _ _ _ _ (by decide)]
  exact ext_self _

theorem wMinor_packW (m : BitVec 4) (n i : BitVec 6) : wMinor (packW m n i) = n := by
  simp only [wMinor, packW]
  rw [ext_append_low _ _ _ _ (by decide), ext_append_high _ _ _ _ (by decide)]
  exact ext_self _

theorem ext_packW (m : BitVec 4) (n i : BitVec 6) (s k : Nat) (h : s + k ≤ 6) : ext (packW m n i) s k = ext i s k := by
  simp only [packW]
  repeat rw [ext_append_low _ _ _ _ (by omega)]

theorem bit_packW (m : BitVec 4) (n i : BitVec 6) (s : Nat) (h : s < 6) : (packW m n i).getLsbD s = i.getLsbD s := by
  simp only [packW]
  repeat rw [bit_append_low _ _ _ (by omega)]

end Sys2Proof
end

