-- ==== Sys2Proof/Laws/State.lean ====
section
/-! SUPPORT. Laws/State.lean: what each update of a state and of a slot leaves in each field, and reads after writes. -/

namespace Sys2Proof.Machine

/-! A slot stored: it reads back, and nothing else changes. -/

@[simp] theorem getSlot_setSlot (s : State) (k : SlotId) (x : Slot) : getSlot (setSlot s k x) k = x := by
  simp [getSlot, setSlot]
theorem getSlot_setSlot_ne (s : State) (k j : SlotId) (x : Slot) (h : j ≠ k) : getSlot (setSlot s k x) j = getSlot s j := by
  have h' : k.val ≠ j.val := fun e => h (Fin.ext e.symm)
  simp only [getSlot, setSlot, Fin.getElem_fin]
  exact Vector.getElem_set_ne k.isLt j.isLt h'
@[simp] theorem setSlot_setSlot (s : State) (k : SlotId) (x y : Slot) : setSlot (setSlot s k x) k y = setSlot s k y := by
  simp [setSlot]
@[simp] theorem setSlot_getSlot (s : State) (k : SlotId) : setSlot s k (getSlot s k) = s := by
  simp [getSlot, setSlot]
theorem modSlot_eq (s : State) (k : SlotId) (f : Slot → Slot) : modSlot s k f = setSlot s k (f (getSlot s k)) := rfl
theorem modCur_eq (s : State) (f : Slot → Slot) : modCur s f = setSlot s s.cur.slot (f (getSlot s s.cur.slot)) := rfl

@[simp] theorem setSlot_agenda (s : State) (k : SlotId) (x : Slot) : (setSlot s k x).agenda = s.agenda := rfl
@[simp] theorem setSlot_fresh (s : State) (k : SlotId) (x : Slot) : (setSlot s k x).fresh = s.fresh := rfl
@[simp] theorem setSlot_cur (s : State) (k : SlotId) (x : Slot) : (setSlot s k x).cur = s.cur := rfl
@[simp] theorem setSlot_curCmd (s : State) (k : SlotId) (x : Slot) : (setSlot s k x).curCmd = s.curCmd := rfl
@[simp] theorem setSlot_cmdWait (s : State) (k : SlotId) (x : Slot) : (setSlot s k x).cmdWait = s.cmdWait := rfl
@[simp] theorem setSlot_mem (s : State) (k : SlotId) (x : Slot) : (setSlot s k x).mem = s.mem := rfl
@[simp] theorem setSlot_poison (s : State) (k : SlotId) (x : Slot) : (setSlot s k x).poison = s.poison := rfl
@[simp] theorem setSlot_log (s : State) (k : SlotId) (x : Slot) : (setSlot s k x).log = s.log := rfl
@[simp] theorem setSlot_writes (s : State) (k : SlotId) (x : Slot) : (setSlot s k x).writes = s.writes := rfl
@[simp] theorem setSlot_sc (s : State) (k : SlotId) (x : Slot) : (setSlot s k x).sc = s.sc := rfl
@[simp] theorem setSlot_corrected (s : State) (k : SlotId) (x : Slot) : (setSlot s k x).corrected = s.corrected := rfl
@[simp] theorem setSlot_cores (s : State) (k : SlotId) (x : Slot) : (setSlot s k x).cores = s.cores := rfl
@[simp] theorem setSlot_jobs (s : State) (k : SlotId) (x : Slot) : (setSlot s k x).jobs = s.jobs := rfl
@[simp] theorem setSlot_admitNo (s : State) (k : SlotId) (x : Slot) : (setSlot s k x).admitNo = s.admitNo := rfl
@[simp] theorem setSlot_contexts (s : State) (k : SlotId) (x : Slot) : (setSlot s k x).contexts = s.contexts := rfl
@[simp] theorem setSlot_invalidating (s : State) (k : SlotId) (x : Slot) : (setSlot s k x).invalidating = s.invalidating := rfl
@[simp] theorem setSlot_regions (s : State) (k : SlotId) (x : Slot) : (setSlot s k x).regions = s.regions := rfl
@[simp] theorem setSlot_ready (s : State) (k : SlotId) (x : Slot) : (setSlot s k x).ready = s.ready := rfl
@[simp] theorem setSlot_counts (s : State) (k : SlotId) (x : Slot) : (setSlot s k x).counts = s.counts := rfl
@[simp] theorem setSlot_lines (s : State) (k : SlotId) (x : Slot) : (setSlot s k x).lines = s.lines := rfl
@[simp] theorem setSlot_revoked (s : State) (k : SlotId) (x : Slot) : (setSlot s k x).revoked = s.revoked := rfl
@[simp] theorem setSlot_fills (s : State) (k : SlotId) (x : Slot) : (setSlot s k x).fills = s.fills := rfl
@[simp] theorem setSlot_writeBacks (s : State) (k : SlotId) (x : Slot) : (setSlot s k x).writeBacks = s.writeBacks := rfl
@[simp] theorem setSlot_planks (s : State) (k : SlotId) (x : Slot) : (setSlot s k x).planks = s.planks := rfl
@[simp] theorem setSlot_traceNo (s : State) (k : SlotId) (x : Slot) : (setSlot s k x).traceNo = s.traceNo := rfl
@[simp] theorem setSlot_requests (s : State) (k : SlotId) (x : Slot) : (setSlot s k x).requests = s.requests := rfl
@[simp] theorem setSlot_remoteReady (s : State) (k : SlotId) (x : Slot) : (setSlot s k x).remoteReady = s.remoteReady := rfl
@[simp] theorem setSlot_seqs (s : State) (k : SlotId) (x : Slot) : (setSlot s k x).seqs = s.seqs := rfl
@[simp] theorem setSlot_eras (s : State) (k : SlotId) (x : Slot) : (setSlot s k x).eras = s.eras := rfl
@[simp] theorem setSlot_texts (s : State) (k : SlotId) (x : Slot) : (setSlot s k x).texts = s.texts := rfl
@[simp] theorem setSlot_host (s : State) (k : SlotId) (x : Slot) : (setSlot s k x).host = s.host := rfl
@[simp] theorem setSlot_fqWait (s : State) (k : SlotId) (x : Slot) : (setSlot s k x).fqWait = s.fqWait := rfl
@[simp] theorem setSlot_broken (s : State) (k : SlotId) (x : Slot) : (setSlot s k x).broken = s.broken := rfl
@[simp] theorem setSlot_t1Seq (s : State) (k : SlotId) (x : Slot) : (setSlot s k x).t1Seq = s.t1Seq := rfl
@[simp] theorem setSlot_t1Frames (s : State) (k : SlotId) (x : Slot) : (setSlot s k x).t1Frames = s.t1Frames := rfl
@[simp] theorem setSlot_t1Out (s : State) (k : SlotId) (x : Slot) : (setSlot s k x).t1Out = s.t1Out := rfl
@[simp] theorem setSlot_t1Drops (s : State) (k : SlotId) (x : Slot) : (setSlot s k x).t1Drops = s.t1Drops := rfl
@[simp] theorem setSlot_dcc (s : State) (k : SlotId) (x : Slot) : (setSlot s k x).dcc = s.dcc := rfl
@[simp] theorem setSlot_time (s : State) (k : SlotId) (x : Slot) : (setSlot s k x).time = s.time := rfl
@[simp] theorem setSlot_slew (s : State) (k : SlotId) (x : Slot) : (setSlot s k x).slew = s.slew := rfl
@[simp] theorem setSlot_paused (s : State) (k : SlotId) (x : Slot) : (setSlot s k x).paused = s.paused := rfl
@[simp] theorem setSlot_held (s : State) (k : SlotId) (x : Slot) : (setSlot s k x).held = s.held := rfl

/-! Stores to memory. -/

@[simp] theorem storeCells_agenda (s : State) (cs : List (Nat × Byte)) : (storeCells s cs).agenda = s.agenda := rfl
@[simp] theorem storeCells_fresh (s : State) (cs : List (Nat × Byte)) : (storeCells s cs).fresh = s.fresh := rfl
@[simp] theorem storeCells_cur (s : State) (cs : List (Nat × Byte)) : (storeCells s cs).cur = s.cur := rfl
@[simp] theorem storeCells_curCmd (s : State) (cs : List (Nat × Byte)) : (storeCells s cs).curCmd = s.curCmd := rfl
@[simp] theorem storeCells_cmdWait (s : State) (cs : List (Nat × Byte)) : (storeCells s cs).cmdWait = s.cmdWait := rfl
@[simp] theorem storeCells_log (s : State) (cs : List (Nat × Byte)) : (storeCells s cs).log = s.log := rfl
@[simp] theorem storeCells_writes (s : State) (cs : List (Nat × Byte)) : (storeCells s cs).writes = s.writes := rfl
@[simp] theorem storeCells_sc (s : State) (cs : List (Nat × Byte)) : (storeCells s cs).sc = s.sc := rfl
@[simp] theorem storeCells_corrected (s : State) (cs : List (Nat × Byte)) : (storeCells s cs).corrected = s.corrected := rfl
@[simp] theorem storeCells_cores (s : State) (cs : List (Nat × Byte)) : (storeCells s cs).cores = s.cores := rfl
@[simp] theorem storeCells_slots (s : State) (cs : List (Nat × Byte)) : (storeCells s cs).slots = s.slots := rfl
@[simp] theorem storeCells_jobs (s : State) (cs : List (Nat × Byte)) : (storeCells s cs).jobs = s.jobs := rfl
@[simp] theorem storeCells_admitNo (s : State) (cs : List (Nat × Byte)) : (storeCells s cs).admitNo = s.admitNo := rfl
@[simp] theorem storeCells_contexts (s : State) (cs : List (Nat × Byte)) : (storeCells s cs).contexts = s.contexts := rfl
@[simp] theorem storeCells_invalidating (s : State) (cs : List (Nat × Byte)) : (storeCells s cs).invalidating = s.invalidating := rfl
@[simp] theorem storeCells_regions (s : State) (cs : List (Nat × Byte)) : (storeCells s cs).regions = s.regions := rfl
@[simp] theorem storeCells_ready (s : State) (cs : List (Nat × Byte)) : (storeCells s cs).ready = s.ready := rfl
@[simp] theorem storeCells_counts (s : State) (cs : List (Nat × Byte)) : (storeCells s cs).counts = s.counts := rfl
@[simp] theorem storeCells_lines (s : State) (cs : List (Nat × Byte)) : (storeCells s cs).lines = s.lines := rfl
@[simp] theorem storeCells_revoked (s : State) (cs : List (Nat × Byte)) : (storeCells s cs).revoked = s.revoked := rfl
@[simp] theorem storeCells_fills (s : State) (cs : List (Nat × Byte)) : (storeCells s cs).fills = s.fills := rfl
@[simp] theorem storeCells_writeBacks (s : State) (cs : List (Nat × Byte)) : (storeCells s cs).writeBacks = s.writeBacks := rfl
@[simp] theorem storeCells_planks (s : State) (cs : List (Nat × Byte)) : (storeCells s cs).planks = s.planks := rfl
@[simp] theorem storeCells_traceNo (s : State) (cs : List (Nat × Byte)) : (storeCells s cs).traceNo = s.traceNo := rfl
@[simp] theorem storeCells_requests (s : State) (cs : List (Nat × Byte)) : (storeCells s cs).requests = s.requests := rfl
@[simp] theorem storeCells_remoteReady (s : State) (cs : List (Nat × Byte)) : (storeCells s cs).remoteReady = s.remoteReady := rfl
@[simp] theorem storeCells_seqs (s : State) (cs : List (Nat × Byte)) : (storeCells s cs).seqs = s.seqs := rfl
@[simp] theorem storeCells_eras (s : State) (cs : List (Nat × Byte)) : (storeCells s cs).eras = s.eras := rfl
@[simp] theorem storeCells_texts (s : State) (cs : List (Nat × Byte)) : (storeCells s cs).texts = s.texts := rfl
@[simp] theorem storeCells_host (s : State) (cs : List (Nat × Byte)) : (storeCells s cs).host = s.host := rfl
@[simp] theorem storeCells_fqWait (s : State) (cs : List (Nat × Byte)) : (storeCells s cs).fqWait = s.fqWait := rfl
@[simp] theorem storeCells_broken (s : State) (cs : List (Nat × Byte)) : (storeCells s cs).broken = s.broken := rfl
@[simp] theorem storeCells_t1Seq (s : State) (cs : List (Nat × Byte)) : (storeCells s cs).t1Seq = s.t1Seq := rfl
@[simp] theorem storeCells_t1Frames (s : State) (cs : List (Nat × Byte)) : (storeCells s cs).t1Frames = s.t1Frames := rfl
@[simp] theorem storeCells_t1Out (s : State) (cs : List (Nat × Byte)) : (storeCells s cs).t1Out = s.t1Out := rfl
@[simp] theorem storeCells_t1Drops (s : State) (cs : List (Nat × Byte)) : (storeCells s cs).t1Drops = s.t1Drops := rfl
@[simp] theorem storeCells_dcc (s : State) (cs : List (Nat × Byte)) : (storeCells s cs).dcc = s.dcc := rfl
@[simp] theorem storeCells_time (s : State) (cs : List (Nat × Byte)) : (storeCells s cs).time = s.time := rfl
@[simp] theorem storeCells_slew (s : State) (cs : List (Nat × Byte)) : (storeCells s cs).slew = s.slew := rfl
@[simp] theorem storeCells_paused (s : State) (cs : List (Nat × Byte)) : (storeCells s cs).paused = s.paused := rfl
@[simp] theorem storeCells_held (s : State) (cs : List (Nat × Byte)) : (storeCells s cs).held = s.held := rfl
@[simp] theorem getSlot_storeCells (s : State) (cs : List (Nat × Byte)) (k : SlotId) : getSlot (storeCells s cs) k = getSlot s k := rfl
@[simp] theorem writeAll_agenda (s : State) (cs : List (Nat × Byte)) : (writeAll s cs).agenda = s.agenda := rfl
@[simp] theorem writeAll_fresh (s : State) (cs : List (Nat × Byte)) : (writeAll s cs).fresh = s.fresh := rfl
@[simp] theorem writeAll_cur (s : State) (cs : List (Nat × Byte)) : (writeAll s cs).cur = s.cur := rfl
@[simp] theorem writeAll_curCmd (s : State) (cs : List (Nat × Byte)) : (writeAll s cs).curCmd = s.curCmd := rfl
@[simp] theorem writeAll_cmdWait (s : State) (cs : List (Nat × Byte)) : (writeAll s cs).cmdWait = s.cmdWait := rfl
@[simp] theorem writeAll_writes (s : State) (cs : List (Nat × Byte)) : (writeAll s cs).writes = s.writes := rfl
@[simp] theorem writeAll_sc (s : State) (cs : List (Nat × Byte)) : (writeAll s cs).sc = s.sc := rfl
@[simp] theorem writeAll_corrected (s : State) (cs : List (Nat × Byte)) : (writeAll s cs).corrected = s.corrected := rfl
@[simp] theorem writeAll_cores (s : State) (cs : List (Nat × Byte)) : (writeAll s cs).cores = s.cores := rfl
@[simp] theorem writeAll_slots (s : State) (cs : List (Nat × Byte)) : (writeAll s cs).slots = s.slots := rfl
@[simp] theorem writeAll_jobs (s : State) (cs : List (Nat × Byte)) : (writeAll s cs).jobs = s.jobs := rfl
@[simp] theorem writeAll_admitNo (s : State) (cs : List (Nat × Byte)) : (writeAll s cs).admitNo = s.admitNo := rfl
@[simp] theorem writeAll_contexts (s : State) (cs : List (Nat × Byte)) : (writeAll s cs).contexts = s.contexts := rfl
@[simp] theorem writeAll_invalidating (s : State) (cs : List (Nat × Byte)) : (writeAll s cs).invalidating = s.invalidating := rfl
@[simp] theorem writeAll_regions (s : State) (cs : List (Nat × Byte)) : (writeAll s cs).regions = s.regions := rfl
@[simp] theorem writeAll_ready (s : State) (cs : List (Nat × Byte)) : (writeAll s cs).ready = s.ready := rfl
@[simp] theorem writeAll_counts (s : State) (cs : List (Nat × Byte)) : (writeAll s cs).counts = s.counts := rfl
@[simp] theorem writeAll_lines (s : State) (cs : List (Nat × Byte)) : (writeAll s cs).lines = s.lines := rfl
@[simp] theorem writeAll_revoked (s : State) (cs : List (Nat × Byte)) : (writeAll s cs).revoked = s.revoked := rfl
@[simp] theorem writeAll_fills (s : State) (cs : List (Nat × Byte)) : (writeAll s cs).fills = s.fills := rfl
@[simp] theorem writeAll_writeBacks (s : State) (cs : List (Nat × Byte)) : (writeAll s cs).writeBacks = s.writeBacks := rfl
@[simp] theorem writeAll_planks (s : State) (cs : List (Nat × Byte)) : (writeAll s cs).planks = s.planks := rfl
@[simp] theorem writeAll_traceNo (s : State) (cs : List (Nat × Byte)) : (writeAll s cs).traceNo = s.traceNo := rfl
@[simp] theorem writeAll_requests (s : State) (cs : List (Nat × Byte)) : (writeAll s cs).requests = s.requests := rfl
@[simp] theorem writeAll_remoteReady (s : State) (cs : List (Nat × Byte)) : (writeAll s cs).remoteReady = s.remoteReady := rfl
@[simp] theorem writeAll_seqs (s : State) (cs : List (Nat × Byte)) : (writeAll s cs).seqs = s.seqs := rfl
@[simp] theorem writeAll_eras (s : State) (cs : List (Nat × Byte)) : (writeAll s cs).eras = s.eras := rfl
@[simp] theorem writeAll_texts (s : State) (cs : List (Nat × Byte)) : (writeAll s cs).texts = s.texts := rfl
@[simp] theorem writeAll_host (s : State) (cs : List (Nat × Byte)) : (writeAll s cs).host = s.host := rfl
@[simp] theorem writeAll_fqWait (s : State) (cs : List (Nat × Byte)) : (writeAll s cs).fqWait = s.fqWait := rfl
@[simp] theorem writeAll_broken (s : State) (cs : List (Nat × Byte)) : (writeAll s cs).broken = s.broken := rfl
@[simp] theorem writeAll_t1Seq (s : State) (cs : List (Nat × Byte)) : (writeAll s cs).t1Seq = s.t1Seq := rfl
@[simp] theorem writeAll_t1Frames (s : State) (cs : List (Nat × Byte)) : (writeAll s cs).t1Frames = s.t1Frames := rfl
@[simp] theorem writeAll_t1Out (s : State) (cs : List (Nat × Byte)) : (writeAll s cs).t1Out = s.t1Out := rfl
@[simp] theorem writeAll_t1Drops (s : State) (cs : List (Nat × Byte)) : (writeAll s cs).t1Drops = s.t1Drops := rfl
@[simp] theorem writeAll_dcc (s : State) (cs : List (Nat × Byte)) : (writeAll s cs).dcc = s.dcc := rfl
@[simp] theorem writeAll_time (s : State) (cs : List (Nat × Byte)) : (writeAll s cs).time = s.time := rfl
@[simp] theorem writeAll_slew (s : State) (cs : List (Nat × Byte)) : (writeAll s cs).slew = s.slew := rfl
@[simp] theorem writeAll_paused (s : State) (cs : List (Nat × Byte)) : (writeAll s cs).paused = s.paused := rfl
@[simp] theorem writeAll_held (s : State) (cs : List (Nat × Byte)) : (writeAll s cs).held = s.held := rfl
@[simp] theorem getSlot_writeAll (s : State) (cs : List (Nat × Byte)) (k : SlotId) : getSlot (writeAll s cs) k = getSlot s k := rfl
@[simp] theorem poisonAt_agenda (s : State) (a n : Nat) : (poisonAt s a n).agenda = s.agenda := rfl
@[simp] theorem poisonAt_fresh (s : State) (a n : Nat) : (poisonAt s a n).fresh = s.fresh := rfl
@[simp] theorem poisonAt_cur (s : State) (a n : Nat) : (poisonAt s a n).cur = s.cur := rfl
@[simp] theorem poisonAt_curCmd (s : State) (a n : Nat) : (poisonAt s a n).curCmd = s.curCmd := rfl
@[simp] theorem poisonAt_cmdWait (s : State) (a n : Nat) : (poisonAt s a n).cmdWait = s.cmdWait := rfl
@[simp] theorem poisonAt_mem (s : State) (a n : Nat) : (poisonAt s a n).mem = s.mem := rfl
@[simp] theorem poisonAt_writes (s : State) (a n : Nat) : (poisonAt s a n).writes = s.writes := rfl
@[simp] theorem poisonAt_sc (s : State) (a n : Nat) : (poisonAt s a n).sc = s.sc := rfl
@[simp] theorem poisonAt_corrected (s : State) (a n : Nat) : (poisonAt s a n).corrected = s.corrected := rfl
@[simp] theorem poisonAt_cores (s : State) (a n : Nat) : (poisonAt s a n).cores = s.cores := rfl
@[simp] theorem poisonAt_slots (s : State) (a n : Nat) : (poisonAt s a n).slots = s.slots := rfl
@[simp] theorem poisonAt_jobs (s : State) (a n : Nat) : (poisonAt s a n).jobs = s.jobs := rfl
@[simp] theorem poisonAt_admitNo (s : State) (a n : Nat) : (poisonAt s a n).admitNo = s.admitNo := rfl
@[simp] theorem poisonAt_contexts (s : State) (a n : Nat) : (poisonAt s a n).contexts = s.contexts := rfl
@[simp] theorem poisonAt_invalidating (s : State) (a n : Nat) : (poisonAt s a n).invalidating = s.invalidating := rfl
@[simp] theorem poisonAt_regions (s : State) (a n : Nat) : (poisonAt s a n).regions = s.regions := rfl
@[simp] theorem poisonAt_ready (s : State) (a n : Nat) : (poisonAt s a n).ready = s.ready := rfl
@[simp] theorem poisonAt_counts (s : State) (a n : Nat) : (poisonAt s a n).counts = s.counts := rfl
@[simp] theorem poisonAt_lines (s : State) (a n : Nat) : (poisonAt s a n).lines = s.lines := rfl
@[simp] theorem poisonAt_revoked (s : State) (a n : Nat) : (poisonAt s a n).revoked = s.revoked := rfl
@[simp] theorem poisonAt_fills (s : State) (a n : Nat) : (poisonAt s a n).fills = s.fills := rfl
@[simp] theorem poisonAt_writeBacks (s : State) (a n : Nat) : (poisonAt s a n).writeBacks = s.writeBacks := rfl
@[simp] theorem poisonAt_planks (s : State) (a n : Nat) : (poisonAt s a n).planks = s.planks := rfl
@[simp] theorem poisonAt_traceNo (s : State) (a n : Nat) : (poisonAt s a n).traceNo = s.traceNo := rfl
@[simp] theorem poisonAt_requests (s : State) (a n : Nat) : (poisonAt s a n).requests = s.requests := rfl
@[simp] theorem poisonAt_remoteReady (s : State) (a n : Nat) : (poisonAt s a n).remoteReady = s.remoteReady := rfl
@[simp] theorem poisonAt_seqs (s : State) (a n : Nat) : (poisonAt s a n).seqs = s.seqs := rfl
@[simp] theorem poisonAt_eras (s : State) (a n : Nat) : (poisonAt s a n).eras = s.eras := rfl
@[simp] theorem poisonAt_texts (s : State) (a n : Nat) : (poisonAt s a n).texts = s.texts := rfl
@[simp] theorem poisonAt_host (s : State) (a n : Nat) : (poisonAt s a n).host = s.host := rfl
@[simp] theorem poisonAt_fqWait (s : State) (a n : Nat) : (poisonAt s a n).fqWait = s.fqWait := rfl
@[simp] theorem poisonAt_broken (s : State) (a n : Nat) : (poisonAt s a n).broken = s.broken := rfl
@[simp] theorem poisonAt_t1Seq (s : State) (a n : Nat) : (poisonAt s a n).t1Seq = s.t1Seq := rfl
@[simp] theorem poisonAt_t1Frames (s : State) (a n : Nat) : (poisonAt s a n).t1Frames = s.t1Frames := rfl
@[simp] theorem poisonAt_t1Out (s : State) (a n : Nat) : (poisonAt s a n).t1Out = s.t1Out := rfl
@[simp] theorem poisonAt_t1Drops (s : State) (a n : Nat) : (poisonAt s a n).t1Drops = s.t1Drops := rfl
@[simp] theorem poisonAt_dcc (s : State) (a n : Nat) : (poisonAt s a n).dcc = s.dcc := rfl
@[simp] theorem poisonAt_time (s : State) (a n : Nat) : (poisonAt s a n).time = s.time := rfl
@[simp] theorem poisonAt_slew (s : State) (a n : Nat) : (poisonAt s a n).slew = s.slew := rfl
@[simp] theorem poisonAt_paused (s : State) (a n : Nat) : (poisonAt s a n).paused = s.paused := rfl
@[simp] theorem poisonAt_held (s : State) (a n : Nat) : (poisonAt s a n).held = s.held := rfl
@[simp] theorem getSlot_poisonAt (s : State) (a n : Nat) (k : SlotId) : getSlot (poisonAt s a n) k = getSlot s k := rfl

/-- All that a logged write can change. -/
theorem logWrite_shape (s : State) (y : Issuer) (v : View) (rels : List Release) (o : Option Nat) (cs : List (Nat × Byte)) :
    ∃ m p l n, logWrite s y v rels o cs = { s with mem := m, poison := p, log := l, writes := n } := by
  unfold logWrite
  split
  · exact ⟨s.mem, s.poison, s.log, s.writes, rfl⟩
  · exact ⟨_, _, _, _, rfl⟩

@[simp] theorem logWrite_agenda (s : State) (y : Issuer) (v : View) (rels : List Release) (o : Option Nat) (cs : List (Nat × Byte)) : (logWrite s y v rels o cs).agenda = s.agenda := by
  obtain ⟨_, _, _, _, h⟩ := logWrite_shape s y v rels o cs; rw [h]
@[simp] theorem logWrite_fresh (s : State) (y : Issuer) (v : View) (rels : List Release) (o : Option Nat) (cs : List (Nat × Byte)) : (logWrite s y v rels o cs).fresh = s.fresh := by
  obtain ⟨_, _, _, _, h⟩ := logWrite_shape s y v rels o cs; rw [h]
@[simp] theorem logWrite_cur (s : State) (y : Issuer) (v : View) (rels : List Release) (o : Option Nat) (cs : List (Nat × Byte)) : (logWrite s y v rels o cs).cur = s.cur := by
  obtain ⟨_, _, _, _, h⟩ := logWrite_shape s y v rels o cs; rw [h]
@[simp] theorem logWrite_curCmd (s : State) (y : Issuer) (v : View) (rels : List Release) (o : Option Nat) (cs : List (Nat × Byte)) : (logWrite s y v rels o cs).curCmd = s.curCmd := by
  obtain ⟨_, _, _, _, h⟩ := logWrite_shape s y v rels o cs; rw [h]
@[simp] theorem logWrite_cmdWait (s : State) (y : Issuer) (v : View) (rels : List Release) (o : Option Nat) (cs : List (Nat × Byte)) : (logWrite s y v rels o cs).cmdWait = s.cmdWait := by
  obtain ⟨_, _, _, _, h⟩ := logWrite_shape s y v rels o cs; rw [h]
@[simp] theorem logWrite_sc (s : State) (y : Issuer) (v : View) (rels : List Release) (o : Option Nat) (cs : List (Nat × Byte)) : (logWrite s y v rels o cs).sc = s.sc := by
  obtain ⟨_, _, _, _, h⟩ := logWrite_shape s y v rels o cs; rw [h]
@[simp] theorem logWrite_corrected (s : State) (y : Issuer) (v : View) (rels : List Release) (o : Option Nat) (cs : List (Nat × Byte)) : (logWrite s y v rels o cs).corrected = s.corrected := by
  obtain ⟨_, _, _, _, h⟩ := logWrite_shape s y v rels o cs; rw [h]
@[simp] theorem logWrite_cores (s : State) (y : Issuer) (v : View) (rels : List Release) (o : Option Nat) (cs : List (Nat × Byte)) : (logWrite s y v rels o cs).cores = s.cores := by
  obtain ⟨_, _, _, _, h⟩ := logWrite_shape s y v rels o cs; rw [h]
@[simp] theorem logWrite_slots (s : State) (y : Issuer) (v : View) (rels : List Release) (o : Option Nat) (cs : List (Nat × Byte)) : (logWrite s y v rels o cs).slots = s.slots := by
  obtain ⟨_, _, _, _, h⟩ := logWrite_shape s y v rels o cs; rw [h]
@[simp] theorem logWrite_jobs (s : State) (y : Issuer) (v : View) (rels : List Release) (o : Option Nat) (cs : List (Nat × Byte)) : (logWrite s y v rels o cs).jobs = s.jobs := by
  obtain ⟨_, _, _, _, h⟩ := logWrite_shape s y v rels o cs; rw [h]
@[simp] theorem logWrite_admitNo (s : State) (y : Issuer) (v : View) (rels : List Release) (o : Option Nat) (cs : List (Nat × Byte)) : (logWrite s y v rels o cs).admitNo = s.admitNo := by
  obtain ⟨_, _, _, _, h⟩ := logWrite_shape s y v rels o cs; rw [h]
@[simp] theorem logWrite_contexts (s : State) (y : Issuer) (v : View) (rels : List Release) (o : Option Nat) (cs : List (Nat × Byte)) : (logWrite s y v rels o cs).contexts = s.contexts := by
  obtain ⟨_, _, _, _, h⟩ := logWrite_shape s y v rels o cs; rw [h]
@[simp] theorem logWrite_invalidating (s : State) (y : Issuer) (v : View) (rels : List Release) (o : Option Nat) (cs : List (Nat × Byte)) : (logWrite s y v rels o cs).invalidating = s.invalidating := by
  obtain ⟨_, _, _, _, h⟩ := logWrite_shape s y v rels o cs; rw [h]
@[simp] theorem logWrite_regions (s : State) (y : Issuer) (v : View) (rels : List Release) (o : Option Nat) (cs : List (Nat × Byte)) : (logWrite s y v rels o cs).regions = s.regions := by
  obtain ⟨_, _, _, _, h⟩ := logWrite_shape s y v rels o cs; rw [h]
@[simp] theorem logWrite_ready (s : State) (y : Issuer) (v : View) (rels : List Release) (o : Option Nat) (cs : List (Nat × Byte)) : (logWrite s y v rels o cs).ready = s.ready := by
  obtain ⟨_, _, _, _, h⟩ := logWrite_shape s y v rels o cs; rw [h]
@[simp] theorem logWrite_counts (s : State) (y : Issuer) (v : View) (rels : List Release) (o : Option Nat) (cs : List (Nat × Byte)) : (logWrite s y v rels o cs).counts = s.counts := by
  obtain ⟨_, _, _, _, h⟩ := logWrite_shape s y v rels o cs; rw [h]
@[simp] theorem logWrite_lines (s : State) (y : Issuer) (v : View) (rels : List Release) (o : Option Nat) (cs : List (Nat × Byte)) : (logWrite s y v rels o cs).lines = s.lines := by
  obtain ⟨_, _, _, _, h⟩ := logWrite_shape s y v rels o cs; rw [h]
@[simp] theorem logWrite_revoked (s : State) (y : Issuer) (v : View) (rels : List Release) (o : Option Nat) (cs : List (Nat × Byte)) : (logWrite s y v rels o cs).revoked = s.revoked := by
  obtain ⟨_, _, _, _, h⟩ := logWrite_shape s y v rels o cs; rw [h]
@[simp] theorem logWrite_fills (s : State) (y : Issuer) (v : View) (rels : List Release) (o : Option Nat) (cs : List (Nat × Byte)) : (logWrite s y v rels o cs).fills = s.fills := by
  obtain ⟨_, _, _, _, h⟩ := logWrite_shape s y v rels o cs; rw [h]
@[simp] theorem logWrite_writeBacks (s : State) (y : Issuer) (v : View) (rels : List Release) (o : Option Nat) (cs : List (Nat × Byte)) : (logWrite s y v rels o cs).writeBacks = s.writeBacks := by
  obtain ⟨_, _, _, _, h⟩ := logWrite_shape s y v rels o cs; rw [h]
@[simp] theorem logWrite_planks (s : State) (y : Issuer) (v : View) (rels : List Release) (o : Option Nat) (cs : List (Nat × Byte)) : (logWrite s y v rels o cs).planks = s.planks := by
  obtain ⟨_, _, _, _, h⟩ := logWrite_shape s y v rels o cs; rw [h]
@[simp] theorem logWrite_traceNo (s : State) (y : Issuer) (v : View) (rels : List Release) (o : Option Nat) (cs : List (Nat × Byte)) : (logWrite s y v rels o cs).traceNo = s.traceNo := by
  obtain ⟨_, _, _, _, h⟩ := logWrite_shape s y v rels o cs; rw [h]
@[simp] theorem logWrite_requests (s : State) (y : Issuer) (v : View) (rels : List Release) (o : Option Nat) (cs : List (Nat × Byte)) : (logWrite s y v rels o cs).requests = s.requests := by
  obtain ⟨_, _, _, _, h⟩ := logWrite_shape s y v rels o cs; rw [h]
@[simp] theorem logWrite_remoteReady (s : State) (y : Issuer) (v : View) (rels : List Release) (o : Option Nat) (cs : List (Nat × Byte)) : (logWrite s y v rels o cs).remoteReady = s.remoteReady := by
  obtain ⟨_, _, _, _, h⟩ := logWrite_shape s y v rels o cs; rw [h]
@[simp] theorem logWrite_seqs (s : State) (y : Issuer) (v : View) (rels : List Release) (o : Option Nat) (cs : List (Nat × Byte)) : (logWrite s y v rels o cs).seqs = s.seqs := by
  obtain ⟨_, _, _, _, h⟩ := logWrite_shape s y v rels o cs; rw [h]
@[simp] theorem logWrite_eras (s : State) (y : Issuer) (v : View) (rels : List Release) (o : Option Nat) (cs : List (Nat × Byte)) : (logWrite s y v rels o cs).eras = s.eras := by
  obtain ⟨_, _, _, _, h⟩ := logWrite_shape s y v rels o cs; rw [h]
@[simp] theorem logWrite_texts (s : State) (y : Issuer) (v : View) (rels : List Release) (o : Option Nat) (cs : List (Nat × Byte)) : (logWrite s y v rels o cs).texts = s.texts := by
  obtain ⟨_, _, _, _, h⟩ := logWrite_shape s y v rels o cs; rw [h]
@[simp] theorem logWrite_host (s : State) (y : Issuer) (v : View) (rels : List Release) (o : Option Nat) (cs : List (Nat × Byte)) : (logWrite s y v rels o cs).host = s.host := by
  obtain ⟨_, _, _, _, h⟩ := logWrite_shape s y v rels o cs; rw [h]
@[simp] theorem logWrite_fqWait (s : State) (y : Issuer) (v : View) (rels : List Release) (o : Option Nat) (cs : List (Nat × Byte)) : (logWrite s y v rels o cs).fqWait = s.fqWait := by
  obtain ⟨_, _, _, _, h⟩ := logWrite_shape s y v rels o cs; rw [h]
@[simp] theorem logWrite_broken (s : State) (y : Issuer) (v : View) (rels : List Release) (o : Option Nat) (cs : List (Nat × Byte)) : (logWrite s y v rels o cs).broken = s.broken := by
  obtain ⟨_, _, _, _, h⟩ := logWrite_shape s y v rels o cs; rw [h]
@[simp] theorem logWrite_t1Seq (s : State) (y : Issuer) (v : View) (rels : List Release) (o : Option Nat) (cs : List (Nat × Byte)) : (logWrite s y v rels o cs).t1Seq = s.t1Seq := by
  obtain ⟨_, _, _, _, h⟩ := logWrite_shape s y v rels o cs; rw [h]
@[simp] theorem logWrite_t1Frames (s : State) (y : Issuer) (v : View) (rels : List Release) (o : Option Nat) (cs : List (Nat × Byte)) : (logWrite s y v rels o cs).t1Frames = s.t1Frames := by
  obtain ⟨_, _, _, _, h⟩ := logWrite_shape s y v rels o cs; rw [h]
@[simp] theorem logWrite_t1Out (s : State) (y : Issuer) (v : View) (rels : List Release) (o : Option Nat) (cs : List (Nat × Byte)) : (logWrite s y v rels o cs).t1Out = s.t1Out := by
  obtain ⟨_, _, _, _, h⟩ := logWrite_shape s y v rels o cs; rw [h]
@[simp] theorem logWrite_t1Drops (s : State) (y : Issuer) (v : View) (rels : List Release) (o : Option Nat) (cs : List (Nat × Byte)) : (logWrite s y v rels o cs).t1Drops = s.t1Drops := by
  obtain ⟨_, _, _, _, h⟩ := logWrite_shape s y v rels o cs; rw [h]
@[simp] theorem logWrite_dcc (s : State) (y : Issuer) (v : View) (rels : List Release) (o : Option Nat) (cs : List (Nat × Byte)) : (logWrite s y v rels o cs).dcc = s.dcc := by
  obtain ⟨_, _, _, _, h⟩ := logWrite_shape s y v rels o cs; rw [h]
@[simp] theorem logWrite_time (s : State) (y : Issuer) (v : View) (rels : List Release) (o : Option Nat) (cs : List (Nat × Byte)) : (logWrite s y v rels o cs).time = s.time := by
  obtain ⟨_, _, _, _, h⟩ := logWrite_shape s y v rels o cs; rw [h]
@[simp] theorem logWrite_slew (s : State) (y : Issuer) (v : View) (rels : List Release) (o : Option Nat) (cs : List (Nat × Byte)) : (logWrite s y v rels o cs).slew = s.slew := by
  obtain ⟨_, _, _, _, h⟩ := logWrite_shape s y v rels o cs; rw [h]
@[simp] theorem logWrite_paused (s : State) (y : Issuer) (v : View) (rels : List Release) (o : Option Nat) (cs : List (Nat × Byte)) : (logWrite s y v rels o cs).paused = s.paused := by
  obtain ⟨_, _, _, _, h⟩ := logWrite_shape s y v rels o cs; rw [h]
@[simp] theorem logWrite_held (s : State) (y : Issuer) (v : View) (rels : List Release) (o : Option Nat) (cs : List (Nat × Byte)) : (logWrite s y v rels o cs).held = s.held := by
  obtain ⟨_, _, _, _, h⟩ := logWrite_shape s y v rels o cs; rw [h]

/-! Registers of a slot. -/

@[simp] theorem Slot.writeS_zero (x : Slot) (v : Word) : x.writeS 0 v = x := rfl
theorem Slot.readS_writeS (x : Slot) (r : Reg) (v : Word) (h : r ≠ 0) : (x.writeS r v).readS r = v := by
  unfold Slot.readS Slot.writeS
  rw [if_neg h, if_neg h]
  simp
theorem Slot.readS_writeS_ne (x : Slot) (r q : Reg) (v : Word) (h : q ≠ r) : (x.writeS r v).readS q = x.readS q := by
  have h' : r.toNat ≠ q.toNat := fun e => h (BitVec.eq_of_toNat_eq e.symm)
  unfold Slot.readS Slot.writeS
  split
  · rfl
  · split
    · rfl
    · exact Vector.getElem_set_ne r.isLt q.isLt h'
theorem Slot.writeS_shape (x : Slot) (r : Reg) (v : Word) :
    ∃ a b c, x.writeS r v = { x with scalars := a, poison := b, dead := c } := by
  unfold Slot.writeS
  split
  · exact ⟨x.scalars, x.poison, x.dead, rfl⟩
  · exact ⟨_, _, _, rfl⟩
theorem Slot.writeP_shape (x : Slot) (p : Pred) (b : Bool) : ∃ a, x.writeP p b = { x with preds := a } := by
  unfold Slot.writeP
  split
  · exact ⟨x.preds, rfl⟩
  · exact ⟨_, rfl⟩
@[simp] theorem Slot.readS_zero (x : Slot) : x.readS 0 = 0 := rfl
@[simp] theorem Slot.readP_zero (x : Slot) : x.readP 0 = true := rfl
@[simp] theorem Slot.writeP_zero (x : Slot) (b : Bool) : x.writeP 0 b = x := rfl

@[simp] theorem Slot.writeS_resident (x : Slot) (r : Reg) (v : Word) : (x.writeS r v).resident = x.resident := by
  obtain ⟨a, b, c, h⟩ := x.writeS_shape r v; rw [h]
@[simp] theorem Slot.writeS_granules (x : Slot) (r : Reg) (v : Word) : (x.writeS r v).granules = x.granules := by
  obtain ⟨a, b, c, h⟩ := x.writeS_shape r v; rw [h]
@[simp] theorem Slot.writeS_preds (x : Slot) (r : Reg) (v : Word) : (x.writeS r v).preds = x.preds := by
  obtain ⟨a, b, c, h⟩ := x.writeS_shape r v; rw [h]
@[simp] theorem Slot.writeS_pc (x : Slot) (r : Reg) (v : Word) : (x.writeS r v).pc = x.pc := by
  obtain ⟨a, b, c, h⟩ := x.writeS_shape r v; rw [h]
@[simp] theorem Slot.writeS_jend (x : Slot) (r : Reg) (v : Word) : (x.writeS r v).jend = x.jend := by
  obtain ⟨a, b, c, h⟩ := x.writeS_shape r v; rw [h]
@[simp] theorem Slot.writeS_key (x : Slot) (r : Reg) (v : Word) : (x.writeS r v).key = x.key := by
  obtain ⟨a, b, c, h⟩ := x.writeS_shape r v; rw [h]
@[simp] theorem Slot.writeS_ctr (x : Slot) (r : Reg) (v : Word) : (x.writeS r v).ctr = x.ctr := by
  obtain ⟨a, b, c, h⟩ := x.writeS_shape r v; rw [h]
@[simp] theorem Slot.writeS_trapVec (x : Slot) (r : Reg) (v : Word) : (x.writeS r v).trapVec = x.trapVec := by
  obtain ⟨a, b, c, h⟩ := x.writeS_shape r v; rw [h]
@[simp] theorem Slot.writeS_trapCause (x : Slot) (r : Reg) (v : Word) : (x.writeS r v).trapCause = x.trapCause := by
  obtain ⟨a, b, c, h⟩ := x.writeS_shape r v; rw [h]
@[simp] theorem Slot.writeS_trapPc (x : Slot) (r : Reg) (v : Word) : (x.writeS r v).trapPc = x.trapPc := by
  obtain ⟨a, b, c, h⟩ := x.writeS_shape r v; rw [h]
@[simp] theorem Slot.writeS_trapVal (x : Slot) (r : Reg) (v : Word) : (x.writeS r v).trapVal = x.trapVal := by
  obtain ⟨a, b, c, h⟩ := x.writeS_shape r v; rw [h]
@[simp] theorem Slot.writeS_hnd (x : Slot) (r : Reg) (v : Word) : (x.writeS r v).hnd = x.hnd := by
  obtain ⟨a, b, c, h⟩ := x.writeS_shape r v; rw [h]
@[simp] theorem Slot.writeS_skip (x : Slot) (r : Reg) (v : Word) : (x.writeS r v).skip = x.skip := by
  obtain ⟨a, b, c, h⟩ := x.writeS_shape r v; rw [h]
@[simp] theorem Slot.writeS_dnode (x : Slot) (r : Reg) (v : Word) : (x.writeS r v).dnode = x.dnode := by
  obtain ⟨a, b, c, h⟩ := x.writeS_shape r v; rw [h]
@[simp] theorem Slot.writeS_partw (x : Slot) (r : Reg) (v : Word) : (x.writeS r v).partw = x.partw := by
  obtain ⟨a, b, c, h⟩ := x.writeS_shape r v; rw [h]
@[simp] theorem Slot.writeS_spoob (x : Slot) (r : Reg) (v : Word) : (x.writeS r v).spoob = x.spoob := by
  obtain ⟨a, b, c, h⟩ := x.writeS_shape r v; rw [h]
@[simp] theorem Slot.writeS_fflags (x : Slot) (r : Reg) (v : Word) : (x.writeS r v).fflags = x.fflags := by
  obtain ⟨a, b, c, h⟩ := x.writeS_shape r v; rw [h]
@[simp] theorem Slot.writeS_frm (x : Slot) (r : Reg) (v : Word) : (x.writeS r v).frm = x.frm := by
  obtain ⟨a, b, c, h⟩ := x.writeS_shape r v; rw [h]
@[simp] theorem Slot.writeS_tags (x : Slot) (r : Reg) (v : Word) : (x.writeS r v).tags = x.tags := by
  obtain ⟨a, b, c, h⟩ := x.writeS_shape r v; rw [h]
@[simp] theorem Slot.writeS_age (x : Slot) (r : Reg) (v : Word) : (x.writeS r v).age = x.age := by
  obtain ⟨a, b, c, h⟩ := x.writeS_shape r v; rw [h]
@[simp] theorem Slot.writeS_sig (x : Slot) (r : Reg) (v : Word) : (x.writeS r v).sig = x.sig := by
  obtain ⟨a, b, c, h⟩ := x.writeS_shape r v; rw [h]
@[simp] theorem Slot.writeS_detctl (x : Slot) (r : Reg) (v : Word) : (x.writeS r v).detctl = x.detctl := by
  obtain ⟨a, b, c, h⟩ := x.writeS_shape r v; rw [h]
@[simp] theorem Slot.writeS_fmtq (x : Slot) (r : Reg) (v : Word) : (x.writeS r v).fmtq = x.fmtq := by
  obtain ⟨a, b, c, h⟩ := x.writeS_shape r v; rw [h]
@[simp] theorem Slot.writeS_wait (x : Slot) (r : Reg) (v : Word) : (x.writeS r v).wait = x.wait := by
  obtain ⟨a, b, c, h⟩ := x.writeS_shape r v; rw [h]
@[simp] theorem Slot.writeS_await (x : Slot) (r : Reg) (v : Word) : (x.writeS r v).await = x.await := by
  obtain ⟨a, b, c, h⟩ := x.writeS_shape r v; rw [h]
@[simp] theorem Slot.writeS_reply (x : Slot) (r : Reg) (v : Word) : (x.writeS r v).reply = x.reply := by
  obtain ⟨a, b, c, h⟩ := x.writeS_shape r v; rw [h]
@[simp] theorem Slot.writeS_ages (x : Slot) (r : Reg) (v : Word) : (x.writeS r v).ages = x.ages := by
  obtain ⟨a, b, c, h⟩ := x.writeS_shape r v; rw [h]
@[simp] theorem Slot.writeS_engs (x : Slot) (r : Reg) (v : Word) : (x.writeS r v).engs = x.engs := by
  obtain ⟨a, b, c, h⟩ := x.writeS_shape r v; rw [h]
@[simp] theorem Slot.writeS_chans (x : Slot) (r : Reg) (v : Word) : (x.writeS r v).chans = x.chans := by
  obtain ⟨a, b, c, h⟩ := x.writeS_shape r v; rw [h]
@[simp] theorem Slot.writeS_tiles (x : Slot) (r : Reg) (v : Word) : (x.writeS r v).tiles = x.tiles := by
  obtain ⟨a, b, c, h⟩ := x.writeS_shape r v; rw [h]
@[simp] theorem Slot.writeS_acc (x : Slot) (r : Reg) (v : Word) : (x.writeS r v).acc = x.acc := by
  obtain ⟨a, b, c, h⟩ := x.writeS_shape r v; rw [h]
@[simp] theorem Slot.writeS_accStat (x : Slot) (r : Reg) (v : Word) : (x.writeS r v).accStat = x.accStat := by
  obtain ⟨a, b, c, h⟩ := x.writeS_shape r v; rw [h]
@[simp] theorem Slot.writeS_perm (x : Slot) (r : Reg) (v : Word) : (x.writeS r v).perm = x.perm := by
  obtain ⟨a, b, c, h⟩ := x.writeS_shape r v; rw [h]
@[simp] theorem Slot.writeS_grow (x : Slot) (r : Reg) (v : Word) : (x.writeS r v).grow = x.grow := by
  obtain ⟨a, b, c, h⟩ := x.writeS_shape r v; rw [h]
@[simp] theorem Slot.writeS_fst (x : Slot) (r : Reg) (v : Word) : (x.writeS r v).fst = x.fst := by
  obtain ⟨a, b, c, h⟩ := x.writeS_shape r v; rw [h]
@[simp] theorem Slot.writeS_tilePoison (x : Slot) (r : Reg) (v : Word) : (x.writeS r v).tilePoison = x.tilePoison := by
  obtain ⟨a, b, c, h⟩ := x.writeS_shape r v; rw [h]
@[simp] theorem Slot.writeS_accPoison (x : Slot) (r : Reg) (v : Word) : (x.writeS r v).accPoison = x.accPoison := by
  obtain ⟨a, b, c, h⟩ := x.writeS_shape r v; rw [h]
@[simp] theorem Slot.writeS_scratch (x : Slot) (r : Reg) (v : Word) : (x.writeS r v).scratch = x.scratch := by
  obtain ⟨a, b, c, h⟩ := x.writeS_shape r v; rw [h]
@[simp] theorem Slot.writeS_spPoison (x : Slot) (r : Reg) (v : Word) : (x.writeS r v).spPoison = x.spPoison := by
  obtain ⟨a, b, c, h⟩ := x.writeS_shape r v; rw [h]
@[simp] theorem Slot.writeS_ckpt (x : Slot) (r : Reg) (v : Word) : (x.writeS r v).ckpt = x.ckpt := by
  obtain ⟨a, b, c, h⟩ := x.writeS_shape r v; rw [h]
@[simp] theorem Slot.writeS_ckPoison (x : Slot) (r : Reg) (v : Word) : (x.writeS r v).ckPoison = x.ckPoison := by
  obtain ⟨a, b, c, h⟩ := x.writeS_shape r v; rw [h]
@[simp] theorem Slot.writeS_snaps (x : Slot) (r : Reg) (v : Word) : (x.writeS r v).snaps = x.snaps := by
  obtain ⟨a, b, c, h⟩ := x.writeS_shape r v; rw [h]
@[simp] theorem Slot.writeS_lost (x : Slot) (r : Reg) (v : Word) : (x.writeS r v).lost = x.lost := by
  obtain ⟨a, b, c, h⟩ := x.writeS_shape r v; rw [h]
@[simp] theorem Slot.writeS_checker (x : Slot) (r : Reg) (v : Word) : (x.writeS r v).checker = x.checker := by
  obtain ⟨a, b, c, h⟩ := x.writeS_shape r v; rw [h]
@[simp] theorem Slot.writeS_job (x : Slot) (r : Reg) (v : Word) : (x.writeS r v).job = x.job := by
  obtain ⟨a, b, c, h⟩ := x.writeS_shape r v; rw [h]
@[simp] theorem Slot.writeS_stop (x : Slot) (r : Reg) (v : Word) : (x.writeS r v).stop = x.stop := by
  obtain ⟨a, b, c, h⟩ := x.writeS_shape r v; rw [h]
@[simp] theorem Slot.writeS_watch (x : Slot) (r : Reg) (v : Word) : (x.writeS r v).watch = x.watch := by
  obtain ⟨a, b, c, h⟩ := x.writeS_shape r v; rw [h]
@[simp] theorem Slot.writeS_det (x : Slot) (r : Reg) (v : Word) : (x.writeS r v).det = x.det := by
  obtain ⟨a, b, c, h⟩ := x.writeS_shape r v; rw [h]
@[simp] theorem Slot.writeS_order (x : Slot) (r : Reg) (v : Word) : (x.writeS r v).order = x.order := by
  obtain ⟨a, b, c, h⟩ := x.writeS_shape r v; rw [h]
@[simp] theorem Slot.writeS_tagKnown (x : Slot) (r : Reg) (v : Word) : (x.writeS r v).tagKnown = x.tagKnown := by
  obtain ⟨a, b, c, h⟩ := x.writeS_shape r v; rw [h]
@[simp] theorem Slot.writeS_fin (x : Slot) (r : Reg) (v : Word) : (x.writeS r v).fin = x.fin := by
  obtain ⟨a, b, c, h⟩ := x.writeS_shape r v; rw [h]
@[simp] theorem Slot.writeS_made (x : Slot) (r : Reg) (v : Word) : (x.writeS r v).made = x.made := by
  obtain ⟨a, b, c, h⟩ := x.writeS_shape r v; rw [h]
@[simp] theorem Slot.writeS_spRels (x : Slot) (r : Reg) (v : Word) : (x.writeS r v).spRels = x.spRels := by
  obtain ⟨a, b, c, h⟩ := x.writeS_shape r v; rw [h]
@[simp] theorem Slot.writeS_spoobAt (x : Slot) (r : Reg) (v : Word) : (x.writeS r v).spoobAt = x.spoobAt := by
  obtain ⟨a, b, c, h⟩ := x.writeS_shape r v; rw [h]
@[simp] theorem Slot.writeP_resident (x : Slot) (p : Pred) (b : Bool) : (x.writeP p b).resident = x.resident := by
  obtain ⟨a, h⟩ := x.writeP_shape p b; rw [h]
@[simp] theorem Slot.writeP_granules (x : Slot) (p : Pred) (b : Bool) : (x.writeP p b).granules = x.granules := by
  obtain ⟨a, h⟩ := x.writeP_shape p b; rw [h]
@[simp] theorem Slot.writeP_scalars (x : Slot) (p : Pred) (b : Bool) : (x.writeP p b).scalars = x.scalars := by
  obtain ⟨a, h⟩ := x.writeP_shape p b; rw [h]
@[simp] theorem Slot.writeP_poison (x : Slot) (p : Pred) (b : Bool) : (x.writeP p b).poison = x.poison := by
  obtain ⟨a, h⟩ := x.writeP_shape p b; rw [h]
@[simp] theorem Slot.writeP_dead (x : Slot) (p : Pred) (b : Bool) : (x.writeP p b).dead = x.dead := by
  obtain ⟨a, h⟩ := x.writeP_shape p b; rw [h]
@[simp] theorem Slot.writeP_pc (x : Slot) (p : Pred) (b : Bool) : (x.writeP p b).pc = x.pc := by
  obtain ⟨a, h⟩ := x.writeP_shape p b; rw [h]
@[simp] theorem Slot.writeP_jend (x : Slot) (p : Pred) (b : Bool) : (x.writeP p b).jend = x.jend := by
  obtain ⟨a, h⟩ := x.writeP_shape p b; rw [h]
@[simp] theorem Slot.writeP_key (x : Slot) (p : Pred) (b : Bool) : (x.writeP p b).key = x.key := by
  obtain ⟨a, h⟩ := x.writeP_shape p b; rw [h]
@[simp] theorem Slot.writeP_ctr (x : Slot) (p : Pred) (b : Bool) : (x.writeP p b).ctr = x.ctr := by
  obtain ⟨a, h⟩ := x.writeP_shape p b; rw [h]
@[simp] theorem Slot.writeP_trapVec (x : Slot) (p : Pred) (b : Bool) : (x.writeP p b).trapVec = x.trapVec := by
  obtain ⟨a, h⟩ := x.writeP_shape p b; rw [h]
@[simp] theorem Slot.writeP_trapCause (x : Slot) (p : Pred) (b : Bool) : (x.writeP p b).trapCause = x.trapCause := by
  obtain ⟨a, h⟩ := x.writeP_shape p b; rw [h]
@[simp] theorem Slot.writeP_trapPc (x : Slot) (p : Pred) (b : Bool) : (x.writeP p b).trapPc = x.trapPc := by
  obtain ⟨a, h⟩ := x.writeP_shape p b; rw [h]
@[simp] theorem Slot.writeP_trapVal (x : Slot) (p : Pred) (b : Bool) : (x.writeP p b).trapVal = x.trapVal := by
  obtain ⟨a, h⟩ := x.writeP_shape p b; rw [h]
@[simp] theorem Slot.writeP_hnd (x : Slot) (p : Pred) (b : Bool) : (x.writeP p b).hnd = x.hnd := by
  obtain ⟨a, h⟩ := x.writeP_shape p b; rw [h]
@[simp] theorem Slot.writeP_skip (x : Slot) (p : Pred) (b : Bool) : (x.writeP p b).skip = x.skip := by
  obtain ⟨a, h⟩ := x.writeP_shape p b; rw [h]
@[simp] theorem Slot.writeP_dnode (x : Slot) (p : Pred) (b : Bool) : (x.writeP p b).dnode = x.dnode := by
  obtain ⟨a, h⟩ := x.writeP_shape p b; rw [h]
@[simp] theorem Slot.writeP_partw (x : Slot) (p : Pred) (b : Bool) : (x.writeP p b).partw = x.partw := by
  obtain ⟨a, h⟩ := x.writeP_shape p b; rw [h]
@[simp] theorem Slot.writeP_spoob (x : Slot) (p : Pred) (b : Bool) : (x.writeP p b).spoob = x.spoob := by
  obtain ⟨a, h⟩ := x.writeP_shape p b; rw [h]
@[simp] theorem Slot.writeP_fflags (x : Slot) (p : Pred) (b : Bool) : (x.writeP p b).fflags = x.fflags := by
  obtain ⟨a, h⟩ := x.writeP_shape p b; rw [h]
@[simp] theorem Slot.writeP_frm (x : Slot) (p : Pred) (b : Bool) : (x.writeP p b).frm = x.frm := by
  obtain ⟨a, h⟩ := x.writeP_shape p b; rw [h]
@[simp] theorem Slot.writeP_tags (x : Slot) (p : Pred) (b : Bool) : (x.writeP p b).tags = x.tags := by
  obtain ⟨a, h⟩ := x.writeP_shape p b; rw [h]
@[simp] theorem Slot.writeP_age (x : Slot) (p : Pred) (b : Bool) : (x.writeP p b).age = x.age := by
  obtain ⟨a, h⟩ := x.writeP_shape p b; rw [h]
@[simp] theorem Slot.writeP_sig (x : Slot) (p : Pred) (b : Bool) : (x.writeP p b).sig = x.sig := by
  obtain ⟨a, h⟩ := x.writeP_shape p b; rw [h]
@[simp] theorem Slot.writeP_detctl (x : Slot) (p : Pred) (b : Bool) : (x.writeP p b).detctl = x.detctl := by
  obtain ⟨a, h⟩ := x.writeP_shape p b; rw [h]
@[simp] theorem Slot.writeP_fmtq (x : Slot) (p : Pred) (b : Bool) : (x.writeP p b).fmtq = x.fmtq := by
  obtain ⟨a, h⟩ := x.writeP_shape p b; rw [h]
@[simp] theorem Slot.writeP_wait (x : Slot) (p : Pred) (b : Bool) : (x.writeP p b).wait = x.wait := by
  obtain ⟨a, h⟩ := x.writeP_shape p b; rw [h]
@[simp] theorem Slot.writeP_await (x : Slot) (p : Pred) (b : Bool) : (x.writeP p b).await = x.await := by
  obtain ⟨a, h⟩ := x.writeP_shape p b; rw [h]
@[simp] theorem Slot.writeP_reply (x : Slot) (p : Pred) (b : Bool) : (x.writeP p b).reply = x.reply := by
  obtain ⟨a, h⟩ := x.writeP_shape p b; rw [h]
@[simp] theorem Slot.writeP_ages (x : Slot) (p : Pred) (b : Bool) : (x.writeP p b).ages = x.ages := by
  obtain ⟨a, h⟩ := x.writeP_shape p b; rw [h]
@[simp] theorem Slot.writeP_engs (x : Slot) (p : Pred) (b : Bool) : (x.writeP p b).engs = x.engs := by
  obtain ⟨a, h⟩ := x.writeP_shape p b; rw [h]
@[simp] theorem Slot.writeP_chans (x : Slot) (p : Pred) (b : Bool) : (x.writeP p b).chans = x.chans := by
  obtain ⟨a, h⟩ := x.writeP_shape p b; rw [h]
@[simp] theorem Slot.writeP_tiles (x : Slot) (p : Pred) (b : Bool) : (x.writeP p b).tiles = x.tiles := by
  obtain ⟨a, h⟩ := x.writeP_shape p b; rw [h]
@[simp] theorem Slot.writeP_acc (x : Slot) (p : Pred) (b : Bool) : (x.writeP p b).acc = x.acc := by
  obtain ⟨a, h⟩ := x.writeP_shape p b; rw [h]
@[simp] theorem Slot.writeP_accStat (x : Slot) (p : Pred) (b : Bool) : (x.writeP p b).accStat = x.accStat := by
  obtain ⟨a, h⟩ := x.writeP_shape p b; rw [h]
@[simp] theorem Slot.writeP_perm (x : Slot) (p : Pred) (b : Bool) : (x.writeP p b).perm = x.perm := by
  obtain ⟨a, h⟩ := x.writeP_shape p b; rw [h]
@[simp] theorem Slot.writeP_grow (x : Slot) (p : Pred) (b : Bool) : (x.writeP p b).grow = x.grow := by
  obtain ⟨a, h⟩ := x.writeP_shape p b; rw [h]
@[simp] theorem Slot.writeP_fst (x : Slot) (p : Pred) (b : Bool) : (x.writeP p b).fst = x.fst := by
  obtain ⟨a, h⟩ := x.writeP_shape p b; rw [h]
@[simp] theorem Slot.writeP_tilePoison (x : Slot) (p : Pred) (b : Bool) : (x.writeP p b).tilePoison = x.tilePoison := by
  obtain ⟨a, h⟩ := x.writeP_shape p b; rw [h]
@[simp] theorem Slot.writeP_accPoison (x : Slot) (p : Pred) (b : Bool) : (x.writeP p b).accPoison = x.accPoison := by
  obtain ⟨a, h⟩ := x.writeP_shape p b; rw [h]
@[simp] theorem Slot.writeP_scratch (x : Slot) (p : Pred) (b : Bool) : (x.writeP p b).scratch = x.scratch := by
  obtain ⟨a, h⟩ := x.writeP_shape p b; rw [h]
@[simp] theorem Slot.writeP_spPoison (x : Slot) (p : Pred) (b : Bool) : (x.writeP p b).spPoison = x.spPoison := by
  obtain ⟨a, h⟩ := x.writeP_shape p b; rw [h]
@[simp] theorem Slot.writeP_ckpt (x : Slot) (p : Pred) (b : Bool) : (x.writeP p b).ckpt = x.ckpt := by
  obtain ⟨a, h⟩ := x.writeP_shape p b; rw [h]
@[simp] theorem Slot.writeP_ckPoison (x : Slot) (p : Pred) (b : Bool) : (x.writeP p b).ckPoison = x.ckPoison := by
  obtain ⟨a, h⟩ := x.writeP_shape p b; rw [h]
@[simp] theorem Slot.writeP_snaps (x : Slot) (p : Pred) (b : Bool) : (x.writeP p b).snaps = x.snaps := by
  obtain ⟨a, h⟩ := x.writeP_shape p b; rw [h]
@[simp] theorem Slot.writeP_lost (x : Slot) (p : Pred) (b : Bool) : (x.writeP p b).lost = x.lost := by
  obtain ⟨a, h⟩ := x.writeP_shape p b; rw [h]
@[simp] theorem Slot.writeP_checker (x : Slot) (p : Pred) (b : Bool) : (x.writeP p b).checker = x.checker := by
  obtain ⟨a, h⟩ := x.writeP_shape p b; rw [h]
@[simp] theorem Slot.writeP_job (x : Slot) (p : Pred) (b : Bool) : (x.writeP p b).job = x.job := by
  obtain ⟨a, h⟩ := x.writeP_shape p b; rw [h]
@[simp] theorem Slot.writeP_stop (x : Slot) (p : Pred) (b : Bool) : (x.writeP p b).stop = x.stop := by
  obtain ⟨a, h⟩ := x.writeP_shape p b; rw [h]
@[simp] theorem Slot.writeP_watch (x : Slot) (p : Pred) (b : Bool) : (x.writeP p b).watch = x.watch := by
  obtain ⟨a, h⟩ := x.writeP_shape p b; rw [h]
@[simp] theorem Slot.writeP_det (x : Slot) (p : Pred) (b : Bool) : (x.writeP p b).det = x.det := by
  obtain ⟨a, h⟩ := x.writeP_shape p b; rw [h]
@[simp] theorem Slot.writeP_order (x : Slot) (p : Pred) (b : Bool) : (x.writeP p b).order = x.order := by
  obtain ⟨a, h⟩ := x.writeP_shape p b; rw [h]
@[simp] theorem Slot.writeP_tagKnown (x : Slot) (p : Pred) (b : Bool) : (x.writeP p b).tagKnown = x.tagKnown := by
  obtain ⟨a, h⟩ := x.writeP_shape p b; rw [h]
@[simp] theorem Slot.writeP_fin (x : Slot) (p : Pred) (b : Bool) : (x.writeP p b).fin = x.fin := by
  obtain ⟨a, h⟩ := x.writeP_shape p b; rw [h]
@[simp] theorem Slot.writeP_made (x : Slot) (p : Pred) (b : Bool) : (x.writeP p b).made = x.made := by
  obtain ⟨a, h⟩ := x.writeP_shape p b; rw [h]
@[simp] theorem Slot.writeP_spRels (x : Slot) (p : Pred) (b : Bool) : (x.writeP p b).spRels = x.spRels := by
  obtain ⟨a, h⟩ := x.writeP_shape p b; rw [h]
@[simp] theorem Slot.writeP_spoobAt (x : Slot) (p : Pred) (b : Bool) : (x.writeP p b).spoobAt = x.spoobAt := by
  obtain ⟨a, h⟩ := x.writeP_shape p b; rw [h]

theorem Slot.markDead_dead_only (x : Slot) (srcs : List Src) : ∃ d, x.markDead srcs = { x with dead := d } := by
  induction srcs generalizing x with
  | nil => exact ⟨x.dead, rfl⟩
  | cons c rest ih =>
    simp only [Slot.markDead, List.foldl_cons]
    split
    · obtain ⟨d, hd⟩ := ih { x with dead := setBit x.dead c.reg.toNat true }
      exact ⟨d, hd⟩
    · exact ih x

@[simp] theorem Slot.markDead_resident (x : Slot) (srcs : List Src) : (x.markDead srcs).resident = x.resident := by
  obtain ⟨d, hd⟩ := x.markDead_dead_only srcs; rw [hd]
@[simp] theorem Slot.markDead_granules (x : Slot) (srcs : List Src) : (x.markDead srcs).granules = x.granules := by
  obtain ⟨d, hd⟩ := x.markDead_dead_only srcs; rw [hd]
@[simp] theorem Slot.markDead_scalars (x : Slot) (srcs : List Src) : (x.markDead srcs).scalars = x.scalars := by
  obtain ⟨d, hd⟩ := x.markDead_dead_only srcs; rw [hd]
@[simp] theorem Slot.markDead_poison (x : Slot) (srcs : List Src) : (x.markDead srcs).poison = x.poison := by
  obtain ⟨d, hd⟩ := x.markDead_dead_only srcs; rw [hd]
@[simp] theorem Slot.markDead_preds (x : Slot) (srcs : List Src) : (x.markDead srcs).preds = x.preds := by
  obtain ⟨d, hd⟩ := x.markDead_dead_only srcs; rw [hd]
@[simp] theorem Slot.markDead_pc (x : Slot) (srcs : List Src) : (x.markDead srcs).pc = x.pc := by
  obtain ⟨d, hd⟩ := x.markDead_dead_only srcs; rw [hd]
@[simp] theorem Slot.markDead_jend (x : Slot) (srcs : List Src) : (x.markDead srcs).jend = x.jend := by
  obtain ⟨d, hd⟩ := x.markDead_dead_only srcs; rw [hd]
@[simp] theorem Slot.markDead_key (x : Slot) (srcs : List Src) : (x.markDead srcs).key = x.key := by
  obtain ⟨d, hd⟩ := x.markDead_dead_only srcs; rw [hd]
@[simp] theorem Slot.markDead_ctr (x : Slot) (srcs : List Src) : (x.markDead srcs).ctr = x.ctr := by
  obtain ⟨d, hd⟩ := x.markDead_dead_only srcs; rw [hd]
@[simp] theorem Slot.markDead_trapVec (x : Slot) (srcs : List Src) : (x.markDead srcs).trapVec = x.trapVec := by
  obtain ⟨d, hd⟩ := x.markDead_dead_only srcs; rw [hd]
@[simp] theorem Slot.markDead_trapCause (x : Slot) (srcs : List Src) : (x.markDead srcs).trapCause = x.trapCause := by
  obtain ⟨d, hd⟩ := x.markDead_dead_only srcs; rw [hd]
@[simp] theorem Slot.markDead_trapPc (x : Slot) (srcs : List Src) : (x.markDead srcs).trapPc = x.trapPc := by
  obtain ⟨d, hd⟩ := x.markDead_dead_only srcs; rw [hd]
@[simp] theorem Slot.markDead_trapVal (x : Slot) (srcs : List Src) : (x.markDead srcs).trapVal = x.trapVal := by
  obtain ⟨d, hd⟩ := x.markDead_dead_only srcs; rw [hd]
@[simp] theorem Slot.markDead_hnd (x : Slot) (srcs : List Src) : (x.markDead srcs).hnd = x.hnd := by
  obtain ⟨d, hd⟩ := x.markDead_dead_only srcs; rw [hd]
@[simp] theorem Slot.markDead_skip (x : Slot) (srcs : List Src) : (x.markDead srcs).skip = x.skip := by
  obtain ⟨d, hd⟩ := x.markDead_dead_only srcs; rw [hd]
@[simp] theorem Slot.markDead_dnode (x : Slot) (srcs : List Src) : (x.markDead srcs).dnode = x.dnode := by
  obtain ⟨d, hd⟩ := x.markDead_dead_only srcs; rw [hd]
@[simp] theorem Slot.markDead_partw (x : Slot) (srcs : List Src) : (x.markDead srcs).partw = x.partw := by
  obtain ⟨d, hd⟩ := x.markDead_dead_only srcs; rw [hd]
@[simp] theorem Slot.markDead_spoob (x : Slot) (srcs : List Src) : (x.markDead srcs).spoob = x.spoob := by
  obtain ⟨d, hd⟩ := x.markDead_dead_only srcs; rw [hd]
@[simp] theorem Slot.markDead_fflags (x : Slot) (srcs : List Src) : (x.markDead srcs).fflags = x.fflags := by
  obtain ⟨d, hd⟩ := x.markDead_dead_only srcs; rw [hd]
@[simp] theorem Slot.markDead_frm (x : Slot) (srcs : List Src) : (x.markDead srcs).frm = x.frm := by
  obtain ⟨d, hd⟩ := x.markDead_dead_only srcs; rw [hd]
@[simp] theorem Slot.markDead_tags (x : Slot) (srcs : List Src) : (x.markDead srcs).tags = x.tags := by
  obtain ⟨d, hd⟩ := x.markDead_dead_only srcs; rw [hd]
@[simp] theorem Slot.markDead_age (x : Slot) (srcs : List Src) : (x.markDead srcs).age = x.age := by
  obtain ⟨d, hd⟩ := x.markDead_dead_only srcs; rw [hd]
@[simp] theorem Slot.markDead_sig (x : Slot) (srcs : List Src) : (x.markDead srcs).sig = x.sig := by
  obtain ⟨d, hd⟩ := x.markDead_dead_only srcs; rw [hd]
@[simp] theorem Slot.markDead_detctl (x : Slot) (srcs : List Src) : (x.markDead srcs).detctl = x.detctl := by
  obtain ⟨d, hd⟩ := x.markDead_dead_only srcs; rw [hd]
@[simp] theorem Slot.markDead_fmtq (x : Slot) (srcs : List Src) : (x.markDead srcs).fmtq = x.fmtq := by
  obtain ⟨d, hd⟩ := x.markDead_dead_only srcs; rw [hd]
@[simp] theorem Slot.markDead_wait (x : Slot) (srcs : List Src) : (x.markDead srcs).wait = x.wait := by
  obtain ⟨d, hd⟩ := x.markDead_dead_only srcs; rw [hd]
@[simp] theorem Slot.markDead_await (x : Slot) (srcs : List Src) : (x.markDead srcs).await = x.await := by
  obtain ⟨d, hd⟩ := x.markDead_dead_only srcs; rw [hd]
@[simp] theorem Slot.markDead_reply (x : Slot) (srcs : List Src) : (x.markDead srcs).reply = x.reply := by
  obtain ⟨d, hd⟩ := x.markDead_dead_only srcs; rw [hd]
@[simp] theorem Slot.markDead_ages (x : Slot) (srcs : List Src) : (x.markDead srcs).ages = x.ages := by
  obtain ⟨d, hd⟩ := x.markDead_dead_only srcs; rw [hd]
@[simp] theorem Slot.markDead_engs (x : Slot) (srcs : List Src) : (x.markDead srcs).engs = x.engs := by
  obtain ⟨d, hd⟩ := x.markDead_dead_only srcs; rw [hd]
@[simp] theorem Slot.markDead_chans (x : Slot) (srcs : List Src) : (x.markDead srcs).chans = x.chans := by
  obtain ⟨d, hd⟩ := x.markDead_dead_only srcs; rw [hd]
@[simp] theorem Slot.markDead_tiles (x : Slot) (srcs : List Src) : (x.markDead srcs).tiles = x.tiles := by
  obtain ⟨d, hd⟩ := x.markDead_dead_only srcs; rw [hd]
@[simp] theorem Slot.markDead_acc (x : Slot) (srcs : List Src) : (x.markDead srcs).acc = x.acc := by
  obtain ⟨d, hd⟩ := x.markDead_dead_only srcs; rw [hd]
@[simp] theorem Slot.markDead_accStat (x : Slot) (srcs : List Src) : (x.markDead srcs).accStat = x.accStat := by
  obtain ⟨d, hd⟩ := x.markDead_dead_only srcs; rw [hd]
@[simp] theorem Slot.markDead_perm (x : Slot) (srcs : List Src) : (x.markDead srcs).perm = x.perm := by
  obtain ⟨d, hd⟩ := x.markDead_dead_only srcs; rw [hd]
@[simp] theorem Slot.markDead_grow (x : Slot) (srcs : List Src) : (x.markDead srcs).grow = x.grow := by
  obtain ⟨d, hd⟩ := x.markDead_dead_only srcs; rw [hd]
@[simp] theorem Slot.markDead_fst (x : Slot) (srcs : List Src) : (x.markDead srcs).fst = x.fst := by
  obtain ⟨d, hd⟩ := x.markDead_dead_only srcs; rw [hd]
@[simp] theorem Slot.markDead_tilePoison (x : Slot) (srcs : List Src) : (x.markDead srcs).tilePoison = x.tilePoison := by
  obtain ⟨d, hd⟩ := x.markDead_dead_only srcs; rw [hd]
@[simp] theorem Slot.markDead_accPoison (x : Slot) (srcs : List Src) : (x.markDead srcs).accPoison = x.accPoison := by
  obtain ⟨d, hd⟩ := x.markDead_dead_only srcs; rw [hd]
@[simp] theorem Slot.markDead_scratch (x : Slot) (srcs : List Src) : (x.markDead srcs).scratch = x.scratch := by
  obtain ⟨d, hd⟩ := x.markDead_dead_only srcs; rw [hd]
@[simp] theorem Slot.markDead_spPoison (x : Slot) (srcs : List Src) : (x.markDead srcs).spPoison = x.spPoison := by
  obtain ⟨d, hd⟩ := x.markDead_dead_only srcs; rw [hd]
@[simp] theorem Slot.markDead_ckpt (x : Slot) (srcs : List Src) : (x.markDead srcs).ckpt = x.ckpt := by
  obtain ⟨d, hd⟩ := x.markDead_dead_only srcs; rw [hd]
@[simp] theorem Slot.markDead_ckPoison (x : Slot) (srcs : List Src) : (x.markDead srcs).ckPoison = x.ckPoison := by
  obtain ⟨d, hd⟩ := x.markDead_dead_only srcs; rw [hd]
@[simp] theorem Slot.markDead_snaps (x : Slot) (srcs : List Src) : (x.markDead srcs).snaps = x.snaps := by
  obtain ⟨d, hd⟩ := x.markDead_dead_only srcs; rw [hd]
@[simp] theorem Slot.markDead_lost (x : Slot) (srcs : List Src) : (x.markDead srcs).lost = x.lost := by
  obtain ⟨d, hd⟩ := x.markDead_dead_only srcs; rw [hd]
@[simp] theorem Slot.markDead_checker (x : Slot) (srcs : List Src) : (x.markDead srcs).checker = x.checker := by
  obtain ⟨d, hd⟩ := x.markDead_dead_only srcs; rw [hd]
@[simp] theorem Slot.markDead_job (x : Slot) (srcs : List Src) : (x.markDead srcs).job = x.job := by
  obtain ⟨d, hd⟩ := x.markDead_dead_only srcs; rw [hd]
@[simp] theorem Slot.markDead_stop (x : Slot) (srcs : List Src) : (x.markDead srcs).stop = x.stop := by
  obtain ⟨d, hd⟩ := x.markDead_dead_only srcs; rw [hd]
@[simp] theorem Slot.markDead_watch (x : Slot) (srcs : List Src) : (x.markDead srcs).watch = x.watch := by
  obtain ⟨d, hd⟩ := x.markDead_dead_only srcs; rw [hd]
@[simp] theorem Slot.markDead_det (x : Slot) (srcs : List Src) : (x.markDead srcs).det = x.det := by
  obtain ⟨d, hd⟩ := x.markDead_dead_only srcs; rw [hd]
@[simp] theorem Slot.markDead_order (x : Slot) (srcs : List Src) : (x.markDead srcs).order = x.order := by
  obtain ⟨d, hd⟩ := x.markDead_dead_only srcs; rw [hd]
@[simp] theorem Slot.markDead_tagKnown (x : Slot) (srcs : List Src) : (x.markDead srcs).tagKnown = x.tagKnown := by
  obtain ⟨d, hd⟩ := x.markDead_dead_only srcs; rw [hd]
@[simp] theorem Slot.markDead_fin (x : Slot) (srcs : List Src) : (x.markDead srcs).fin = x.fin := by
  obtain ⟨d, hd⟩ := x.markDead_dead_only srcs; rw [hd]
@[simp] theorem Slot.markDead_made (x : Slot) (srcs : List Src) : (x.markDead srcs).made = x.made := by
  obtain ⟨d, hd⟩ := x.markDead_dead_only srcs; rw [hd]
@[simp] theorem Slot.markDead_spRels (x : Slot) (srcs : List Src) : (x.markDead srcs).spRels = x.spRels := by
  obtain ⟨d, hd⟩ := x.markDead_dead_only srcs; rw [hd]
@[simp] theorem Slot.markDead_spoobAt (x : Slot) (srcs : List Src) : (x.markDead srcs).spoobAt = x.spoobAt := by
  obtain ⟨d, hd⟩ := x.markDead_dead_only srcs; rw [hd]
@[simp] theorem Slot.markDead_readS (x : Slot) (srcs : List Src) (r : Reg) : (x.markDead srcs).readS r = x.readS r := by
  simp [Slot.readS]
@[simp] theorem Slot.markDead_readP (x : Slot) (srcs : List Src) (p : Pred) : (x.markDead srcs).readP p = x.readP p := by
  simp [Slot.readP]
@[simp] theorem Slot.markDead_nil (x : Slot) : x.markDead [] = x := rfl
@[simp] theorem Slot.markDead_poisoned (x : Slot) (srcs : List Src) (r : Reg) : (x.markDead srcs).poisoned r = x.poisoned r := by
  simp [Slot.poisoned]

end Sys2Proof.Machine
end

