-- ==== Sys2Proof/Laws/Memory.lean ====
section
/-! SUPPORT. Laws/Memory.lean: reads after writes of sparse storage, its canonical form, and that every memory operation keeps
it. -/

namespace Sys2Proof.Machine

/-! Canonical form. -/

theorem Memory.wf_cons_iff (b : Nat) (v : Byte) (rest : Memory) :
    Memory.wf ((b, v) :: rest) = true ↔ v ≠ 0 ∧ (∀ p ∈ rest.head?, b < p.1) ∧ Memory.wf rest = true := by
  cases rest with
  | nil => simp [Memory.wf]
  | cons p rest => obtain ⟨c, u⟩ := p; simp [Memory.wf, and_assoc]

theorem cellSet_head (m : Memory) (a : Nat) (x : Byte) (lo : Nat) (ha : lo < a) (h : ∀ p ∈ m.head?, lo < p.1)
    (hm : Memory.wf m = true) : ∀ p ∈ (cellSet m a x).head?, lo < p.1 := by
  cases m with
  | nil => simp only [cellSet]; split <;> simp_all
  | cons q rest =>
    obtain ⟨b, v⟩ := q
    have hb : lo < b := h (b, v) (by simp)
    simp only [cellSet]
    split
    · split <;> simp_all
    · split
      · split
        · intro p hp
          have h2 := ((Memory.wf_cons_iff b v rest).1 hm).2.1 p hp
          omega
        · simp_all
      · simp_all

/-- A store keeps the canonical form. -/
theorem cellSet_wf (m : Memory) (a : Nat) (x : Byte) (hm : Memory.wf m = true) : Memory.wf (cellSet m a x) = true := by
  induction m with
  | nil => simp only [cellSet]; split <;> simp_all [Memory.wf]
  | cons q rest ih =>
    obtain ⟨b, v⟩ := q
    obtain ⟨hv, hh, hr⟩ := (Memory.wf_cons_iff b v rest).1 hm
    simp only [cellSet]
    split
    · split
      · exact hm
      · rename_i h1 h2
        exact (Memory.wf_cons_iff _ _ _).2 ⟨h2, by simpa using h1, hm⟩
    · split
      · rename_i h1 h2
        split
        · exact hr
        · rename_i h3
          exact (Memory.wf_cons_iff _ _ _).2 ⟨h3, by subst h2; exact hh, hr⟩
      · rename_i h1 h2
        exact (Memory.wf_cons_iff _ _ _).2 ⟨hv, cellSet_head rest a x b (by omega) hh hr, ih hr⟩

theorem cellsSet_wf (l : List (Nat × Byte)) (m : Memory) (hm : Memory.wf m = true) : Memory.wf (cellsSet m l) = true := by
  induction l generalizing m with
  | nil => exact hm
  | cons p rest ih => exact ih _ (cellSet_wf m p.1 p.2 hm)

theorem wf_head_lt (b : Nat) (v : Byte) (rest : Memory) (hm : Memory.wf ((b, v) :: rest) = true) :
    ∀ p ∈ rest, b < p.1 := by
  induction rest generalizing b v with
  | nil => simp
  | cons q tail ih =>
    obtain ⟨c, u⟩ := q
    obtain ⟨-, hh, hr⟩ := (Memory.wf_cons_iff b v _).1 hm
    have hbc : b < c := hh (c, u) (by simp)
    intro p hp
    rcases List.mem_cons.1 hp with rfl | hp
    · exact hbc
    · exact Nat.lt_trans hbc (ih c u hr p hp)

/-- Forgetting entries keeps the canonical form. -/
theorem filter_wf (f : Nat × Byte → Bool) (m : Memory) (hm : Memory.wf m = true) : Memory.wf (m.filter f) = true := by
  induction m with
  | nil => exact hm
  | cons q rest ih =>
    obtain ⟨b, v⟩ := q
    obtain ⟨hv, -, hr⟩ := (Memory.wf_cons_iff b v rest).1 hm
    simp only [List.filter_cons]
    split
    · refine (Memory.wf_cons_iff _ _ _).2 ⟨hv, ?_, ih hr⟩
      intro p hp
      exact wf_head_lt b v rest hm p (List.mem_of_mem_filter (List.mem_of_mem_head? hp))
    · exact ih hr

/-! Reads after writes. -/

theorem cellGet_of_lt {w : Nat} (m : Cells w) (a : Nat) (h : ∀ p ∈ m.head?, a < p.1) : cellGet m a = 0 := by
  cases m with
  | nil => rfl
  | cons q rest =>
    obtain ⟨b, v⟩ := q
    have : a < b := h (b, v) (by simp)
    simp only [cellGet]
    rw [if_neg (by omega), if_pos this]

theorem cellGet_cellSet (m : Memory) (a : Nat) (x : Byte) (hm : Memory.wf m = true) : cellGet (cellSet m a x) a = x := by
  induction m with
  | nil => simp only [cellSet]; split <;> simp_all [cellGet]
  | cons q rest ih =>
    obtain ⟨b, v⟩ := q
    obtain ⟨-, hh, hr⟩ := (Memory.wf_cons_iff b v rest).1 hm
    simp only [cellSet]
    split
    · rename_i h1
      split
      · rename_i h2
        rw [h2]; exact cellGet_of_lt _ _ (by simpa using h1)
      · simp [cellGet]
    · split
      · rename_i h1 h2
        split
        · rename_i h3
          rw [h3]; exact cellGet_of_lt _ _ (by subst h2; exact hh)
        · simp [cellGet]
      · rename_i h1 h2
        simp only [cellGet]
        rw [if_neg h2, if_neg h1]
        exact ih hr

/-- A store leaves every other key alone. -/
theorem cellGet_cellSet_ne (m : Memory) (a c : Nat) (x : Byte) (hm : Memory.wf m = true) (h : c ≠ a) :
    cellGet (cellSet m a x) c = cellGet m c := by
  induction m with
  | nil =>
    simp only [cellSet]
    split
    · rfl
    · simp [cellGet, h]
  | cons q rest ih =>
    obtain ⟨b, v⟩ := q
    obtain ⟨-, hh, hr⟩ := (Memory.wf_cons_iff b v rest).1 hm
    simp only [cellSet]
    split
    · rename_i h1
      split
      · rfl
      · simp only [cellGet]
        rw [if_neg h]
        split
        · rw [if_neg (by omega), if_pos (by omega)]
        · rfl
    · split
      · rename_i h1 h2
        subst h2
        simp only [cellGet]
        rw [if_neg h]
        split
        · rename_i h4
          split
          · exact cellGet_of_lt _ _ (fun p hp => Nat.lt_trans ‹_› (hh p hp))
          · rfl
        · simp only [cellGet]
          rw [if_neg h]
      · simp only [cellGet]
        rw [ih hr]

theorem cellsSet_other (l : List (Nat × Byte)) (m : Memory) (c : Nat) (hm : Memory.wf m = true) (h : ∀ p ∈ l, p.1 ≠ c) :
    cellGet (cellsSet m l) c = cellGet m c := by
  induction l generalizing m with
  | nil => rfl
  | cons p rest ih =>
    show cellGet (cellsSet (cellSet m p.1 p.2) rest) c = _
    rw [ih _ (cellSet_wf m p.1 p.2 hm) (fun q hq => h q (by simp [hq])),
        cellGet_cellSet_ne m p.1 c p.2 hm (fun e => h p (by simp) e.symm)]

/-! The operations over memory. -/

theorem storeCells_wf (s : State) (cs : List (Nat × Byte)) (hm : Memory.wf s.mem = true) :
    Memory.wf (storeCells s cs).mem = true := cellsSet_wf cs _ hm
theorem writeAll_wf (s : State) (cs : List (Nat × Byte)) (hm : Memory.wf s.mem = true) :
    Memory.wf (writeAll s cs).mem = true := cellsSet_wf cs _ hm
/-- Memory after a logged write is memory with its bytes stored. -/
@[simp] theorem logWrite_mem (s : State) (y : Issuer) (v : View) (rels : List Release) (o : Option Nat)
    (cs : List (Nat × Byte)) : (logWrite s y v rels o cs).mem = cellsSet s.mem cs := by
  unfold logWrite
  split
  · rename_i h
    rw [List.isEmpty_iff.1 h]; rfl
  · rfl
@[simp] theorem noteMade_mem (s : State) (k : SlotId) (va : Word) (cs : List (Nat × Byte)) :
    (noteMade s k va cs).mem = s.mem := rfl
@[simp] theorem setOrder_mem (s : State) (k : SlotId) (e : EngId) (o : Order) : (setOrder s k e o).mem = s.mem := rfl
@[simp] theorem agentStore_mem (s : State) (k : SlotId) (e : EngId) (o : Order) (va : Word) (cs : List (Nat × Byte))
    (rel : Option Nat) (chain : List Release) : (agentStore s k e o va cs rel chain).1.mem = cellsSet s.mem cs :=
  logWrite_mem ..
/-- A write by an agent stores its bytes, or, after the advance point, nothing (R308). -/
theorem agentWrite_mem (s : State) (k : SlotId) (e : EngId) (o : Order) (va : Word) (cs : List (Nat × Byte))
    (rel : Option Nat) (chain : List Release) :
    (agentWrite s k e o va cs rel chain).1.mem = if lands s k then cellsSet s.mem cs else s.mem := by
  unfold agentWrite
  split
  · exact agentStore_mem ..
  · rfl
@[simp] theorem streamWrite_mem (s : State) (k : SlotId) (e : EngId) (va : Word) (cs : List (Nat × Byte))
    (rel : Option Nat) (chain : List Release) :
    (streamWrite s k e va cs rel chain).mem = if lands s k then cellsSet s.mem cs else s.mem :=
  agentWrite_mem ..
theorem agentWrite_wf (s : State) (k : SlotId) (e : EngId) (o : Order) (va : Word) (cs : List (Nat × Byte))
    (rel : Option Nat) (chain : List Release) (hm : Memory.wf s.mem = true) :
    Memory.wf (agentWrite s k e o va cs rel chain).1.mem = true := by
  rw [agentWrite_mem]
  split
  · exact cellsSet_wf cs _ hm
  · exact hm
theorem streamWrite_wf (s : State) (k : SlotId) (e : EngId) (va : Word) (cs : List (Nat × Byte)) (rel : Option Nat)
    (chain : List Release) (hm : Memory.wf s.mem = true) : Memory.wf (streamWrite s k e va cs rel chain).mem = true :=
  agentWrite_wf s k e _ va cs rel chain hm
/-- A read changes no byte. -/
@[simp] theorem pickCut_mem (s : State) (lo : Nat) (as : List Nat) : (pickCut s lo as).1.mem = s.mem := by
  unfold pickCut
  split <;> rfl
@[simp] theorem agentRead_mem (s : State) (k : SlotId) (d : Die) (e : EngId) (o : Order) (va : Word) (pa n : Nat)
    (acq : Option Nat) : (agentRead s k d e o va pa n acq).1.mem = s.mem := pickCut_mem ..
@[simp] theorem streamRead_mem (s : State) (k : SlotId) (e : EngId) (va : Word) (pa n : Nat) (acq : Option Nat) :
    (streamRead s k e va pa n acq).1.mem = s.mem := agentRead_mem ..
@[simp] theorem settleDevice_mem (s : State) (dev : Bool) (pa n : Nat) : (settleDevice s dev pa n).mem = s.mem := by
  unfold settleDevice
  split <;> rfl
theorem setAccessed_wf (s : State) (w : Leaf) (acc : Access) (hm : Memory.wf s.mem = true) :
    Memory.wf (setAccessed s w acc).mem = true := by
  unfold setAccessed
  extract_lets e now v
  split
  · exact hm
  · exact cellsSet_wf _ _ hm
@[simp] theorem tlbFill_mem (s : State) (core : Fin 96) (e : EngId) (c : Ctx) (va : Word) (w : Walk) :
    (tlbFill s core e c va w).mem = s.mem := rfl
theorem translateAs_wf (s t : State) (core : Fin 96) (e : EngId) (c : Ctx) (l1 : Nat) (va : Word) (acc : Access)
    (w : Leaf) (h : translateAs s core e c l1 va acc = .ok (t, w)) (hm : Memory.wf s.mem = true) :
    Memory.wf t.mem = true := by
  simp only [translateAs] at h
  split at h
  · cases h
  · split at h
    · cases h
    · split at h
      · cases h
      · split at h
        · cases h
        · obtain ⟨rfl, -⟩ := Prod.mk.inj (Except.ok.inj h)
          apply setAccessed_wf
          split <;> exact hm

/-- Memory after reset is canonical. -/
theorem reset_wf : Memory.wf State.reset.mem = true := by decide

end Sys2Proof.Machine
end

