-- ==== Sys2Proof/Laws/Ops.lean ====
section
/-! SUPPORT. Laws/Ops.lean: the shared courses of words: each answers a next state, and what that state is in each case. -/

namespace Sys2Proof.Machine

/-! Control words. -/

theorem control_next (i : Instr) (feat priv : Bool) (g : Guard) (srcs : List Src) (body : State → Res) (s : State) :
    ∃ t, control i feat priv g srcs body s = .next t := by
  unfold control
  split
  · exact ⟨_, rfl⟩
  · split
    · exact ⟨_, rfl⟩
    · split
      · exact ⟨_, rfl⟩
      · split <;> exact ⟨_, rfl⟩

/-- A word that is in force and privileged enough, whose guard holds and whose sources are live, runs its body. -/
theorem control_run (i : Instr) (feat priv : Bool) (g : Guard) (srcs : List Src) (body : State → Res) (s : State)
    (hf : feat = true) (hp : priv = false ∨ ctxPriv s (curSlot s).ctx = true) (hg : (curSlot s).guard g = true)
    (hd : firstDead (curSlot s) srcs = none) :
    control i feat priv g srcs body s = .next ((body (bodyState s srcs)).finish s i) := by
  unfold control
  subst hf
  rcases hp with hp | hp <;> simp [hp, hg, hd]

/-- A word whose guard is false only advances PC (R137). -/
theorem control_skip (i : Instr) (feat priv : Bool) (g : Guard) (srcs : List Src) (body : State → Res) (s : State)
    (hf : feat = true) (hp : priv = false ∨ ctxPriv s (curSlot s).ctx = true) (hg : (curSlot s).guard g = false) :
    control i feat priv g srcs body s = .next (modCur s (fun x => { x with pc := x.pc + 8, wait := none })) := by
  unfold control
  subst hf
  rcases hp with hp | hp <;> simp [hp, hg]

/-- A word of a feature that is not in force is illegal (R4, R141). -/
theorem control_illegal (i : Instr) (priv : Bool) (g : Guard) (srcs : List Src) (body : State → Res) (s : State) :
    control i false priv g srcs body s = .next (controlFault s (0x01, wordOf i)) := by
  simp [control]

/-- A privileged word of a context that is not privileged raises the privilege fault (R114, R141). -/
theorem control_unprivileged (i : Instr) (g : Guard) (srcs : List Src) (body : State → Res) (s : State)
    (hp : ctxPriv s (curSlot s).ctx = false) :
    control i true true g srcs body s = .next (controlFault s (0x02, wordOf i)) := by
  simp [control, hp]

/-- A dead source faults (R138). -/
theorem control_dead (i : Instr) (feat priv : Bool) (g : Guard) (srcs : List Src) (body : State → Res) (s : State) (f : FCode)
    (hf : feat = true) (hp : priv = false ∨ ctxPriv s (curSlot s).ctx = true) (hg : (curSlot s).guard g = true)
    (hd : firstDead (curSlot s) srcs = some f) :
    control i feat priv g srcs body s = .next (controlFault s f) := by
  unfold control
  subst hf
  rcases hp with hp | hp <;> simp [hp, hg, hd]

@[simp] theorem bodyState_eq (s : State) (srcs : List Src) :
    bodyState s srcs = setSlot s s.cur.slot { (getSlot s s.cur.slot).markDead srcs with pc := (getSlot s s.cur.slot).pc + 8, wait := none } := by
  simp [bodyState, modCur, modSlot]
@[simp] theorem curSlot_setSlot (s : State) (x : Slot) : curSlot (setSlot s s.cur.slot x) = x := by
  simp [curSlot]
theorem put_eq (s : State) (sd : Reg) (v : Word) : put s sd v = setSlot s s.cur.slot ((getSlot s s.cur.slot).writeS sd v) := rfl

/-- The sources of a word stand in its body as before it: no dead bit changes a value, or poison. -/
theorem firstPoison_markDead (x : Slot) (srcs marks : List Src) (pc : Word) (w : Option Instr) :
    firstPoison { x.markDead marks with pc := pc, wait := w } srcs = firstPoison x srcs := by
  obtain ⟨d, hd⟩ := x.markDead_dead_only marks
  rw [hd]; rfl

theorem consuming_run (srcs : List Src) (body : State → Res) (s : State) (h : firstPoison (curSlot s) srcs = none) :
    consuming srcs body s = body s := by
  simp [consuming, h]
theorem consuming_poisoned (srcs : List Src) (body : State → Res) (s : State) (f : FCode)
    (h : firstPoison (curSlot s) srcs = some f) : consuming srcs body s = .fault f := by
  simp [consuming, h]

/-- The usual word runs its body, in the state with its last-use bits applied and PC at the next word. -/
theorem plain_run (i : Instr) (g : Guard) (srcs : List Src) (body : State → Res) (s : State)
    (hg : (curSlot s).guard g = true) (hd : firstDead (curSlot s) srcs = none) (hp : firstPoison (curSlot s) srcs = none) :
    plain i g srcs body s = .next ((body (bodyState s srcs)).finish s i) := by
  unfold plain
  rw [control_run _ _ _ _ _ _ _ rfl (.inl rfl) hg hd, consuming_run]
  have : curSlot (bodyState s srcs) = { (curSlot s).markDead srcs with pc := (curSlot s).pc + 8, wait := none } := by
    rw [bodyState_eq, curSlot_setSlot]; rfl
  rw [this, firstPoison_markDead]; exact hp
theorem plain_next (i : Instr) (g : Guard) (srcs : List Src) (body : State → Res) (s : State) :
    ∃ t, plain i g srcs body s = .next t := control_next ..

/-- A poisoned source of a word that consumes it faults (R160, R181). -/
theorem plain_poisoned (i : Instr) (g : Guard) (srcs : List Src) (body : State → Res) (s : State) (f : FCode)
    (hg : (curSlot s).guard g = true) (hd : firstDead (curSlot s) srcs = none) (hp : firstPoison (curSlot s) srcs = some f) :
    plain i g srcs body s = .next ((Res.fault f).finish s i) := by
  unfold plain
  rw [control_run _ _ _ _ _ _ _ rfl (.inl rfl) hg hd, consuming_poisoned (f := f)]
  have : curSlot (bodyState s srcs) = { (curSlot s).markDead srcs with pc := (curSlot s).pc + 8, wait := none } := by
    rw [bodyState_eq, curSlot_setSlot]; rfl
  rw [this, firstPoison_markDead]; exact hp

/-! Arithmetic words. -/

theorem alu_run (i : Instr) (g : Guard) (sd : Reg) (srcs : List Src) (f : Slot → Word) (s : State)
    (hg : (curSlot s).guard g = true) (hd : firstDead (curSlot s) srcs = none) (hp : firstPoison (curSlot s) srcs = none) :
    alu i g sd srcs f s = .next (setSlot s s.cur.slot
      (({ (curSlot s).markDead srcs with pc := (curSlot s).pc + 8, wait := none } : Slot).writeS sd
        (f { (curSlot s).markDead srcs with pc := (curSlot s).pc + 8, wait := none }))) := by
  unfold alu
  rw [control_run _ _ _ _ _ _ _ rfl (.inl rfl) hg hd]
  have hc : curSlot (bodyState s srcs) = { (curSlot s).markDead srcs with pc := (curSlot s).pc + 8, wait := none } := by
    rw [bodyState_eq, curSlot_setSlot]; rfl
  rw [hc, firstPoison_markDead, hp]
  simp [Res.finish, put_eq, curSlot]
theorem alu_poisoned (i : Instr) (g : Guard) (sd : Reg) (srcs : List Src) (f : Slot → Word) (s : State)
    (hg : (curSlot s).guard g = true) (hd : firstDead (curSlot s) srcs = none)
    (hp : (firstPoison (curSlot s) srcs).isSome = true) :
    alu i g sd srcs f s = .next (setSlot s s.cur.slot
      (({ (curSlot s).markDead srcs with pc := (curSlot s).pc + 8, wait := none } : Slot).writePoison sd)) := by
  unfold alu
  rw [control_run _ _ _ _ _ _ _ rfl (.inl rfl) hg hd]
  have hc : curSlot (bodyState s srcs) = { (curSlot s).markDead srcs with pc := (curSlot s).pc + 8, wait := none } := by
    rw [bodyState_eq, curSlot_setSlot]; rfl
  rw [hc, firstPoison_markDead, hp]
  simp [Res.finish, modCur, modSlot, curSlot]

/-! Engine words. -/

theorem engineWord_next (i : Instr) (legal : Bool) (pops pushes : Nat)
    (body : State → SlotId → Fin 4 → EngStream → List Word → ERes) (s : State) :
    ∃ t, engineWord i legal pops pushes body s = .next t := by
  unfold engineWord
  split
  · exact ⟨_, rfl⟩
  · dsimp only
    split
    · exact ⟨_, rfl⟩
    · split
      · exact ⟨_, rfl⟩
      · split <;> exact ⟨_, rfl⟩

theorem stackWord_next (i : Instr) (pops pushed : Nat) (f : EngStream → List Word → List Word) (s : State) :
    ∃ t, stackWord i pops pushed f s = .next t := engineWord_next ..

/-- A word that turns popped values into pushed ones: the stack changes, and PC goes to the next word or round a loop. -/
theorem stackWord_run (i : Instr) (pops pushed : Nat) (f : EngStream → List Word → List Word) (s : State) (e : Fin 4)
    (he : curEng s = some e) (hd : pops ≤ (getEng s s.cur.slot e).stack.length)
    (hr : (getEng s s.cur.slot e).stack.length - pops + pushed ≤ 8) :
    stackWord i pops pushed f s = .next (moveOn (Machine.pushes
      (setEng s s.cur.slot e { getEng s s.cur.slot e with stack := (getEng s s.cur.slot e).stack.drop pops }) s.cur.slot e
        (f (getEng s s.cur.slot e) ((getEng s s.cur.slot e).stack.take pops))) s.cur.slot e false
      ((getEng s s.cur.slot e).pc + 2)) := by
  have h : ¬ ((getEng s s.cur.slot e).stack.length < pops ∨ (getEng s s.cur.slot e).stack.length - pops + pushed > 8) := by
    omega
  simp only [stackWord, engineWord, he, Bool.not_true, Bool.false_eq_true, if_false, h]

theorem launchWord_next (i : Instr) (legal : Bool) (pops : Nat) (far : Bool)
    (check : State → SlotId → EngStream → List Word → Option FCode) (reach : State → SlotId → List Word → Reach)
    (prepare : State → SlotId → Fin 4 → List Word → State × Option Word × BitVec 3) (s : State) :
    ∃ t, launchWord i legal pops far check reach prepare s = .next t := engineWord_next ..

/-! Words of the die units. -/

theorem unitWord_next (i : Instr) (feat : Bool) (g : Guard) (pre : State → List Word → Except FCode (Die ⊕ Word))
    (unit : UnitKind) (serve : Die → SlotId → List Word → UnitM Word) (s : State) :
    ∃ t, unitWord i feat g pre unit serve s = .next t := by
  unfold unitWord
  split
  · exact ⟨_, rfl⟩
  · exact control_next ..

/-! The commands' answers. -/

@[simp] theorem answer_eq (s : State) (code : Nat) : answer s code = .next (finishCmd s code 0) := rfl

end Sys2Proof.Machine
end

