-- ==== Sys2Proof/Laws/PerInstr.lean ====
section
/-! SUPPORT. Laws/PerInstr.lean: for each constructor, that the reader of its width finds the instruction in the word that the
encoder writes (the family Reads). -/

namespace Sys2Proof.Laws

/-- The word of an instruction is read as that instruction, before the checks of R141 and R148. -/
def Reads.Statement (i : Instr) : Prop :=
  (∀ w, encodeControl i = some w → candidateControl w = some i) ∧ (∀ w, encodeEngine i = some w → candidateEngine w = some i)

theorem reads_of_control {i : Instr} {w : BitVec 64} (h : encodeControl i = some w) (n : encodeEngine i = none)
    (r : candidateControl w = some i) : Reads.Statement i :=
  ⟨fun v e => by rw [h] at e; obtain rfl := Option.some.inj e; exact r, fun v e => absurd (n.symm.trans e) nofun⟩

theorem reads_of_engine {i : Instr} {w : BitVec 16} (n : encodeControl i = none) (h : encodeEngine i = some w)
    (r : candidateEngine w = some i) : Reads.Statement i :=
  ⟨fun v e => absurd (n.symm.trans e) nofun, fun v e => by rw [h] at e; obtain rfl := Option.some.inj e; exact r⟩

/-- A command or an event has no word. -/
theorem reads_of_none {i : Instr} (n : encodeControl i = none) (m : encodeEngine i = none) : Reads.Statement i :=
  ⟨fun v e => absurd (n.symm.trans e) nofun, fun v e => absurd (m.symm.trans e) nofun⟩


theorem Reads.nop : ∀ g, Reads.Statement (.nop g) :=
  fun g => reads_of_control rfl rfl (by
    unfold candidateControl
    rw [fOp_packE]
    change some (Instr.nop (fGuard _)) = _
    rw [fGuard_packE])

theorem Reads.add : ∀ g sd a b, Reads.Statement (.add g sd a b) :=
  fun g sd a b => reads_of_control rfl rfl (by
    unfold candidateControl
    rw [fOp_packE]
    change some (Instr.add (fGuard _) (fSd _) (fA _) (fB _)) = _
    rw [fGuard_packE, fSd_packE, fA_packE, fB_packE])

theorem Reads.sub : ∀ g sd a b, Reads.Statement (.sub g sd a b) :=
  fun g sd a b => reads_of_control rfl rfl (by
    unfold candidateControl
    rw [fOp_packE]
    change some (Instr.sub (fGuard _) (fSd _) (fA _) (fB _)) = _
    rw [fGuard_packE, fSd_packE, fA_packE, fB_packE])

theorem Reads.mul : ∀ g sd a b, Reads.Statement (.mul g sd a b) :=
  fun g sd a b => reads_of_control rfl rfl (by
    unfold candidateControl
    rw [fOp_packE]
    change some (Instr.mul (fGuard _) (fSd _) (fA _) (fB _)) = _
    rw [fGuard_packE, fSd_packE, fA_packE, fB_packE])

theorem Reads.mulh : ∀ g sd a b, Reads.Statement (.mulh g sd a b) :=
  fun g sd a b => reads_of_control rfl rfl (by
    unfold candidateControl
    rw [fOp_packE]
    change some (Instr.mulh (fGuard _) (fSd _) (fA _) (fB _)) = _
    rw [fGuard_packE, fSd_packE, fA_packE, fB_packE])

theorem Reads.mulhu : ∀ g sd a b, Reads.Statement (.mulhu g sd a b) :=
  fun g sd a b => reads_of_control rfl rfl (by
    unfold candidateControl
    rw [fOp_packE]
    change some (Instr.mulhu (fGuard _) (fSd _) (fA _) (fB _)) = _
    rw [fGuard_packE, fSd_packE, fA_packE, fB_packE])

theorem Reads.div : ∀ g sd a b, Reads.Statement (.div g sd a b) :=
  fun g sd a b => reads_of_control rfl rfl (by
    unfold candidateControl
    rw [fOp_packE]
    change some (Instr.div (fGuard _) (fSd _) (fA _) (fB _)) = _
    rw [fGuard_packE, fSd_packE, fA_packE, fB_packE])

theorem Reads.divu : ∀ g sd a b, Reads.Statement (.divu g sd a b) :=
  fun g sd a b => reads_of_control rfl rfl (by
    unfold candidateControl
    rw [fOp_packE]
    change some (Instr.divu (fGuard _) (fSd _) (fA _) (fB _)) = _
    rw [fGuard_packE, fSd_packE, fA_packE, fB_packE])

theorem Reads.rem : ∀ g sd a b, Reads.Statement (.rem g sd a b) :=
  fun g sd a b => reads_of_control rfl rfl (by
    unfold candidateControl
    rw [fOp_packE]
    change some (Instr.rem (fGuard _) (fSd _) (fA _) (fB _)) = _
    rw [fGuard_packE, fSd_packE, fA_packE, fB_packE])

theorem Reads.remu : ∀ g sd a b, Reads.Statement (.remu g sd a b) :=
  fun g sd a b => reads_of_control rfl rfl (by
    unfold candidateControl
    rw [fOp_packE]
    change some (Instr.remu (fGuard _) (fSd _) (fA _) (fB _)) = _
    rw [fGuard_packE, fSd_packE, fA_packE, fB_packE])

theorem Reads.and : ∀ g sd a b, Reads.Statement (.and g sd a b) :=
  fun g sd a b => reads_of_control rfl rfl (by
    unfold candidateControl
    rw [fOp_packE]
    change some (Instr.and (fGuard _) (fSd _) (fA _) (fB _)) = _
    rw [fGuard_packE, fSd_packE, fA_packE, fB_packE])

theorem Reads.or : ∀ g sd a b, Reads.Statement (.or g sd a b) :=
  fun g sd a b => reads_of_control rfl rfl (by
    unfold candidateControl
    rw [fOp_packE]
    change some (Instr.or (fGuard _) (fSd _) (fA _) (fB _)) = _
    rw [fGuard_packE, fSd_packE, fA_packE, fB_packE])

theorem Reads.xor : ∀ g sd a b, Reads.Statement (.xor g sd a b) :=
  fun g sd a b => reads_of_control rfl rfl (by
    unfold candidateControl
    rw [fOp_packE]
    change some (Instr.xor (fGuard _) (fSd _) (fA _) (fB _)) = _
    rw [fGuard_packE, fSd_packE, fA_packE, fB_packE])

theorem Reads.andn : ∀ g sd a b, Reads.Statement (.andn g sd a b) :=
  fun g sd a b => reads_of_control rfl rfl (by
    unfold candidateControl
    rw [fOp_packE]
    change some (Instr.andn (fGuard _) (fSd _) (fA _) (fB _)) = _
    rw [fGuard_packE, fSd_packE, fA_packE, fB_packE])

theorem Reads.shl : ∀ g sd a b, Reads.Statement (.shl g sd a b) :=
  fun g sd a b => reads_of_control rfl rfl (by
    unfold candidateControl
    rw [fOp_packE]
    change some (Instr.shl (fGuard _) (fSd _) (fA _) (fB _)) = _
    rw [fGuard_packE, fSd_packE, fA_packE, fB_packE])

theorem Reads.shr : ∀ g sd a b, Reads.Statement (.shr g sd a b) :=
  fun g sd a b => reads_of_control rfl rfl (by
    unfold candidateControl
    rw [fOp_packE]
    change some (Instr.shr (fGuard _) (fSd _) (fA _) (fB _)) = _
    rw [fGuard_packE, fSd_packE, fA_packE, fB_packE])

theorem Reads.sra : ∀ g sd a b, Reads.Statement (.sra g sd a b) :=
  fun g sd a b => reads_of_control rfl rfl (by
    unfold candidateControl
    rw [fOp_packE]
    change some (Instr.sra (fGuard _) (fSd _) (fA _) (fB _)) = _
    rw [fGuard_packE, fSd_packE, fA_packE, fB_packE])

theorem Reads.ror : ∀ g sd a b, Reads.Statement (.ror g sd a b) :=
  fun g sd a b => reads_of_control rfl rfl (by
    unfold candidateControl
    rw [fOp_packE]
    change some (Instr.ror (fGuard _) (fSd _) (fA _) (fB _)) = _
    rw [fGuard_packE, fSd_packE, fA_packE, fB_packE])

theorem Reads.min : ∀ g sd a b, Reads.Statement (.min g sd a b) :=
  fun g sd a b => reads_of_control rfl rfl (by
    unfold candidateControl
    rw [fOp_packE]
    change some (Instr.min (fGuard _) (fSd _) (fA _) (fB _)) = _
    rw [fGuard_packE, fSd_packE, fA_packE, fB_packE])

theorem Reads.max : ∀ g sd a b, Reads.Statement (.max g sd a b) :=
  fun g sd a b => reads_of_control rfl rfl (by
    unfold candidateControl
    rw [fOp_packE]
    change some (Instr.max (fGuard _) (fSd _) (fA _) (fB _)) = _
    rw [fGuard_packE, fSd_packE, fA_packE, fB_packE])

theorem Reads.minu : ∀ g sd a b, Reads.Statement (.minu g sd a b) :=
  fun g sd a b => reads_of_control rfl rfl (by
    unfold candidateControl
    rw [fOp_packE]
    change some (Instr.minu (fGuard _) (fSd _) (fA _) (fB _)) = _
    rw [fGuard_packE, fSd_packE, fA_packE, fB_packE])

theorem Reads.maxu : ∀ g sd a b, Reads.Statement (.maxu g sd a b) :=
  fun g sd a b => reads_of_control rfl rfl (by
    unfold candidateControl
    rw [fOp_packE]
    change some (Instr.maxu (fGuard _) (fSd _) (fA _) (fB _)) = _
    rw [fGuard_packE, fSd_packE, fA_packE, fB_packE])

theorem Reads.clz : ∀ g sd a, Reads.Statement (.clz g sd a) :=
  fun g sd a => reads_of_control rfl rfl (by
    unfold candidateControl
    rw [fOp_packE]
    change some (Instr.clz (fGuard _) (fSd _) (fA _)) = _
    rw [fGuard_packE, fSd_packE, fA_packE])

theorem Reads.ctz : ∀ g sd a, Reads.Statement (.ctz g sd a) :=
  fun g sd a => reads_of_control rfl rfl (by
    unfold candidateControl
    rw [fOp_packE]
    change some (Instr.ctz (fGuard _) (fSd _) (fA _)) = _
    rw [fGuard_packE, fSd_packE, fA_packE])

theorem Reads.popc : ∀ g sd a, Reads.Statement (.popc g sd a) :=
  fun g sd a => reads_of_control rfl rfl (by
    unfold candidateControl
    rw [fOp_packE]
    change some (Instr.popc (fGuard _) (fSd _) (fA _)) = _
    rw [fGuard_packE, fSd_packE, fA_packE])

theorem Reads.bext : ∀ g sd a b c, Reads.Statement (.bext g sd a b c) :=
  fun g sd a b c => reads_of_control rfl rfl (by
    unfold candidateControl
    rw [fOp_packE]
    change some (Instr.bext (fGuard _) (fSd _) (fA _) (fB _) (fC _)) = _
    rw [fGuard_packE, fSd_packE, fA_packE, fB_packE, fC_packE])

theorem Reads.bins : ∀ g sd a b c, Reads.Statement (.bins g sd a b c) :=
  fun g sd a b c => reads_of_control rfl rfl (by
    unfold candidateControl
    rw [fOp_packE]
    change some (Instr.bins (fGuard _) (fSd _) (fA _) (fB _) (fC _)) = _
    rw [fGuard_packE, fSd_packE, fA_packE, fB_packE, fC_packE])

theorem Reads.sel : ∀ g sd p a b, Reads.Statement (.sel g sd p a b) :=
  fun g sd p a b => reads_of_control rfl rfl (by
    unfold candidateControl
    rw [fOp_packE]
    change some (Instr.sel (fGuard _) (fSd _) (fPd _) (fA _) (fB _)) = _
    simp only [fPd]
    rw [fGuard_packE, fSd_packE, fA_packE, fB_packE]
    repeat rw [ext_packE _ _ _ _ _ _ _ _ _ (by decide)]
    repeat (first | rw [ext_append_high _ _ _ _ (by decide)] | rw [ext_append_low _ _ _ _ (by decide)])
    simp only [ext_self, Nat.reduceSub])

theorem Reads.madd : ∀ g sd a b c, Reads.Statement (.madd g sd a b c) :=
  fun g sd a b c => reads_of_control rfl rfl (by
    unfold candidateControl
    rw [fOp_packE]
    change some (Instr.madd (fGuard _) (fSd _) (fA _) (fB _) (fC _)) = _
    rw [fGuard_packE, fSd_packE, fA_packE, fB_packE, fC_packE])

theorem Reads.addi : ∀ g sd a imm, Reads.Statement (.addi g sd a imm) :=
  fun g sd a imm => reads_of_control rfl rfl (by
    unfold candidateControl
    rw [fOp_packI]
    change some (Instr.addi (fGuard _) (fSd _) (fA _) (fImm32 _)) = _
    rw [fGuard_packI, fSd_packI, fA_packI, fImm32_packI])

theorem Reads.andi : ∀ g sd a imm, Reads.Statement (.andi g sd a imm) :=
  fun g sd a imm => reads_of_control rfl rfl (by
    unfold candidateControl
    rw [fOp_packI]
    change some (Instr.andi (fGuard _) (fSd _) (fA _) (fImm32 _)) = _
    rw [fGuard_packI, fSd_packI, fA_packI, fImm32_packI])

theorem Reads.ori : ∀ g sd a imm, Reads.Statement (.ori g sd a imm) :=
  fun g sd a imm => reads_of_control rfl rfl (by
    unfold candidateControl
    rw [fOp_packI]
    change some (Instr.ori (fGuard _) (fSd _) (fA _) (fImm32 _)) = _
    rw [fGuard_packI, fSd_packI, fA_packI, fImm32_packI])

theorem Reads.xori : ∀ g sd a imm, Reads.Statement (.xori g sd a imm) :=
  fun g sd a imm => reads_of_control rfl rfl (by
    unfold candidateControl
    rw [fOp_packI]
    change some (Instr.xori (fGuard _) (fSd _) (fA _) (fImm32 _)) = _
    rw [fGuard_packI, fSd_packI, fA_packI, fImm32_packI])

theorem Reads.shli : ∀ g sd a imm, Reads.Statement (.shli g sd a imm) :=
  fun g sd a imm => reads_of_control rfl rfl (by
    unfold candidateControl
    rw [fOp_packI]
    change some (Instr.shli (fGuard _) (fSd _) (fA _) (fImm32 _)) = _
    rw [fGuard_packI, fSd_packI, fA_packI, fImm32_packI])

theorem Reads.shri : ∀ g sd a imm, Reads.Statement (.shri g sd a imm) :=
  fun g sd a imm => reads_of_control rfl rfl (by
    unfold candidateControl
    rw [fOp_packI]
    change some (Instr.shri (fGuard _) (fSd _) (fA _) (fImm32 _)) = _
    rw [fGuard_packI, fSd_packI, fA_packI, fImm32_packI])

theorem Reads.srai : ∀ g sd a imm, Reads.Statement (.srai g sd a imm) :=
  fun g sd a imm => reads_of_control rfl rfl (by
    unfold candidateControl
    rw [fOp_packI]
    change some (Instr.srai (fGuard _) (fSd _) (fA _) (fImm32 _)) = _
    rw [fGuard_packI, fSd_packI, fA_packI, fImm32_packI])

theorem Reads.muli : ∀ g sd a imm, Reads.Statement (.muli g sd a imm) :=
  fun g sd a imm => reads_of_control rfl rfl (by
    unfold candidateControl
    rw [fOp_packI]
    change some (Instr.muli (fGuard _) (fSd _) (fA _) (fImm32 _)) = _
    rw [fGuard_packI, fSd_packI, fA_packI, fImm32_packI])

theorem Reads.movi : ∀ g sd imm, Reads.Statement (.movi g sd imm) :=
  fun g sd imm => reads_of_control rfl rfl (by
    unfold candidateControl
    rw [fOp_packI]
    change some (Instr.movi (fGuard _) (fSd _) (fImm32 _)) = _
    rw [fGuard_packI, fSd_packI, fImm32_packI])

theorem Reads.movhi : ∀ g sd a imm, Reads.Statement (.movhi g sd a imm) :=
  fun g sd a imm => reads_of_control rfl rfl (by
    unfold candidateControl
    rw [fOp_packI]
    change some (Instr.movhi (fGuard _) (fSd _) (fA _) (fImm32 _)) = _
    rw [fGuard_packI, fSd_packI, fA_packI, fImm32_packI])

theorem Reads.leapc : ∀ g sd imm, Reads.Statement (.leapc g sd imm) :=
  fun g sd imm => reads_of_control rfl rfl (by
    unfold candidateControl
    rw [fOp_packI]
    change some (Instr.leapc (fGuard _) (fSd _) (fImm32 _)) = _
    rw [fGuard_packI, fSd_packI, fImm32_packI])

theorem Reads.cmp : ∀ g pd pe cc a b, Reads.Statement (.cmp g pd pe cc a b) :=
  fun g pd pe cc a b => reads_of_control rfl rfl (by
    unfold candidateControl
    rw [fOp_packP]
    change some (Instr.cmp (fGuard _) (fPPd _) (fPPe _) (fPCc _) (fPA _) (fPB _)) = _
    rw [fGuard_packP, fPPd_packP, fPPe_packP, fPCc_packP, fPA_packP, fPB_packP])

theorem Reads.cmpi : ∀ g pd pe cc a imm, Reads.Statement (.cmpi g pd pe cc a imm) :=
  fun g pd pe cc a imm => reads_of_control rfl rfl (by
    unfold candidateControl
    rw [fOp_packPI]
    change some (Instr.cmpi (fGuard _) (fPPd _) (fPPe _) (fPiCc _) (fPA _) (fImm21 _)) = _
    rw [fGuard_packPI, fPPd_packPI, fPPe_packPI, fPiCc_packPI, fPA_packPI, fImm21_packPI])

theorem Reads.fcmp : ∀ g pd pe cc d a b, Reads.Statement (.fcmp g pd pe cc d a b) :=
  fun g pd pe cc d a b => reads_of_control rfl rfl (by
    unfold candidateControl
    rw [fOp_packP]
    change some (Instr.fcmp (fGuard _) (fPPd _) (fPPe _) (fPCc _) (fPD _) (fPA _) (fPB _)) = _
    rw [fGuard_packP, fPPd_packP, fPPe_packP, fPCc_packP, fPD_packP, fPA_packP, fPB_packP])

theorem Reads.pand : ∀ g pd pa pb na nb, Reads.Statement (.pand g pd pa pb na nb) :=
  fun g pd pa pb na nb => reads_of_control rfl rfl (by
    unfold candidateControl
    rw [fOp_packQ]
    change some (Instr.pand (fGuard _) (fPPd _) (fPPe _) (fQPb _) (fQNa _) (fQNb _)) = _
    rw [fGuard_packQ, fPPd_packQ, fPPe_packQ, fQPb_packQ, fQNa_packQ, fQNb_packQ])

theorem Reads.por : ∀ g pd pa pb na nb, Reads.Statement (.por g pd pa pb na nb) :=
  fun g pd pa pb na nb => reads_of_control rfl rfl (by
    unfold candidateControl
    rw [fOp_packQ]
    change some (Instr.por (fGuard _) (fPPd _) (fPPe _) (fQPb _) (fQNa _) (fQNb _)) = _
    rw [fGuard_packQ, fPPd_packQ, fPPe_packQ, fQPb_packQ, fQNa_packQ, fQNb_packQ])

theorem Reads.pxor : ∀ g pd pa pb na nb, Reads.Statement (.pxor g pd pa pb na nb) :=
  fun g pd pa pb na nb => reads_of_control rfl rfl (by
    unfold candidateControl
    rw [fOp_packQ]
    change some (Instr.pxor (fGuard _) (fPPd _) (fPPe _) (fQPb _) (fQNa _) (fQNb _)) = _
    rw [fGuard_packQ, fPPd_packQ, fPPe_packQ, fQPb_packQ, fQNa_packQ, fQNb_packQ])

theorem Reads.pget : ∀ g sd grp, Reads.Statement (.pget g sd grp) :=
  fun g sd grp => reads_of_control rfl rfl (by
    unfold candidateControl
    rw [fOp_packS]
    change some (Instr.pget (fGuard _) (fSd _) (fSGrp _)) = _
    simp only [fSGrp]
    rw [fGuard_packS, fSd_packS]
    rw [bit_packS _ _ _ _ _ _ _ (by decide)]
    repeat (first | rw [bit_append_high _ _ _ (by decide)] | rw [bit_append_low _ _ _ (by decide)])
    simp only [bit_self, Nat.reduceSub])

theorem Reads.pput : ∀ g grp a, Reads.Statement (.pput g grp a) :=
  fun g grp a => reads_of_control rfl rfl (by
    unfold candidateControl
    rw [fOp_packS]
    change some (Instr.pput (fGuard _) (fSGrp _) (fA _)) = _
    simp only [fSGrp]
    rw [fGuard_packS, fA_packS]
    rw [bit_packS _ _ _ _ _ _ _ (by decide)]
    repeat (first | rw [bit_append_high _ _ _ (by decide)] | rw [bit_append_low _ _ _ (by decide)])
    simp only [bit_self, Nat.reduceSub])

theorem Reads.br : ∀ g off, Reads.Statement (.br g off) :=
  fun g off => reads_of_control rfl rfl (by
    unfold candidateControl
    rw [fOp_packB]
    change some (Instr.br (fGuard _) (fOff46 _)) = _
    rw [fGuard_packB, fOff46_packB])

theorem Reads.call : ∀ g off, Reads.Statement (.call g off) :=
  fun g off => reads_of_control rfl rfl (by
    unfold candidateControl
    rw [fOp_packB]
    change some (Instr.call (fGuard _) (fOff46 _)) = _
    rw [fGuard_packB, fOff46_packB])

theorem Reads.jmp : ∀ g a, Reads.Statement (.jmp g a) :=
  fun g a => reads_of_control rfl rfl (by
    unfold candidateControl
    rw [fOp_packE]
    change some (Instr.jmp (fGuard _) (fA _)) = _
    rw [fGuard_packE, fA_packE])

theorem Reads.callr : ∀ g sd a, Reads.Statement (.callr g sd a) :=
  fun g sd a => reads_of_control rfl rfl (by
    unfold candidateControl
    rw [fOp_packE]
    change some (Instr.callr (fGuard _) (fSd _) (fA _)) = _
    rw [fGuard_packE, fSd_packE, fA_packE])

theorem Reads.dbnz : ∀ g sd a imm, Reads.Statement (.dbnz g sd a imm) :=
  fun g sd a imm => reads_of_control rfl rfl (by
    unfold candidateControl
    rw [fOp_packI]
    change some (Instr.dbnz (fGuard _) (fSd _) (fA _) (fImm32 _)) = _
    rw [fGuard_packI, fSd_packI, fA_packI, fImm32_packI])

theorem Reads.fadd : ∀ g sd rm d a b, Reads.Statement (.fadd g sd rm d a b) :=
  fun g sd rm d a b => reads_of_control rfl rfl (by
    unfold candidateControl
    rw [fOp_packE]
    change some (Instr.fadd (fGuard _) (fSd _) (fRm _) (fD _) (fA _) (fB _)) = _
    simp only [fRm, fD]
    rw [fGuard_packE, fSd_packE, fA_packE, fB_packE]
    repeat rw [ext_packE _ _ _ _ _ _ _ _ _ (by decide)]
    repeat (first | rw [ext_append_high _ _ _ _ (by decide)] | rw [ext_append_low _ _ _ _ (by decide)])
    repeat rw [bit_packE _ _ _ _ _ _ _ _ (by decide)]
    repeat (first | rw [bit_append_high _ _ _ (by decide)] | rw [bit_append_low _ _ _ (by decide)])
    simp only [ext_self, bit_self, Nat.reduceSub])

theorem Reads.fsub : ∀ g sd rm d a b, Reads.Statement (.fsub g sd rm d a b) :=
  fun g sd rm d a b => reads_of_control rfl rfl (by
    unfold candidateControl
    rw [fOp_packE]
    change some (Instr.fsub (fGuard _) (fSd _) (fRm _) (fD _) (fA _) (fB _)) = _
    simp only [fRm, fD]
    rw [fGuard_packE, fSd_packE, fA_packE, fB_packE]
    repeat rw [ext_packE _ _ _ _ _ _ _ _ _ (by decide)]
    repeat (first | rw [ext_append_high _ _ _ _ (by decide)] | rw [ext_append_low _ _ _ _ (by decide)])
    repeat rw [bit_packE _ _ _ _ _ _ _ _ (by decide)]
    repeat (first | rw [bit_append_high _ _ _ (by decide)] | rw [bit_append_low _ _ _ (by decide)])
    simp only [ext_self, bit_self, Nat.reduceSub])

theorem Reads.fmul : ∀ g sd rm d a b, Reads.Statement (.fmul g sd rm d a b) :=
  fun g sd rm d a b => reads_of_control rfl rfl (by
    unfold candidateControl
    rw [fOp_packE]
    change some (Instr.fmul (fGuard _) (fSd _) (fRm _) (fD _) (fA _) (fB _)) = _
    simp only [fRm, fD]
    rw [fGuard_packE, fSd_packE, fA_packE, fB_packE]
    repeat rw [ext_packE _ _ _ _ _ _ _ _ _ (by decide)]
    repeat (first | rw [ext_append_high _ _ _ _ (by decide)] | rw [ext_append_low _ _ _ _ (by decide)])
    repeat rw [bit_packE _ _ _ _ _ _ _ _ (by decide)]
    repeat (first | rw [bit_append_high _ _ _ (by decide)] | rw [bit_append_low _ _ _ (by decide)])
    simp only [ext_self, bit_self, Nat.reduceSub])

theorem Reads.ffma : ∀ g sd rm d a b c, Reads.Statement (.ffma g sd rm d a b c) :=
  fun g sd rm d a b c => reads_of_control rfl rfl (by
    unfold candidateControl
    rw [fOp_packE]
    change some (Instr.ffma (fGuard _) (fSd _) (fRm _) (fD _) (fA _) (fB _) (fC _)) = _
    simp only [fRm, fD]
    rw [fGuard_packE, fSd_packE, fA_packE, fB_packE, fC_packE]
    repeat rw [ext_packE _ _ _ _ _ _ _ _ _ (by decide)]
    repeat (first | rw [ext_append_high _ _ _ _ (by decide)] | rw [ext_append_low _ _ _ _ (by decide)])
    repeat rw [bit_packE _ _ _ _ _ _ _ _ (by decide)]
    repeat (first | rw [bit_append_high _ _ _ (by decide)] | rw [bit_append_low _ _ _ (by decide)])
    simp only [ext_self, bit_self, Nat.reduceSub])

theorem Reads.fdiv : ∀ g sd rm d a b, Reads.Statement (.fdiv g sd rm d a b) :=
  fun g sd rm d a b => reads_of_control rfl rfl (by
    unfold candidateControl
    rw [fOp_packE]
    change some (Instr.fdiv (fGuard _) (fSd _) (fRm _) (fD _) (fA _) (fB _)) = _
    simp only [fRm, fD]
    rw [fGuard_packE, fSd_packE, fA_packE, fB_packE]
    repeat rw [ext_packE _ _ _ _ _ _ _ _ _ (by decide)]
    repeat (first | rw [ext_append_high _ _ _ _ (by decide)] | rw [ext_append_low _ _ _ _ (by decide)])
    repeat rw [bit_packE _ _ _ _ _ _ _ _ (by decide)]
    repeat (first | rw [bit_append_high _ _ _ (by decide)] | rw [bit_append_low _ _ _ (by decide)])
    simp only [ext_self, bit_self, Nat.reduceSub])

theorem Reads.fsqrt : ∀ g sd rm d a, Reads.Statement (.fsqrt g sd rm d a) :=
  fun g sd rm d a => reads_of_control rfl rfl (by
    unfold candidateControl
    rw [fOp_packE]
    change some (Instr.fsqrt (fGuard _) (fSd _) (fRm _) (fD _) (fA _)) = _
    simp only [fRm, fD]
    rw [fGuard_packE, fSd_packE, fA_packE]
    repeat rw [ext_packE _ _ _ _ _ _ _ _ _ (by decide)]
    repeat (first | rw [ext_append_high _ _ _ _ (by decide)] | rw [ext_append_low _ _ _ _ (by decide)])
    repeat rw [bit_packE _ _ _ _ _ _ _ _ (by decide)]
    repeat (first | rw [bit_append_high _ _ _ (by decide)] | rw [bit_append_low _ _ _ (by decide)])
    simp only [ext_self, bit_self, Nat.reduceSub])

theorem Reads.fmin : ∀ g sd d a b, Reads.Statement (.fmin g sd d a b) :=
  fun g sd d a b => reads_of_control rfl rfl (by
    unfold candidateControl
    rw [fOp_packE]
    change some (Instr.fmin (fGuard _) (fSd _) (fD _) (fA _) (fB _)) = _
    simp only [fD]
    rw [fGuard_packE, fSd_packE, fA_packE, fB_packE]
    repeat rw [bit_packE _ _ _ _ _ _ _ _ (by decide)]
    repeat (first | rw [bit_append_high _ _ _ (by decide)] | rw [bit_append_low _ _ _ (by decide)])
    simp only [bit_self, Nat.reduceSub])

theorem Reads.fmax : ∀ g sd d a b, Reads.Statement (.fmax g sd d a b) :=
  fun g sd d a b => reads_of_control rfl rfl (by
    unfold candidateControl
    rw [fOp_packE]
    change some (Instr.fmax (fGuard _) (fSd _) (fD _) (fA _) (fB _)) = _
    simp only [fD]
    rw [fGuard_packE, fSd_packE, fA_packE, fB_packE]
    repeat rw [bit_packE _ _ _ _ _ _ _ _ (by decide)]
    repeat (first | rw [bit_append_high _ _ _ (by decide)] | rw [bit_append_low _ _ _ (by decide)])
    simp only [bit_self, Nat.reduceSub])

theorem Reads.fcvt : ∀ g sd rm code a, Reads.Statement (.fcvt g sd rm code a) :=
  fun g sd rm code a => reads_of_control rfl rfl (by
    unfold candidateControl
    rw [fOp_packE]
    change some (Instr.fcvt (fGuard _) (fSd _) (fRm _) (fCode _) (fA _)) = _
    simp only [fRm, fCode]
    rw [fGuard_packE, fSd_packE, fA_packE]
    repeat rw [ext_packE _ _ _ _ _ _ _ _ _ (by decide)]
    repeat (first | rw [ext_append_high _ _ _ _ (by decide)] | rw [ext_append_low _ _ _ _ (by decide)])
    simp only [ext_self, Nat.reduceSub])

theorem Reads.fclass : ∀ g sd d a, Reads.Statement (.fclass g sd d a) :=
  fun g sd d a => reads_of_control rfl rfl (by
    unfold candidateControl
    rw [fOp_packE]
    change some (Instr.fclass (fGuard _) (fSd _) (fD _) (fA _)) = _
    simp only [fD]
    rw [fGuard_packE, fSd_packE, fA_packE]
    repeat rw [bit_packE _ _ _ _ _ _ _ _ (by decide)]
    repeat (first | rw [bit_append_high _ _ _ (by decide)] | rw [bit_append_low _ _ _ (by decide)])
    simp only [bit_self, Nat.reduceSub])

theorem Reads.fexp2 : ∀ g sd rm d a, Reads.Statement (.fexp2 g sd rm d a) :=
  fun g sd rm d a => reads_of_control rfl rfl (by
    unfold candidateControl
    rw [fOp_packE]
    change some (Instr.fexp2 (fGuard _) (fSd _) (fRm _) (fD _) (fA _)) = _
    simp only [fRm, fD]
    rw [fGuard_packE, fSd_packE, fA_packE]
    repeat rw [ext_packE _ _ _ _ _ _ _ _ _ (by decide)]
    repeat (first | rw [ext_append_high _ _ _ _ (by decide)] | rw [ext_append_low _ _ _ _ (by decide)])
    repeat rw [bit_packE _ _ _ _ _ _ _ _ (by decide)]
    repeat (first | rw [bit_append_high _ _ _ (by decide)] | rw [bit_append_low _ _ _ (by decide)])
    simp only [ext_self, bit_self, Nat.reduceSub])

theorem Reads.flog2 : ∀ g sd rm d a, Reads.Statement (.flog2 g sd rm d a) :=
  fun g sd rm d a => reads_of_control rfl rfl (by
    unfold candidateControl
    rw [fOp_packE]
    change some (Instr.flog2 (fGuard _) (fSd _) (fRm _) (fD _) (fA _)) = _
    simp only [fRm, fD]
    rw [fGuard_packE, fSd_packE, fA_packE]
    repeat rw [ext_packE _ _ _ _ _ _ _ _ _ (by decide)]
    repeat (first | rw [ext_append_high _ _ _ _ (by decide)] | rw [ext_append_low _ _ _ _ (by decide)])
    repeat rw [bit_packE _ _ _ _ _ _ _ _ (by decide)]
    repeat (first | rw [bit_append_high _ _ _ (by decide)] | rw [bit_append_low _ _ _ (by decide)])
    simp only [ext_self, bit_self, Nat.reduceSub])

theorem Reads.ld : ∀ g sd a size order scope spec off, Reads.Statement (.ld g sd a size order scope spec off) :=
  fun g sd a size order scope spec off => reads_of_control rfl rfl (by
    unfold candidateControl
    rw [fOp_packM]
    change some (Instr.ld (fGuard _) (fSd _) (fA _) (fMSize _) (fMOrder _) (fMScope _) (fMSpec _) (fOff22 _)) = _
    rw [fGuard_packM, fSd_packM, fA_packM, fMSize_packM, fMOrder_packM, fMScope_packM, fMSpec_packM, fOff22_packM])

theorem Reads.st : ∀ g data a size order scope off, Reads.Statement (.st g data a size order scope off) :=
  fun g data a size order scope off => reads_of_control rfl rfl (by
    unfold candidateControl
    rw [fOp_packM]
    change some (Instr.st (fGuard _) (fMData _) (fA _) (fMSize _) (fMOrder _) (fMScope _) (fOff22 _)) = _
    rw [fGuard_packM, fMData_packM, fA_packM, fMSize_packM, fMOrder_packM, fMScope_packM, fOff22_packM])

theorem Reads.ldsp : ∀ g sd a size order scope off, Reads.Statement (.ldsp g sd a size order scope off) :=
  fun g sd a size order scope off => reads_of_control rfl rfl (by
    unfold candidateControl
    rw [fOp_packM]
    change some (Instr.ldsp (fGuard _) (fSd _) (fA _) (fMSize _) (fMOrder _) (fMScope _) (fOff22 _)) = _
    rw [fGuard_packM, fSd_packM, fA_packM, fMSize_packM, fMOrder_packM, fMScope_packM, fOff22_packM])

theorem Reads.stsp : ∀ g data a size order scope off, Reads.Statement (.stsp g data a size order scope off) :=
  fun g data a size order scope off => reads_of_control rfl rfl (by
    unfold candidateControl
    rw [fOp_packM]
    change some (Instr.stsp (fGuard _) (fMData _) (fA _) (fMSize _) (fMOrder _) (fMScope _) (fOff22 _)) = _
    rw [fGuard_packM, fMData_packM, fA_packM, fMSize_packM, fMOrder_packM, fMScope_packM, fOff22_packM])

theorem Reads.pref : ∀ g a off, Reads.Statement (.pref g a off) :=
  fun g a off => reads_of_control rfl rfl (by
    unfold candidateControl
    rw [fOp_packM]
    change some (Instr.pref (fGuard _) (fA _) (fOff22 _)) = _
    rw [fGuard_packM, fA_packM, fOff22_packM])

theorem Reads.chk : ∀ g a, Reads.Statement (.chk g a) :=
  fun g a => reads_of_control rfl rfl (by
    unfold candidateControl
    rw [fOp_packE]
    change some (Instr.chk (fGuard _) (fA _)) = _
    rw [fGuard_packE, fA_packE])

theorem Reads.clean : ∀ g a scope off, Reads.Statement (.clean g a scope off) :=
  fun g a scope off => reads_of_control rfl rfl (by
    unfold candidateControl
    rw [fOp_packM]
    change some (Instr.clean (fGuard _) (fA _) (fMScope _) (fOff22 _)) = _
    rw [fGuard_packM, fA_packM, fMScope_packM, fOff22_packM])

theorem Reads.inval : ∀ g a scope off, Reads.Statement (.inval g a scope off) :=
  fun g a scope off => reads_of_control rfl rfl (by
    unfold candidateControl
    rw [fOp_packM]
    change some (Instr.inval (fGuard _) (fA _) (fMScope _) (fOff22 _)) = _
    rw [fGuard_packM, fA_packM, fMScope_packM, fOff22_packM])

theorem Reads.aadd : ∀ g sd a b order scope place size, Reads.Statement (.aadd g sd a b order scope place size) :=
  fun g sd a b order scope place size => reads_of_control rfl rfl (by
    unfold candidateControl
    rw [fOp_packE]
    change some (Instr.aadd (fGuard _) (fSd _) (fA _) (fB _) (fAOrder _) (fAScope _) (fAPlace _) (fASize _)) = _
    simp only [fAOrder, fAScope, fAPlace, fASize]
    rw [fGuard_packE, fSd_packE, fA_packE, fB_packE]
    repeat rw [ext_packE _ _ _ _ _ _ _ _ _ (by decide)]
    repeat (first | rw [ext_append_high _ _ _ _ (by decide)] | rw [ext_append_low _ _ _ _ (by decide)])
    simp only [ext_self, Nat.reduceSub])

theorem Reads.aand : ∀ g sd a b order scope place size, Reads.Statement (.aand g sd a b order scope place size) :=
  fun g sd a b order scope place size => reads_of_control rfl rfl (by
    unfold candidateControl
    rw [fOp_packE]
    change some (Instr.aand (fGuard _) (fSd _) (fA _) (fB _) (fAOrder _) (fAScope _) (fAPlace _) (fASize _)) = _
    simp only [fAOrder, fAScope, fAPlace, fASize]
    rw [fGuard_packE, fSd_packE, fA_packE, fB_packE]
    repeat rw [ext_packE _ _ _ _ _ _ _ _ _ (by decide)]
    repeat (first | rw [ext_append_high _ _ _ _ (by decide)] | rw [ext_append_low _ _ _ _ (by decide)])
    simp only [ext_self, Nat.reduceSub])

theorem Reads.aor : ∀ g sd a b order scope place size, Reads.Statement (.aor g sd a b order scope place size) :=
  fun g sd a b order scope place size => reads_of_control rfl rfl (by
    unfold candidateControl
    rw [fOp_packE]
    change some (Instr.aor (fGuard _) (fSd _) (fA _) (fB _) (fAOrder _) (fAScope _) (fAPlace _) (fASize _)) = _
    simp only [fAOrder, fAScope, fAPlace, fASize]
    rw [fGuard_packE, fSd_packE, fA_packE, fB_packE]
    repeat rw [ext_packE _ _ _ _ _ _ _ _ _ (by decide)]
    repeat (first | rw [ext_append_high _ _ _ _ (by decide)] | rw [ext_append_low _ _ _ _ (by decide)])
    simp only [ext_self, Nat.reduceSub])

theorem Reads.axor : ∀ g sd a b order scope place size, Reads.Statement (.axor g sd a b order scope place size) :=
  fun g sd a b order scope place size => reads_of_control rfl rfl (by
    unfold candidateControl
    rw [fOp_packE]
    change some (Instr.axor (fGuard _) (fSd _) (fA _) (fB _) (fAOrder _) (fAScope _) (fAPlace _) (fASize _)) = _
    simp only [fAOrder, fAScope, fAPlace, fASize]
    rw [fGuard_packE, fSd_packE, fA_packE, fB_packE]
    repeat rw [ext_packE _ _ _ _ _ _ _ _ _ (by decide)]
    repeat (first | rw [ext_append_high _ _ _ _ (by decide)] | rw [ext_append_low _ _ _ _ (by decide)])
    simp only [ext_self, Nat.reduceSub])

theorem Reads.amin : ∀ g sd a b order scope place size, Reads.Statement (.amin g sd a b order scope place size) :=
  fun g sd a b order scope place size => reads_of_control rfl rfl (by
    unfold candidateControl
    rw [fOp_packE]
    change some (Instr.amin (fGuard _) (fSd _) (fA _) (fB _) (fAOrder _) (fAScope _) (fAPlace _) (fASize _)) = _
    simp only [fAOrder, fAScope, fAPlace, fASize]
    rw [fGuard_packE, fSd_packE, fA_packE, fB_packE]
    repeat rw [ext_packE _ _ _ _ _ _ _ _ _ (by decide)]
    repeat (first | rw [ext_append_high _ _ _ _ (by decide)] | rw [ext_append_low _ _ _ _ (by decide)])
    simp only [ext_self, Nat.reduceSub])

theorem Reads.amax : ∀ g sd a b order scope place size, Reads.Statement (.amax g sd a b order scope place size) :=
  fun g sd a b order scope place size => reads_of_control rfl rfl (by
    unfold candidateControl
    rw [fOp_packE]
    change some (Instr.amax (fGuard _) (fSd _) (fA _) (fB _) (fAOrder _) (fAScope _) (fAPlace _) (fASize _)) = _
    simp only [fAOrder, fAScope, fAPlace, fASize]
    rw [fGuard_packE, fSd_packE, fA_packE, fB_packE]
    repeat rw [ext_packE _ _ _ _ _ _ _ _ _ (by decide)]
    repeat (first | rw [ext_append_high _ _ _ _ (by decide)] | rw [ext_append_low _ _ _ _ (by decide)])
    simp only [ext_self, Nat.reduceSub])

theorem Reads.aminu : ∀ g sd a b order scope place size, Reads.Statement (.aminu g sd a b order scope place size) :=
  fun g sd a b order scope place size => reads_of_control rfl rfl (by
    unfold candidateControl
    rw [fOp_packE]
    change some (Instr.aminu (fGuard _) (fSd _) (fA _) (fB _) (fAOrder _) (fAScope _) (fAPlace _) (fASize _)) = _
    simp only [fAOrder, fAScope, fAPlace, fASize]
    rw [fGuard_packE, fSd_packE, fA_packE, fB_packE]
    repeat rw [ext_packE _ _ _ _ _ _ _ _ _ (by decide)]
    repeat (first | rw [ext_append_high _ _ _ _ (by decide)] | rw [ext_append_low _ _ _ _ (by decide)])
    simp only [ext_self, Nat.reduceSub])

theorem Reads.amaxu : ∀ g sd a b order scope place size, Reads.Statement (.amaxu g sd a b order scope place size) :=
  fun g sd a b order scope place size => reads_of_control rfl rfl (by
    unfold candidateControl
    rw [fOp_packE]
    change some (Instr.amaxu (fGuard _) (fSd _) (fA _) (fB _) (fAOrder _) (fAScope _) (fAPlace _) (fASize _)) = _
    simp only [fAOrder, fAScope, fAPlace, fASize]
    rw [fGuard_packE, fSd_packE, fA_packE, fB_packE]
    repeat rw [ext_packE _ _ _ _ _ _ _ _ _ (by decide)]
    repeat (first | rw [ext_append_high _ _ _ _ (by decide)] | rw [ext_append_low _ _ _ _ (by decide)])
    simp only [ext_self, Nat.reduceSub])

theorem Reads.aswp : ∀ g sd a b order scope place size, Reads.Statement (.aswp g sd a b order scope place size) :=
  fun g sd a b order scope place size => reads_of_control rfl rfl (by
    unfold candidateControl
    rw [fOp_packE]
    change some (Instr.aswp (fGuard _) (fSd _) (fA _) (fB _) (fAOrder _) (fAScope _) (fAPlace _) (fASize _)) = _
    simp only [fAOrder, fAScope, fAPlace, fASize]
    rw [fGuard_packE, fSd_packE, fA_packE, fB_packE]
    repeat rw [ext_packE _ _ _ _ _ _ _ _ _ (by decide)]
    repeat (first | rw [ext_append_high _ _ _ _ (by decide)] | rw [ext_append_low _ _ _ _ (by decide)])
    simp only [ext_self, Nat.reduceSub])

theorem Reads.acas : ∀ g sd a b c order scope place size, Reads.Statement (.acas g sd a b c order scope place size) :=
  fun g sd a b c order scope place size => reads_of_control rfl rfl (by
    unfold candidateControl
    rw [fOp_packE]
    change some (Instr.acas (fGuard _) (fSd _) (fA _) (fB _) (fC _) (fAOrder _) (fAScope _) (fAPlace _) (fASize _)) = _
    simp only [fAOrder, fAScope, fAPlace, fASize]
    rw [fGuard_packE, fSd_packE, fA_packE, fB_packE, fC_packE]
    repeat rw [ext_packE _ _ _ _ _ _ _ _ _ (by decide)]
    repeat (first | rw [ext_append_high _ _ _ _ (by decide)] | rw [ext_append_low _ _ _ _ (by decide)])
    simp only [ext_self, Nat.reduceSub])

theorem Reads.afadd : ∀ g sd a b order scope place size, Reads.Statement (.afadd g sd a b order scope place size) :=
  fun g sd a b order scope place size => reads_of_control rfl rfl (by
    unfold candidateControl
    rw [fOp_packE]
    change some (Instr.afadd (fGuard _) (fSd _) (fA _) (fB _) (fAOrder _) (fAScope _) (fAPlace _) (fASize _)) = _
    simp only [fAOrder, fAScope, fAPlace, fASize]
    rw [fGuard_packE, fSd_packE, fA_packE, fB_packE]
    repeat rw [ext_packE _ _ _ _ _ _ _ _ _ (by decide)]
    repeat (first | rw [ext_append_high _ _ _ _ (by decide)] | rw [ext_append_low _ _ _ _ (by decide)])
    simp only [ext_self, Nat.reduceSub])

theorem Reads.fence : ∀ g kind scope, Reads.Statement (.fence g kind scope) :=
  fun g kind scope => reads_of_control rfl rfl (by
    unfold candidateControl
    rw [fOp_packE]
    change some (Instr.fence (fGuard _) (fAOrder _) (fAScope _)) = _
    simp only [fAOrder, fAScope]
    rw [fGuard_packE]
    repeat rw [ext_packE _ _ _ _ _ _ _ _ _ (by decide)]
    repeat (first | rw [ext_append_high _ _ _ _ (by decide)] | rw [ext_append_low _ _ _ _ (by decide)])
    simp only [ext_self, Nat.reduceSub])

theorem Reads.barinit : ∀ g sd a b scope, Reads.Statement (.barinit g sd a b scope) :=
  fun g sd a b scope => reads_of_control rfl rfl (by
    unfold candidateControl
    rw [fOp_packE]
    change some (Instr.barinit (fGuard _) (fSd _) (fA _) (fB _) (fAScope _)) = _
    simp only [fAScope]
    rw [fGuard_packE, fSd_packE, fA_packE, fB_packE]
    repeat rw [ext_packE _ _ _ _ _ _ _ _ _ (by decide)]
    repeat (first | rw [ext_append_high _ _ _ _ (by decide)] | rw [ext_append_low _ _ _ _ (by decide)])
    simp only [ext_self, Nat.reduceSub])

theorem Reads.bararrive : ∀ g sd a, Reads.Statement (.bararrive g sd a) :=
  fun g sd a => reads_of_control rfl rfl (by
    unfold candidateControl
    rw [fOp_packE]
    change some (Instr.bararrive (fGuard _) (fSd _) (fA _)) = _
    rw [fGuard_packE, fSd_packE, fA_packE])

theorem Reads.barexpect : ∀ g a b, Reads.Statement (.barexpect g a b) :=
  fun g a b => reads_of_control rfl rfl (by
    unfold candidateControl
    rw [fOp_packE]
    change some (Instr.barexpect (fGuard _) (fA _) (fB _)) = _
    rw [fGuard_packE, fA_packE, fB_packE])

theorem Reads.barwait : ∀ g a b, Reads.Statement (.barwait g a b) :=
  fun g a b => reads_of_control rfl rfl (by
    unfold candidateControl
    rw [fOp_packE]
    change some (Instr.barwait (fGuard _) (fA _) (fB _)) = _
    rw [fGuard_packE, fA_packE, fB_packE])

theorem Reads.bartest : ∀ g pd a b, Reads.Statement (.bartest g pd a b) :=
  fun g pd a b => reads_of_control rfl rfl (by
    unfold candidateControl
    rw [fOp_packE]
    change some (Instr.bartest (fGuard _) (fPd _) (fA _) (fB _)) = _
    simp only [fPd]
    rw [fGuard_packE, fA_packE, fB_packE]
    repeat rw [ext_packE _ _ _ _ _ _ _ _ _ (by decide)]
    repeat (first | rw [ext_append_high _ _ _ _ (by decide)] | rw [ext_append_low _ _ _ _ (by decide)])
    simp only [ext_self, Nat.reduceSub])

theorem Reads.tagwaitany : ∀ g sd a, Reads.Statement (.tagwaitany g sd a) :=
  fun g sd a => reads_of_control rfl rfl (by
    unfold candidateControl
    rw [fOp_packE]
    change some (Instr.tagwaitany (fGuard _) (fSd _) (fA _)) = _
    rw [fGuard_packE, fSd_packE, fA_packE])

theorem Reads.tagwaitall : ∀ g a, Reads.Statement (.tagwaitall g a) :=
  fun g a => reads_of_control rfl rfl (by
    unfold candidateControl
    rw [fOp_packE]
    change some (Instr.tagwaitall (fGuard _) (fA _)) = _
    rw [fGuard_packE, fA_packE])

theorem Reads.tagfirst : ∀ g sd a, Reads.Statement (.tagfirst g sd a) :=
  fun g sd a => reads_of_control rfl rfl (by
    unfold candidateControl
    rw [fOp_packE]
    change some (Instr.tagfirst (fGuard _) (fSd _) (fA _)) = _
    rw [fGuard_packE, fSd_packE, fA_packE])

theorem Reads.tagclr : ∀ g a, Reads.Statement (.tagclr g a) :=
  fun g a => reads_of_control rfl rfl (by
    unfold candidateControl
    rw [fOp_packE]
    change some (Instr.tagclr (fGuard _) (fA _)) = _
    rw [fGuard_packE, fA_packE])

theorem Reads.estart : ∀ g sd e a, Reads.Statement (.estart g sd e a) :=
  fun g sd e a => reads_of_control rfl rfl (by
    unfold candidateControl
    rw [fOp_packE]
    change some (Instr.estart (fGuard _) (fSd _) (fRm _) (fA _)) = _
    simp only [fRm]
    rw [fGuard_packE, fSd_packE, fA_packE]
    repeat rw [ext_packE _ _ _ _ _ _ _ _ _ (by decide)]
    repeat (first | rw [ext_append_high _ _ _ _ (by decide)] | rw [ext_append_low _ _ _ _ (by decide)])
    simp only [ext_self, Nat.reduceSub])

theorem Reads.eput : ∀ g e n a, Reads.Statement (.eput g e n a) :=
  fun g e n a => reads_of_control rfl rfl (by
    unfold candidateControl
    rw [fOp_packE]
    change some (Instr.eput (fGuard _) (fRm _) (fCode _) (fA _)) = _
    simp only [fRm, fCode]
    rw [fGuard_packE, fA_packE]
    repeat rw [ext_packE _ _ _ _ _ _ _ _ _ (by decide)]
    repeat (first | rw [ext_append_high _ _ _ _ (by decide)] | rw [ext_append_low _ _ _ _ (by decide)])
    simp only [ext_self, Nat.reduceSub])

theorem Reads.eget : ∀ g sd e n, Reads.Statement (.eget g sd e n) :=
  fun g sd e n => reads_of_control rfl rfl (by
    unfold candidateControl
    rw [fOp_packE]
    change some (Instr.eget (fGuard _) (fSd _) (fRm _) (fCode _)) = _
    simp only [fRm, fCode]
    rw [fGuard_packE, fSd_packE]
    repeat rw [ext_packE _ _ _ _ _ _ _ _ _ (by decide)]
    repeat (first | rw [ext_append_high _ _ _ _ (by decide)] | rw [ext_append_low _ _ _ _ (by decide)])
    simp only [ext_self, Nat.reduceSub])

theorem Reads.fmtq : ∀ g a, Reads.Statement (.fmtq g a) :=
  fun g a => reads_of_control rfl rfl (by
    unfold candidateControl
    rw [fOp_packE]
    change some (Instr.fmtq (fGuard _) (fA _)) = _
    rw [fGuard_packE, fA_packE])

theorem Reads.join : ∀ g mask, Reads.Statement (.join g mask) :=
  fun g mask => reads_of_control rfl rfl (by
    unfold candidateControl
    rw [fOp_packE]
    change some (Instr.join (fGuard _) (fCode _)) = _
    simp only [fCode]
    rw [fGuard_packE]
    repeat rw [ext_packE _ _ _ _ _ _ _ _ _ (by decide)]
    repeat (first | rw [ext_append_high _ _ _ _ (by decide)] | rw [ext_append_low _ _ _ _ (by decide)])
    simp only [ext_self, Nat.reduceSub])

theorem Reads.spawn : ∀ g sd a q nb, Reads.Statement (.spawn g sd a q nb) :=
  fun g sd a q nb => reads_of_control rfl rfl (by
    unfold candidateControl
    rw [fOp_packE]
    change some (Instr.spawn (fGuard _) (fSd _) (fA _) (fCode _) (fB16 _)) = _
    simp only [fCode, fB16]
    rw [fGuard_packE, fSd_packE, fA_packE]
    repeat rw [ext_packE _ _ _ _ _ _ _ _ _ (by decide)]
    repeat (first | rw [ext_append_high _ _ _ _ (by decide)] | rw [ext_append_low _ _ _ _ (by decide)])
    repeat rw [bit_packE _ _ _ _ _ _ _ _ (by decide)]
    repeat (first | rw [bit_append_high _ _ _ (by decide)] | rw [bit_append_low _ _ _ (by decide)])
    simp only [ext_self, bit_self, Nat.reduceSub])

theorem Reads.jend : ∀ g, Reads.Statement (.jend g) :=
  fun g => reads_of_control rfl rfl (by
    unfold candidateControl
    rw [fOp_packE]
    change some (Instr.jend (fGuard _)) = _
    rw [fGuard_packE])

theorem Reads.cpchainBind : ∀ g sd a b ch, Reads.Statement (.cpchainBind g sd a b ch) :=
  fun g sd a b ch => reads_of_control rfl rfl (by
    unfold candidateControl
    rw [fOp_packE]
    change (match (ext _ 16 2).toNat with | 0 => _ | 1 => _ | 2 => _ | _ => _) = _
    rw [ext_packE _ _ _ _ _ _ _ _ _ (by decide)]
    repeat (first | rw [ext_append_high _ _ _ _ (by decide)] | rw [ext_append_low _ _ _ _ (by decide)])
    change some (Instr.cpchainBind (fGuard _) (fSd _) (fA _) (fB _) (fB12 _)) = _
    simp only [fB12]
    rw [fGuard_packE, fSd_packE, fA_packE, fB_packE]
    repeat rw [bit_packE _ _ _ _ _ _ _ _ (by decide)]
    repeat (first | rw [bit_append_high _ _ _ (by decide)] | rw [bit_append_low _ _ _ (by decide)])
    simp only [bit_self, Nat.reduceSub])

theorem Reads.cpchainKick : ∀ g sd ch, Reads.Statement (.cpchainKick g sd ch) :=
  fun g sd ch => reads_of_control rfl rfl (by
    unfold candidateControl
    rw [fOp_packE]
    change (match (ext _ 16 2).toNat with | 0 => _ | 1 => _ | 2 => _ | _ => _) = _
    rw [ext_packE _ _ _ _ _ _ _ _ _ (by decide)]
    repeat (first | rw [ext_append_high _ _ _ _ (by decide)] | rw [ext_append_low _ _ _ _ (by decide)])
    change some (Instr.cpchainKick (fGuard _) (fSd _) (fB12 _)) = _
    simp only [fB12]
    rw [fGuard_packE, fSd_packE]
    repeat rw [bit_packE _ _ _ _ _ _ _ _ (by decide)]
    repeat (first | rw [bit_append_high _ _ _ (by decide)] | rw [bit_append_low _ _ _ (by decide)])
    simp only [bit_self, Nat.reduceSub])

theorem Reads.cpchainStop : ∀ g sd ch, Reads.Statement (.cpchainStop g sd ch) :=
  fun g sd ch => reads_of_control rfl rfl (by
    unfold candidateControl
    rw [fOp_packE]
    change (match (ext _ 16 2).toNat with | 0 => _ | 1 => _ | 2 => _ | _ => _) = _
    rw [ext_packE _ _ _ _ _ _ _ _ _ (by decide)]
    repeat (first | rw [ext_append_high _ _ _ _ (by decide)] | rw [ext_append_low _ _ _ _ (by decide)])
    change some (Instr.cpchainStop (fGuard _) (fSd _) (fB12 _)) = _
    simp only [fB12]
    rw [fGuard_packE, fSd_packE]
    repeat rw [bit_packE _ _ _ _ _ _ _ _ (by decide)]
    repeat (first | rw [bit_append_high _ _ _ (by decide)] | rw [bit_append_low _ _ _ (by decide)])
    simp only [bit_self, Nat.reduceSub])

theorem Reads.cpstat : ∀ g sd ch, Reads.Statement (.cpstat g sd ch) :=
  fun g sd ch => reads_of_control rfl rfl (by
    unfold candidateControl
    rw [fOp_packE]
    change some (Instr.cpstat (fGuard _) (fSd _) (fB12 _)) = _
    simp only [fB12]
    rw [fGuard_packE, fSd_packE]
    repeat rw [bit_packE _ _ _ _ _ _ _ _ (by decide)]
    repeat (first | rw [bit_append_high _ _ _ (by decide)] | rw [bit_append_low _ _ _ (by decide)])
    simp only [bit_self, Nat.reduceSub])

theorem Reads.rdyset : ∀ g sd a b, Reads.Statement (.rdyset g sd a b) :=
  fun g sd a b => reads_of_control rfl rfl (by
    unfold candidateControl
    rw [fOp_packE]
    change some (Instr.rdyset (fGuard _) (fSd _) (fA _) (fB _)) = _
    rw [fGuard_packE, fSd_packE, fA_packE, fB_packE])

theorem Reads.rdytest : ∀ g pd a b, Reads.Statement (.rdytest g pd a b) :=
  fun g pd a b => reads_of_control rfl rfl (by
    unfold candidateControl
    rw [fOp_packE]
    change some (Instr.rdytest (fGuard _) (fPd _) (fA _) (fB _)) = _
    simp only [fPd]
    rw [fGuard_packE, fA_packE, fB_packE]
    repeat rw [ext_packE _ _ _ _ _ _ _ _ _ (by decide)]
    repeat (first | rw [ext_append_high _ _ _ _ (by decide)] | rw [ext_append_low _ _ _ _ (by decide)])
    simp only [ext_self, Nat.reduceSub])

theorem Reads.tcpref : ∀ g a b dim n, Reads.Statement (.tcpref g a b dim n) :=
  fun g a b dim n => reads_of_control rfl rfl (by
    unfold candidateControl
    rw [fOp_packE]
    change some (Instr.tcpref (fGuard _) (fA _) (fB _) (fAOrder _) (fAScope _)) = _
    simp only [fAOrder, fAScope]
    rw [fGuard_packE, fA_packE, fB_packE]
    repeat rw [ext_packE _ _ _ _ _ _ _ _ _ (by decide)]
    repeat (first | rw [ext_append_high _ _ _ _ (by decide)] | rw [ext_append_low _ _ _ _ (by decide)])
    simp only [ext_self, Nat.reduceSub])

theorem Reads.tcinv : ∀ g a b whole, Reads.Statement (.tcinv g a b whole) :=
  fun g a b whole => reads_of_control rfl rfl (by
    unfold candidateControl
    rw [fOp_packE]
    change some (Instr.tcinv (fGuard _) (fA _) (fB _) (fB18 _)) = _
    simp only [fB18]
    rw [fGuard_packE, fA_packE, fB_packE]
    repeat rw [bit_packE _ _ _ _ _ _ _ _ (by decide)]
    repeat (first | rw [bit_append_high _ _ _ (by decide)] | rw [bit_append_low _ _ _ (by decide)])
    simp only [bit_self, Nat.reduceSub])

theorem Reads.tcclean : ∀ g a b whole, Reads.Statement (.tcclean g a b whole) :=
  fun g a b whole => reads_of_control rfl rfl (by
    unfold candidateControl
    rw [fOp_packE]
    change some (Instr.tcclean (fGuard _) (fA _) (fB _) (fB18 _)) = _
    simp only [fB18]
    rw [fGuard_packE, fA_packE, fB_packE]
    repeat rw [bit_packE _ _ _ _ _ _ _ _ (by decide)]
    repeat (first | rw [bit_append_high _ _ _ (by decide)] | rw [bit_append_low _ _ _ (by decide)])
    simp only [bit_self, Nat.reduceSub])

theorem Reads.tcpin : ∀ g sd a b, Reads.Statement (.tcpin g sd a b) :=
  fun g sd a b => reads_of_control rfl rfl (by
    unfold candidateControl
    rw [fOp_packE]
    change some (Instr.tcpin (fGuard _) (fSd _) (fA _) (fB _)) = _
    rw [fGuard_packE, fSd_packE, fA_packE, fB_packE])

theorem Reads.tcunpin : ∀ g a b, Reads.Statement (.tcunpin g a b) :=
  fun g a b => reads_of_control rfl rfl (by
    unfold candidateControl
    rw [fOp_packE]
    change some (Instr.tcunpin (fGuard _) (fA _) (fB _)) = _
    rw [fGuard_packE, fA_packE, fB_packE])

theorem Reads.tclook : ∀ g sd a b, Reads.Statement (.tclook g sd a b) :=
  fun g sd a b => reads_of_control rfl rfl (by
    unfold candidateControl
    rw [fOp_packE]
    change some (Instr.tclook (fGuard _) (fSd _) (fA _) (fB _)) = _
    rw [fGuard_packE, fSd_packE, fA_packE, fB_packE])

theorem Reads.tchalo : ∀ g a b c, Reads.Statement (.tchalo g a b c) :=
  fun g a b c => reads_of_control rfl rfl (by
    unfold candidateControl
    rw [fOp_packE]
    change some (Instr.tchalo (fGuard _) (fA _) (fB _) (fC _)) = _
    rw [fGuard_packE, fA_packE, fB_packE, fC_packE])

theorem Reads.kvappend : ∀ g sd a b c, Reads.Statement (.kvappend g sd a b c) :=
  fun g sd a b c => reads_of_control rfl rfl (by
    unfold candidateControl
    rw [fOp_packE]
    change some (Instr.kvappend (fGuard _) (fSd _) (fA _) (fB _) (fC _)) = _
    rw [fGuard_packE, fSd_packE, fA_packE, fB_packE, fC_packE])

theorem Reads.kvcommit : ∀ g sd a b c, Reads.Statement (.kvcommit g sd a b c) :=
  fun g sd a b c => reads_of_control rfl rfl (by
    unfold candidateControl
    rw [fOp_packE]
    change some (Instr.kvcommit (fGuard _) (fSd _) (fA _) (fB _) (fC _)) = _
    rw [fGuard_packE, fSd_packE, fA_packE, fB_packE, fC_packE])

theorem Reads.kvsquash : ∀ g sd a b, Reads.Statement (.kvsquash g sd a b) :=
  fun g sd a b => reads_of_control rfl rfl (by
    unfold candidateControl
    rw [fOp_packE]
    change some (Instr.kvsquash (fGuard _) (fSd _) (fA _) (fB _)) = _
    rw [fGuard_packE, fSd_packE, fA_packE, fB_packE])

theorem Reads.kvtrunc : ∀ g sd a b c, Reads.Statement (.kvtrunc g sd a b c) :=
  fun g sd a b c => reads_of_control rfl rfl (by
    unfold candidateControl
    rw [fOp_packE]
    change some (Instr.kvtrunc (fGuard _) (fSd _) (fA _) (fB _) (fC _)) = _
    rw [fGuard_packE, fSd_packE, fA_packE, fB_packE, fC_packE])

theorem Reads.kvfork : ∀ g sd a b c, Reads.Statement (.kvfork g sd a b c) :=
  fun g sd a b c => reads_of_control rfl rfl (by
    unfold candidateControl
    rw [fOp_packE]
    change some (Instr.kvfork (fGuard _) (fSd _) (fA _) (fB _) (fC _)) = _
    rw [fGuard_packE, fSd_packE, fA_packE, fB_packE, fC_packE])

theorem Reads.kvfree : ∀ g sd a b, Reads.Statement (.kvfree g sd a b) :=
  fun g sd a b => reads_of_control rfl rfl (by
    unfold candidateControl
    rw [fOp_packE]
    change some (Instr.kvfree (fGuard _) (fSd _) (fA _) (fB _)) = _
    rw [fGuard_packE, fSd_packE, fA_packE, fB_packE])

theorem Reads.cksnap : ∀ g sd a b, Reads.Statement (.cksnap g sd a b) :=
  fun g sd a b => reads_of_control rfl rfl (by
    unfold candidateControl
    rw [fOp_packE]
    change some (Instr.cksnap (fGuard _) (fSd _) (fA _) (fB _)) = _
    rw [fGuard_packE, fSd_packE, fA_packE, fB_packE])

theorem Reads.cksel : ∀ g sd a, Reads.Statement (.cksel g sd a) :=
  fun g sd a => reads_of_control rfl rfl (by
    unfold candidateControl
    rw [fOp_packE]
    change some (Instr.cksel (fGuard _) (fSd _) (fA _)) = _
    rw [fGuard_packE, fSd_packE, fA_packE])

theorem Reads.ckdrop : ∀ g a, Reads.Statement (.ckdrop g a) :=
  fun g a => reads_of_control rfl rfl (by
    unfold candidateControl
    rw [fOp_packE]
    change some (Instr.ckdrop (fGuard _) (fA _)) = _
    rw [fGuard_packE, fA_packE])

theorem Reads.smpstart : ∀ g sd a, Reads.Statement (.smpstart g sd a) :=
  fun g sd a => reads_of_control rfl rfl (by
    unfold candidateControl
    rw [fOp_packE]
    change some (Instr.smpstart (fGuard _) (fSd _) (fA _)) = _
    rw [fGuard_packE, fSd_packE, fA_packE])

theorem Reads.acctest : ∀ g sd a, Reads.Statement (.acctest g sd a) :=
  fun g sd a => reads_of_control rfl rfl (by
    unfold candidateControl
    rw [fOp_packE]
    change some (Instr.acctest (fGuard _) (fSd _) (fA _)) = _
    rw [fGuard_packE, fSd_packE, fA_packE])

theorem Reads.rndc : ∀ g sd, Reads.Statement (.rndc g sd) :=
  fun g sd => reads_of_control rfl rfl (by
    unfold candidateControl
    rw [fOp_packE]
    change some (Instr.rndc (fGuard _) (fSd _)) = _
    rw [fGuard_packE, fSd_packE])

theorem Reads.rngset : ∀ g e a b, Reads.Statement (.rngset g e a b) :=
  fun g e a b => reads_of_control rfl rfl (by
    unfold candidateControl
    rw [fOp_packE]
    change some (Instr.rngset (fGuard _) (fRm _) (fA _) (fB _)) = _
    simp only [fRm]
    rw [fGuard_packE, fA_packE, fB_packE]
    repeat rw [ext_packE _ _ _ _ _ _ _ _ _ (by decide)]
    repeat (first | rw [ext_append_high _ _ _ _ (by decide)] | rw [ext_append_low _ _ _ _ (by decide)])
    simp only [ext_self, Nat.reduceSub])

theorem Reads.rngget : ∀ g sd e w, Reads.Statement (.rngget g sd e w) :=
  fun g sd e w => reads_of_control rfl rfl (by
    unfold candidateControl
    rw [fOp_packE]
    change some (Instr.rngget (fGuard _) (fSd _) (fRm _) (fB12 _)) = _
    simp only [fRm, fB12]
    rw [fGuard_packE, fSd_packE]
    repeat rw [ext_packE _ _ _ _ _ _ _ _ _ (by decide)]
    repeat (first | rw [ext_append_high _ _ _ _ (by decide)] | rw [ext_append_low _ _ _ _ (by decide)])
    repeat rw [bit_packE _ _ _ _ _ _ _ _ (by decide)]
    repeat (first | rw [bit_append_high _ _ _ (by decide)] | rw [bit_append_low _ _ _ (by decide)])
    simp only [ext_self, bit_self, Nat.reduceSub])

theorem Reads.txenc : ∀ g sd a b, Reads.Statement (.txenc g sd a b) :=
  fun g sd a b => reads_of_control rfl rfl (by
    unfold candidateControl
    rw [fOp_packE]
    change some (Instr.txenc (fGuard _) (fSd _) (fA _) (fB _)) = _
    rw [fGuard_packE, fSd_packE, fA_packE, fB_packE])

theorem Reads.txdec : ∀ g sd a b, Reads.Statement (.txdec g sd a b) :=
  fun g sd a b => reads_of_control rfl rfl (by
    unfold candidateControl
    rw [fOp_packE]
    change some (Instr.txdec (fGuard _) (fSd _) (fA _) (fB _)) = _
    rw [fGuard_packE, fSd_packE, fA_packE, fB_packE])

theorem Reads.txcons : ∀ g sd a b, Reads.Statement (.txcons g sd a b) :=
  fun g sd a b => reads_of_control rfl rfl (by
    unfold candidateControl
    rw [fOp_packE]
    change some (Instr.txcons (fGuard _) (fSd _) (fA _) (fB _)) = _
    rw [fGuard_packE, fSd_packE, fA_packE, fB_packE])

theorem Reads.txvocabOpen : ∀ g sd a b, Reads.Statement (.txvocabOpen g sd a b) :=
  fun g sd a b => reads_of_control rfl rfl (by
    unfold candidateControl
    rw [fOp_packE]
    change (match (ext _ 16 3).toNat with | 0 => _ | 1 => _ | 2 => _ | _ => _) = _
    rw [ext_packE _ _ _ _ _ _ _ _ _ (by decide)]
    repeat (first | rw [ext_append_high _ _ _ _ (by decide)] | rw [ext_append_low _ _ _ _ (by decide)])
    change some (Instr.txvocabOpen (fGuard _) (fSd _) (fA _) (fB _)) = _
    rw [fGuard_packE, fSd_packE, fA_packE, fB_packE])

theorem Reads.txvocabRebind : ∀ g sd a b, Reads.Statement (.txvocabRebind g sd a b) :=
  fun g sd a b => reads_of_control rfl rfl (by
    unfold candidateControl
    rw [fOp_packE]
    change (match (ext _ 16 3).toNat with | 0 => _ | 1 => _ | 2 => _ | _ => _) = _
    rw [ext_packE _ _ _ _ _ _ _ _ _ (by decide)]
    repeat (first | rw [ext_append_high _ _ _ _ (by decide)] | rw [ext_append_low _ _ _ _ (by decide)])
    change some (Instr.txvocabRebind (fGuard _) (fSd _) (fA _) (fB _)) = _
    rw [fGuard_packE, fSd_packE, fA_packE, fB_packE])

theorem Reads.txvocabClose : ∀ g sd a b, Reads.Statement (.txvocabClose g sd a b) :=
  fun g sd a b => reads_of_control rfl rfl (by
    unfold candidateControl
    rw [fOp_packE]
    change (match (ext _ 16 3).toNat with | 0 => _ | 1 => _ | 2 => _ | _ => _) = _
    rw [ext_packE _ _ _ _ _ _ _ _ _ (by decide)]
    repeat (first | rw [ext_append_high _ _ _ _ (by decide)] | rw [ext_append_low _ _ _ _ (by decide)])
    change some (Instr.txvocabClose (fGuard _) (fSd _) (fA _) (fB _)) = _
    rw [fGuard_packE, fSd_packE, fA_packE, fB_packE])

theorem Reads.txmask : ∀ g sd a b, Reads.Statement (.txmask g sd a b) :=
  fun g sd a b => reads_of_control rfl rfl (by
    unfold candidateControl
    rw [fOp_packE]
    change some (Instr.txmask (fGuard _) (fSd _) (fA _) (fB _)) = _
    rw [fGuard_packE, fSd_packE, fA_packE, fB_packE])

theorem Reads.csrr : ∀ g sd csr, Reads.Statement (.csrr g sd csr) :=
  fun g sd csr => reads_of_control rfl rfl (by
    unfold candidateControl
    rw [fOp_packS]
    change some (Instr.csrr (fGuard _) (fSd _) (fCsr _)) = _
    rw [fGuard_packS, fSd_packS, fCsr_packS])

theorem Reads.csrw : ∀ g sd csr a, Reads.Statement (.csrw g sd csr a) :=
  fun g sd csr a => reads_of_control rfl rfl (by
    unfold candidateControl
    rw [fOp_packS]
    change some (Instr.csrw (fGuard _) (fSd _) (fCsr _) (fA _)) = _
    rw [fGuard_packS, fSd_packS, fCsr_packS, fA_packS])

theorem Reads.csrset : ∀ g sd csr a, Reads.Statement (.csrset g sd csr a) :=
  fun g sd csr a => reads_of_control rfl rfl (by
    unfold candidateControl
    rw [fOp_packS]
    change some (Instr.csrset (fGuard _) (fSd _) (fCsr _) (fA _)) = _
    rw [fGuard_packS, fSd_packS, fCsr_packS, fA_packS])

theorem Reads.csrclr : ∀ g sd csr a, Reads.Statement (.csrclr g sd csr a) :=
  fun g sd csr a => reads_of_control rfl rfl (by
    unfold candidateControl
    rw [fOp_packS]
    change some (Instr.csrclr (fGuard _) (fSd _) (fCsr _) (fA _)) = _
    rw [fGuard_packS, fSd_packS, fCsr_packS, fA_packS])

theorem Reads.trap : ∀ g a num, Reads.Statement (.trap g a num) :=
  fun g a num => reads_of_control rfl rfl (by
    unfold candidateControl
    rw [fOp_packS]
    change some (Instr.trap (fGuard _) (fA _) (fImm20 _)) = _
    rw [fGuard_packS, fA_packS, fImm20_packS])

theorem Reads.eret : ∀ g, Reads.Statement (.eret g) :=
  fun g => reads_of_control rfl rfl (by
    unfold candidateControl
    rw [fOp_packS]
    change some (Instr.eret (fGuard _)) = _
    rw [fGuard_packS])

theorem Reads.halt : ∀ g, Reads.Statement (.halt g) :=
  fun g => reads_of_control rfl rfl (by
    unfold candidateControl
    rw [fOp_packS]
    change some (Instr.halt (fGuard _)) = _
    rw [fGuard_packS])

theorem Reads.tlbinvAll : ∀ g a, Reads.Statement (.tlbinvAll g a) :=
  fun g a => reads_of_control rfl rfl (by
    unfold candidateControl
    rw [fOp_packS]
    change (match (fImm20 _).toNat with | 0 => _ | 1 => _ | 2 => _ | _ => _) = _
    rw [fImm20_packS]
    change some (Instr.tlbinvAll (fGuard _) (fA _)) = _
    rw [fGuard_packS, fA_packS])

theorem Reads.tlbinvAsid : ∀ g a, Reads.Statement (.tlbinvAsid g a) :=
  fun g a => reads_of_control rfl rfl (by
    unfold candidateControl
    rw [fOp_packS]
    change (match (fImm20 _).toNat with | 0 => _ | 1 => _ | 2 => _ | _ => _) = _
    rw [fImm20_packS]
    change some (Instr.tlbinvAsid (fGuard _) (fA _)) = _
    rw [fGuard_packS, fA_packS])

theorem Reads.tlbinvPage : ∀ g a, Reads.Statement (.tlbinvPage g a) :=
  fun g a => reads_of_control rfl rfl (by
    unfold candidateControl
    rw [fOp_packS]
    change (match (fImm20 _).toNat with | 0 => _ | 1 => _ | 2 => _ | _ => _) = _
    rw [fImm20_packS]
    change some (Instr.tlbinvPage (fGuard _) (fA _)) = _
    rw [fGuard_packS, fA_packS])

theorem Reads.cyc : ∀ g sd, Reads.Statement (.cyc g sd) :=
  fun g sd => reads_of_control rfl rfl (by
    unfold candidateControl
    rw [fOp_packS]
    change some (Instr.cyc (fGuard _) (fSd _)) = _
    rw [fGuard_packS, fSd_packS])

theorem Reads.sigmix : ∀ g a, Reads.Statement (.sigmix g a) :=
  fun g a => reads_of_control rfl rfl (by
    unfold candidateControl
    rw [fOp_packS]
    change some (Instr.sigmix (fGuard _) (fA _)) = _
    rw [fGuard_packS, fA_packS])

theorem Reads.waitcyc : ∀ g a, Reads.Statement (.waitcyc g a) :=
  fun g a => reads_of_control rfl rfl (by
    unfold candidateControl
    rw [fOp_packS]
    change some (Instr.waitcyc (fGuard _) (fA _)) = _
    rw [fGuard_packS, fA_packS])

theorem Reads.lit : ∀ imm, Reads.Statement (.lit imm) :=
  fun imm => reads_of_engine rfl rfl (by
    unfold candidateEngine
    simp only [wMajor, wImm12]
    rw [ext_append_high _ _ _ _ (by decide), ext_append_low _ _ _ _ (by decide)]
    simp only [ext_self]
    rfl)

theorem Reads.litx : ∀ imm, Reads.Statement (.litx imm) :=
  fun imm => reads_of_engine rfl rfl (by
    unfold candidateEngine
    simp only [wMajor, wImm12]
    rw [ext_append_high _ _ _ _ (by decide), ext_append_low _ _ _ _ (by decide)]
    simp only [ext_self]
    rfl)

theorem Reads.dup : Reads.Statement (.dup) :=
  reads_of_engine rfl rfl rfl

theorem Reads.drop : Reads.Statement (.drop) :=
  reads_of_engine rfl rfl rfl

theorem Reads.swap : Reads.Statement (.swap) :=
  reads_of_engine rfl rfl rfl

theorem Reads.over : Reads.Statement (.over) :=
  reads_of_engine rfl rfl rfl

theorem Reads.rot : Reads.Statement (.rot) :=
  reads_of_engine rfl rfl rfl

theorem Reads.addw : Reads.Statement (.addw) :=
  reads_of_engine rfl rfl rfl

theorem Reads.subw : Reads.Statement (.subw) :=
  reads_of_engine rfl rfl rfl

theorem Reads.mulw : Reads.Statement (.mulw) :=
  reads_of_engine rfl rfl rfl

theorem Reads.shlw : Reads.Statement (.shlw) :=
  reads_of_engine rfl rfl rfl

theorem Reads.shrw : Reads.Statement (.shrw) :=
  reads_of_engine rfl rfl rfl

theorem Reads.andw : Reads.Statement (.andw) :=
  reads_of_engine rfl rfl rfl

theorem Reads.orw : Reads.Statement (.orw) :=
  reads_of_engine rfl rfl rfl

theorem Reads.ldk : ∀ n, Reads.Statement (.ldk n) :=
  fun n => reads_of_engine rfl rfl (by
    unfold candidateEngine
    rw [wMajor_packW, wMinor_packW]
    change some (Instr.ldk (wLo4 _)) = _
    simp only [wLo4]
    rw [ext_packW _ _ _ _ _ (by decide)]
    repeat (first | rw [ext_append_high _ _ _ _ (by decide)] | rw [ext_append_low _ _ _ _ (by decide)])
    simp only [ext_self, Nat.reduceSub])

theorem Reads.stk : ∀ n, Reads.Statement (.stk n) :=
  fun n => reads_of_engine rfl rfl (by
    unfold candidateEngine
    rw [wMajor_packW, wMinor_packW]
    change some (Instr.stk (wLo4 _)) = _
    simp only [wLo4]
    rw [ext_packW _ _ _ _ _ (by decide)]
    repeat (first | rw [ext_append_high _ _ _ _ (by decide)] | rw [ext_append_low _ _ _ _ (by decide)])
    simp only [ext_self, Nat.reduceSub])

theorem Reads.brw : ∀ off, Reads.Statement (.brw off) :=
  fun off => reads_of_engine rfl rfl (by
    unfold candidateEngine
    rw [wMajor_packW, wMinor_packW]
    change some (Instr.brw (wImm6 _)) = _
    simp only [wImm6]
    rw [ext_packW _ _ _ _ _ (by decide)]
    repeat (first | rw [ext_append_high _ _ _ _ (by decide)] | rw [ext_append_low _ _ _ _ (by decide)])
    simp only [ext_self, Nat.reduceSub])

theorem Reads.bzw : Reads.Statement (.bzw) :=
  reads_of_engine rfl rfl rfl

theorem Reads.brs : Reads.Statement (.brs) :=
  reads_of_engine rfl rfl rfl

theorem Reads.loopw : ∀ len, Reads.Statement (.loopw len) :=
  fun len => reads_of_engine rfl rfl (by
    unfold candidateEngine
    rw [wMajor_packW, wMinor_packW]
    change some (Instr.loopw (wImm6 _)) = _
    simp only [wImm6]
    rw [ext_packW _ _ _ _ _ (by decide)]
    repeat (first | rw [ext_append_high _ _ _ _ (by decide)] | rw [ext_append_low _ _ _ _ (by decide)])
    simp only [ext_self, Nat.reduceSub])

theorem Reads.endw : Reads.Statement (.endw) :=
  reads_of_engine rfl rfl rfl

theorem Reads.tagww : ∀ t, Reads.Statement (.tagww t) :=
  fun t => reads_of_engine rfl rfl (by
    unfold candidateEngine
    rw [wMajor_packW, wMinor_packW]
    change some (Instr.tagww (wImm6 _)) = _
    simp only [wImm6]
    rw [ext_packW _ _ _ _ _ (by decide)]
    repeat (first | rw [ext_append_high _ _ _ _ (by decide)] | rw [ext_append_low _ _ _ _ (by decide)])
    simp only [ext_self, Nat.reduceSub])

theorem Reads.tagsw : ∀ t, Reads.Statement (.tagsw t) :=
  fun t => reads_of_engine rfl rfl (by
    unfold candidateEngine
    rw [wMajor_packW, wMinor_packW]
    change some (Instr.tagsw (wImm6 _)) = _
    simp only [wImm6]
    rw [ext_packW _ _ _ _ _ (by decide)]
    repeat (first | rw [ext_append_high _ _ _ _ (by decide)] | rw [ext_append_low _ _ _ _ (by decide)])
    simp only [ext_self, Nat.reduceSub])

theorem Reads.baraw : Reads.Statement (.baraw) :=
  reads_of_engine rfl rfl rfl

theorem Reads.barww : Reads.Statement (.barww) :=
  reads_of_engine rfl rfl rfl

theorem Reads.fencew : ∀ scope, Reads.Statement (.fencew scope) :=
  fun scope => reads_of_engine rfl rfl (by
    unfold candidateEngine
    rw [wMajor_packW, wMinor_packW]
    change some (Instr.fencew (wLo4 _)) = _
    simp only [wLo4]
    rw [ext_packW _ _ _ _ _ (by decide)]
    repeat (first | rw [ext_append_high _ _ _ _ (by decide)] | rw [ext_append_low _ _ _ _ (by decide)])
    simp only [ext_self, Nat.reduceSub])

theorem Reads.waitq : Reads.Statement (.waitq) :=
  reads_of_engine rfl rfl rfl

theorem Reads.haltw : Reads.Statement (.haltw) :=
  reads_of_engine rfl rfl rfl

theorem Reads.cpy1d : ∀ dsp ssp, Reads.Statement (.cpy1d dsp ssp) :=
  fun dsp ssp => reads_of_engine rfl rfl (by
    unfold candidateEngine
    rw [wMajor_packW, wMinor_packW]
    change some (Instr.cpy1d (wB1 _) (wB0 _)) = _
    simp only [wB1, wB0]
    repeat rw [bit_packW _ _ _ _ (by decide)]
    repeat (first | rw [bit_append_high _ _ _ (by decide)] | rw [bit_append_low _ _ _ (by decide)])
    simp only [bit_self, Nat.reduceSub])

theorem Reads.cpy2d : ∀ dsp ssp, Reads.Statement (.cpy2d dsp ssp) :=
  fun dsp ssp => reads_of_engine rfl rfl (by
    unfold candidateEngine
    rw [wMajor_packW, wMinor_packW]
    change some (Instr.cpy2d (wB1 _) (wB0 _)) = _
    simp only [wB1, wB0]
    repeat rw [bit_packW _ _ _ _ (by decide)]
    repeat (first | rw [bit_append_high _ _ _ (by decide)] | rw [bit_append_low _ _ _ (by decide)])
    simp only [bit_self, Nat.reduceSub])

theorem Reads.cpy3d : ∀ dsp ssp, Reads.Statement (.cpy3d dsp ssp) :=
  fun dsp ssp => reads_of_engine rfl rfl (by
    unfold candidateEngine
    rw [wMajor_packW, wMinor_packW]
    change some (Instr.cpy3d (wB1 _) (wB0 _)) = _
    simp only [wB1, wB0]
    repeat rw [bit_packW _ _ _ _ (by decide)]
    repeat (first | rw [bit_append_high _ _ _ (by decide)] | rw [bit_append_low _ _ _ (by decide)])
    simp only [bit_self, Nat.reduceSub])

theorem Reads.cpyt : ∀ toTile, Reads.Statement (.cpyt toTile) :=
  fun toTile => reads_of_engine rfl rfl (by
    unfold candidateEngine
    rw [wMajor_packW, wMinor_packW]
    change some (Instr.cpyt (wB0 _)) = _
    simp only [wB0]
    repeat rw [bit_packW _ _ _ _ (by decide)]
    repeat (first | rw [bit_append_high _ _ _ (by decide)] | rw [bit_append_low _ _ _ (by decide)])
    simp only [bit_self, Nat.reduceSub])

theorem Reads.cpytb : ∀ dim side, Reads.Statement (.cpytb dim side) :=
  fun dim side => reads_of_engine rfl rfl (by
    unfold candidateEngine
    rw [wMajor_packW, wMinor_packW]
    change some (Instr.cpytb (wMid2 _) (wB0 _)) = _
    simp only [wMid2, wB0]
    rw [ext_packW _ _ _ _ _ (by decide)]
    repeat (first | rw [ext_append_high _ _ _ _ (by decide)] | rw [ext_append_low _ _ _ _ (by decide)])
    repeat rw [bit_packW _ _ _ _ (by decide)]
    repeat (first | rw [bit_append_high _ _ _ (by decide)] | rw [bit_append_low _ _ _ (by decide)])
    simp only [ext_self, bit_self, Nat.reduceSub])

theorem Reads.cpyg : ∀ dsp ssp, Reads.Statement (.cpyg dsp ssp) :=
  fun dsp ssp => reads_of_engine rfl rfl (by
    unfold candidateEngine
    rw [wMajor_packW, wMinor_packW]
    change some (Instr.cpyg (wB1 _) (wB0 _)) = _
    simp only [wB1, wB0]
    repeat rw [bit_packW _ _ _ _ (by decide)]
    repeat (first | rw [bit_append_high _ _ _ (by decide)] | rw [bit_append_low _ _ _ (by decide)])
    simp only [bit_self, Nat.reduceSub])

theorem Reads.cpys : ∀ dsp ssp, Reads.Statement (.cpys dsp ssp) :=
  fun dsp ssp => reads_of_engine rfl rfl (by
    unfold candidateEngine
    rw [wMajor_packW, wMinor_packW]
    change some (Instr.cpys (wB1 _) (wB0 _)) = _
    simp only [wB1, wB0]
    repeat rw [bit_packW _ _ _ _ (by decide)]
    repeat (first | rw [bit_append_high _ _ _ (by decide)] | rw [bit_append_low _ _ _ (by decide)])
    simp only [bit_self, Nat.reduceSub])

theorem Reads.cpyfill : ∀ dsp, Reads.Statement (.cpyfill dsp) :=
  fun dsp => reads_of_engine rfl rfl (by
    unfold candidateEngine
    rw [wMajor_packW, wMinor_packW]
    change some (Instr.cpyfill (wB1 _)) = _
    simp only [wB1]
    repeat rw [bit_packW _ _ _ _ (by decide)]
    repeat (first | rw [bit_append_high _ _ _ (by decide)] | rw [bit_append_low _ _ _ (by decide)])
    simp only [bit_self, Nat.reduceSub])

theorem Reads.mld : Reads.Statement (.mld) :=
  reads_of_engine rfl rfl rfl

theorem Reads.mst : Reads.Statement (.mst) :=
  reads_of_engine rfl rfl rfl

theorem Reads.accinit : Reads.Statement (.accinit) :=
  reads_of_engine rfl rfl rfl

theorem Reads.acczero : Reads.Statement (.acczero) :=
  reads_of_engine rfl rfl rfl

theorem Reads.acccvt : Reads.Statement (.acccvt) :=
  reads_of_engine rfl rfl rfl

theorem Reads.accnorm : Reads.Statement (.accnorm) :=
  reads_of_engine rfl rfl rfl

theorem Reads.accsnap : Reads.Statement (.accsnap) :=
  reads_of_engine rfl rfl rfl

theorem Reads.accload : Reads.Statement (.accload) :=
  reads_of_engine rfl rfl rfl

theorem Reads.mma : ∀ ta tb, Reads.Statement (.mma ta tb) :=
  fun ta tb => reads_of_engine rfl rfl (by
    unfold candidateEngine
    rw [wMajor_packW, wMinor_packW]
    change some (Instr.mma (wB5 _) (wB4 _)) = _
    simp only [wB5, wB4]
    repeat rw [bit_packW _ _ _ _ (by decide)]
    repeat (first | rw [bit_append_high _ _ _ (by decide)] | rw [bit_append_low _ _ _ (by decide)])
    simp only [bit_self, Nat.reduceSub])

theorem Reads.mmas : ∀ ta tb, Reads.Statement (.mmas ta tb) :=
  fun ta tb => reads_of_engine rfl rfl (by
    unfold candidateEngine
    rw [wMajor_packW, wMinor_packW]
    change some (Instr.mmas (wB5 _) (wB4 _)) = _
    simp only [wB5, wB4]
    repeat rw [bit_packW _ _ _ _ (by decide)]
    repeat (first | rw [bit_append_high _ _ _ (by decide)] | rw [bit_append_low _ _ _ (by decide)])
    simp only [bit_self, Nat.reduceSub])

theorem Reads.permrd : Reads.Statement (.permrd) :=
  reads_of_engine rfl rfl rfl

theorem Reads.growrd : Reads.Statement (.growrd) :=
  reads_of_engine rfl rfl rfl

theorem Reads.flu : ∀ fx, Reads.Statement (.flu fx) :=
  fun fx => reads_of_engine rfl rfl (by
    unfold candidateEngine
    rw [wMajor_packW, wMinor_packW]
    change some (Instr.flu (wB0 _)) = _
    simp only [wB0]
    repeat rw [bit_packW _ _ _ _ (by decide)]
    repeat (first | rw [bit_append_high _ _ _ (by decide)] | rw [bit_append_low _ _ _ (by decide)])
    simp only [bit_self, Nat.reduceSub])

theorem Reads.fchol : ∀ fx, Reads.Statement (.fchol fx) :=
  fun fx => reads_of_engine rfl rfl (by
    unfold candidateEngine
    rw [wMajor_packW, wMinor_packW]
    change some (Instr.fchol (wB0 _)) = _
    simp only [wB0]
    repeat rw [bit_packW _ _ _ _ (by decide)]
    repeat (first | rw [bit_append_high _ _ _ (by decide)] | rw [bit_append_low _ _ _ (by decide)])
    simp only [bit_self, Nat.reduceSub])

theorem Reads.fqr : ∀ fx, Reads.Statement (.fqr fx) :=
  fun fx => reads_of_engine rfl rfl (by
    unfold candidateEngine
    rw [wMajor_packW, wMinor_packW]
    change some (Instr.fqr (wB0 _)) = _
    simp only [wB0]
    repeat rw [bit_packW _ _ _ _ (by decide)]
    repeat (first | rw [bit_append_high _ _ _ (by decide)] | rw [bit_append_low _ _ _ (by decide)])
    simp only [bit_self, Nat.reduceSub])

theorem Reads.ftrsl : ∀ fx, Reads.Statement (.ftrsl fx) :=
  fun fx => reads_of_engine rfl rfl (by
    unfold candidateEngine
    rw [wMajor_packW, wMinor_packW]
    change some (Instr.ftrsl (wB0 _)) = _
    simp only [wB0]
    repeat rw [bit_packW _ _ _ _ (by decide)]
    repeat (first | rw [bit_append_high _ _ _ (by decide)] | rw [bit_append_low _ _ _ (by decide)])
    simp only [bit_self, Nat.reduceSub])

theorem Reads.ftrsu : ∀ fx, Reads.Statement (.ftrsu fx) :=
  fun fx => reads_of_engine rfl rfl (by
    unfold candidateEngine
    rw [wMajor_packW, wMinor_packW]
    change some (Instr.ftrsu (wB0 _)) = _
    simp only [wB0]
    repeat rw [bit_packW _ _ _ _ (by decide)]
    repeat (first | rw [bit_append_high _ _ _ (by decide)] | rw [bit_append_low _ _ _ (by decide)])
    simp only [bit_self, Nat.reduceSub])

theorem Reads.fapplyq : ∀ fx, Reads.Statement (.fapplyq fx) :=
  fun fx => reads_of_engine rfl rfl (by
    unfold candidateEngine
    rw [wMajor_packW, wMinor_packW]
    change some (Instr.fapplyq (wB0 _)) = _
    simp only [wB0]
    repeat rw [bit_packW _ _ _ _ (by decide)]
    repeat (first | rw [bit_append_high _ _ _ (by decide)] | rw [bit_append_low _ _ _ (by decide)])
    simp only [bit_self, Nat.reduceSub])

theorem Reads.vadd : ∀ fmt, Reads.Statement (.vadd fmt) :=
  fun fmt => reads_of_engine rfl rfl (by
    unfold candidateEngine
    rw [wMajor_packW, wMinor_packW]
    change some (Instr.vadd (wLo4 _)) = _
    simp only [wLo4]
    rw [ext_packW _ _ _ _ _ (by decide)]
    repeat (first | rw [ext_append_high _ _ _ _ (by decide)] | rw [ext_append_low _ _ _ _ (by decide)])
    simp only [ext_self, Nat.reduceSub])

theorem Reads.vsub : ∀ fmt, Reads.Statement (.vsub fmt) :=
  fun fmt => reads_of_engine rfl rfl (by
    unfold candidateEngine
    rw [wMajor_packW, wMinor_packW]
    change some (Instr.vsub (wLo4 _)) = _
    simp only [wLo4]
    rw [ext_packW _ _ _ _ _ (by decide)]
    repeat (first | rw [ext_append_high _ _ _ _ (by decide)] | rw [ext_append_low _ _ _ _ (by decide)])
    simp only [ext_self, Nat.reduceSub])

theorem Reads.vmul : ∀ fmt, Reads.Statement (.vmul fmt) :=
  fun fmt => reads_of_engine rfl rfl (by
    unfold candidateEngine
    rw [wMajor_packW, wMinor_packW]
    change some (Instr.vmul (wLo4 _)) = _
    simp only [wLo4]
    rw [ext_packW _ _ _ _ _ (by decide)]
    repeat (first | rw [ext_append_high _ _ _ _ (by decide)] | rw [ext_append_low _ _ _ _ (by decide)])
    simp only [ext_self, Nat.reduceSub])

theorem Reads.vfma : ∀ fmt, Reads.Statement (.vfma fmt) :=
  fun fmt => reads_of_engine rfl rfl (by
    unfold candidateEngine
    rw [wMajor_packW, wMinor_packW]
    change some (Instr.vfma (wLo4 _)) = _
    simp only [wLo4]
    rw [ext_packW _ _ _ _ _ (by decide)]
    repeat (first | rw [ext_append_high _ _ _ _ (by decide)] | rw [ext_append_low _ _ _ _ (by decide)])
    simp only [ext_self, Nat.reduceSub])

theorem Reads.vmax : ∀ fmt, Reads.Statement (.vmax fmt) :=
  fun fmt => reads_of_engine rfl rfl (by
    unfold candidateEngine
    rw [wMajor_packW, wMinor_packW]
    change some (Instr.vmax (wLo4 _)) = _
    simp only [wLo4]
    rw [ext_packW _ _ _ _ _ (by decide)]
    repeat (first | rw [ext_append_high _ _ _ _ (by decide)] | rw [ext_append_low _ _ _ _ (by decide)])
    simp only [ext_self, Nat.reduceSub])

theorem Reads.vmin : ∀ fmt, Reads.Statement (.vmin fmt) :=
  fun fmt => reads_of_engine rfl rfl (by
    unfold candidateEngine
    rw [wMajor_packW, wMinor_packW]
    change some (Instr.vmin (wLo4 _)) = _
    simp only [wLo4]
    rw [ext_packW _ _ _ _ _ (by decide)]
    repeat (first | rw [ext_append_high _ _ _ _ (by decide)] | rw [ext_append_low _ _ _ _ (by decide)])
    simp only [ext_self, Nat.reduceSub])

theorem Reads.vabs : ∀ fmt, Reads.Statement (.vabs fmt) :=
  fun fmt => reads_of_engine rfl rfl (by
    unfold candidateEngine
    rw [wMajor_packW, wMinor_packW]
    change some (Instr.vabs (wLo4 _)) = _
    simp only [wLo4]
    rw [ext_packW _ _ _ _ _ (by decide)]
    repeat (first | rw [ext_append_high _ _ _ _ (by decide)] | rw [ext_append_low _ _ _ _ (by decide)])
    simp only [ext_self, Nat.reduceSub])

theorem Reads.vcmp : ∀ fmt, Reads.Statement (.vcmp fmt) :=
  fun fmt => reads_of_engine rfl rfl (by
    unfold candidateEngine
    rw [wMajor_packW, wMinor_packW]
    change some (Instr.vcmp (wLo4 _)) = _
    simp only [wLo4]
    rw [ext_packW _ _ _ _ _ (by decide)]
    repeat (first | rw [ext_append_high _ _ _ _ (by decide)] | rw [ext_append_low _ _ _ _ (by decide)])
    simp only [ext_self, Nat.reduceSub])

theorem Reads.vsel : ∀ fmt, Reads.Statement (.vsel fmt) :=
  fun fmt => reads_of_engine rfl rfl (by
    unfold candidateEngine
    rw [wMajor_packW, wMinor_packW]
    change some (Instr.vsel (wLo4 _)) = _
    simp only [wLo4]
    rw [ext_packW _ _ _ _ _ (by decide)]
    repeat (first | rw [ext_append_high _ _ _ _ (by decide)] | rw [ext_append_low _ _ _ _ (by decide)])
    simp only [ext_self, Nat.reduceSub])

theorem Reads.vcvt : ∀ fmt, Reads.Statement (.vcvt fmt) :=
  fun fmt => reads_of_engine rfl rfl (by
    unfold candidateEngine
    rw [wMajor_packW, wMinor_packW]
    change some (Instr.vcvt (wLo4 _)) = _
    simp only [wLo4]
    rw [ext_packW _ _ _ _ _ (by decide)]
    repeat (first | rw [ext_append_high _ _ _ _ (by decide)] | rw [ext_append_low _ _ _ _ (by decide)])
    simp only [ext_self, Nat.reduceSub])

theorem Reads.vrcp : ∀ fmt, Reads.Statement (.vrcp fmt) :=
  fun fmt => reads_of_engine rfl rfl (by
    unfold candidateEngine
    rw [wMajor_packW, wMinor_packW]
    change some (Instr.vrcp (wLo4 _)) = _
    simp only [wLo4]
    rw [ext_packW _ _ _ _ _ (by decide)]
    repeat (first | rw [ext_append_high _ _ _ _ (by decide)] | rw [ext_append_low _ _ _ _ (by decide)])
    simp only [ext_self, Nat.reduceSub])

theorem Reads.vrsq : ∀ fmt, Reads.Statement (.vrsq fmt) :=
  fun fmt => reads_of_engine rfl rfl (by
    unfold candidateEngine
    rw [wMajor_packW, wMinor_packW]
    change some (Instr.vrsq (wLo4 _)) = _
    simp only [wLo4]
    rw [ext_packW _ _ _ _ _ (by decide)]
    repeat (first | rw [ext_append_high _ _ _ _ (by decide)] | rw [ext_append_low _ _ _ _ (by decide)])
    simp only [ext_self, Nat.reduceSub])

theorem Reads.vexp2 : ∀ fmt, Reads.Statement (.vexp2 fmt) :=
  fun fmt => reads_of_engine rfl rfl (by
    unfold candidateEngine
    rw [wMajor_packW, wMinor_packW]
    change some (Instr.vexp2 (wLo4 _)) = _
    simp only [wLo4]
    rw [ext_packW _ _ _ _ _ (by decide)]
    repeat (first | rw [ext_append_high _ _ _ _ (by decide)] | rw [ext_append_low _ _ _ _ (by decide)])
    simp only [ext_self, Nat.reduceSub])

theorem Reads.vlog2 : ∀ fmt, Reads.Statement (.vlog2 fmt) :=
  fun fmt => reads_of_engine rfl rfl (by
    unfold candidateEngine
    rw [wMajor_packW, wMinor_packW]
    change some (Instr.vlog2 (wLo4 _)) = _
    simp only [wLo4]
    rw [ext_packW _ _ _ _ _ (by decide)]
    repeat (first | rw [ext_append_high _ _ _ _ (by decide)] | rw [ext_append_low _ _ _ _ (by decide)])
    simp only [ext_self, Nat.reduceSub])

theorem Reads.vred : ∀ fmt, Reads.Statement (.vred fmt) :=
  fun fmt => reads_of_engine rfl rfl (by
    unfold candidateEngine
    rw [wMajor_packW, wMinor_packW]
    change some (Instr.vred (wLo4 _)) = _
    simp only [wLo4]
    rw [ext_packW _ _ _ _ _ (by decide)]
    repeat (first | rw [ext_append_high _ _ _ _ (by decide)] | rw [ext_append_low _ _ _ _ (by decide)])
    simp only [ext_self, Nat.reduceSub])

theorem Reads.viota : ∀ fmt, Reads.Statement (.viota fmt) :=
  fun fmt => reads_of_engine rfl rfl (by
    unfold candidateEngine
    rw [wMajor_packW, wMinor_packW]
    change some (Instr.viota (wLo4 _)) = _
    simp only [wLo4]
    rw [ext_packW _ _ _ _ _ (by decide)]
    repeat (first | rw [ext_append_high _ _ _ _ (by decide)] | rw [ext_append_low _ _ _ _ (by decide)])
    simp only [ext_self, Nat.reduceSub])

theorem Reads.vand : ∀ fmt, Reads.Statement (.vand fmt) :=
  fun fmt => reads_of_engine rfl rfl (by
    unfold candidateEngine
    rw [wMajor_packW, wMinor_packW]
    change some (Instr.vand (wLo4 _)) = _
    simp only [wLo4]
    rw [ext_packW _ _ _ _ _ (by decide)]
    repeat (first | rw [ext_append_high _ _ _ _ (by decide)] | rw [ext_append_low _ _ _ _ (by decide)])
    simp only [ext_self, Nat.reduceSub])

theorem Reads.vor : ∀ fmt, Reads.Statement (.vor fmt) :=
  fun fmt => reads_of_engine rfl rfl (by
    unfold candidateEngine
    rw [wMajor_packW, wMinor_packW]
    change some (Instr.vor (wLo4 _)) = _
    simp only [wLo4]
    rw [ext_packW _ _ _ _ _ (by decide)]
    repeat (first | rw [ext_append_high _ _ _ _ (by decide)] | rw [ext_append_low _ _ _ _ (by decide)])
    simp only [ext_self, Nat.reduceSub])

theorem Reads.vxor : ∀ fmt, Reads.Statement (.vxor fmt) :=
  fun fmt => reads_of_engine rfl rfl (by
    unfold candidateEngine
    rw [wMajor_packW, wMinor_packW]
    change some (Instr.vxor (wLo4 _)) = _
    simp only [wLo4]
    rw [ext_packW _ _ _ _ _ (by decide)]
    repeat (first | rw [ext_append_high _ _ _ _ (by decide)] | rw [ext_append_low _ _ _ _ (by decide)])
    simp only [ext_self, Nat.reduceSub])

theorem Reads.vshl : ∀ fmt, Reads.Statement (.vshl fmt) :=
  fun fmt => reads_of_engine rfl rfl (by
    unfold candidateEngine
    rw [wMajor_packW, wMinor_packW]
    change some (Instr.vshl (wLo4 _)) = _
    simp only [wLo4]
    rw [ext_packW _ _ _ _ _ (by decide)]
    repeat (first | rw [ext_append_high _ _ _ _ (by decide)] | rw [ext_append_low _ _ _ _ (by decide)])
    simp only [ext_self, Nat.reduceSub])

theorem Reads.vshr : ∀ fmt, Reads.Statement (.vshr fmt) :=
  fun fmt => reads_of_engine rfl rfl (by
    unfold candidateEngine
    rw [wMajor_packW, wMinor_packW]
    change some (Instr.vshr (wLo4 _)) = _
    simp only [wLo4]
    rw [ext_packW _ _ _ _ _ (by decide)]
    repeat (first | rw [ext_append_high _ _ _ _ (by decide)] | rw [ext_append_low _ _ _ _ (by decide)])
    simp only [ext_self, Nat.reduceSub])

theorem Reads.vmov : ∀ fmt, Reads.Statement (.vmov fmt) :=
  fun fmt => reads_of_engine rfl rfl (by
    unfold candidateEngine
    rw [wMajor_packW, wMinor_packW]
    change some (Instr.vmov (wLo4 _)) = _
    simp only [wLo4]
    rw [ext_packW _ _ _ _ _ (by decide)]
    repeat (first | rw [ext_append_high _ _ _ _ (by decide)] | rw [ext_append_low _ _ _ _ (by decide)])
    simp only [ext_self, Nat.reduceSub])

theorem Reads.vrnd : Reads.Statement (.vrnd) :=
  reads_of_engine rfl rfl rfl

theorem Reads.vtmask : Reads.Statement (.vtmask) :=
  reads_of_engine rfl rfl rfl

theorem Reads.vsmax : ∀ masked fmt, Reads.Statement (.vsmax masked fmt) :=
  fun masked fmt => reads_of_engine rfl rfl (by
    unfold candidateEngine
    rw [wMajor_packW, wMinor_packW]
    change some (Instr.vsmax (wB4 _) (wLo4 _)) = _
    simp only [wB4, wLo4]
    rw [ext_packW _ _ _ _ _ (by decide)]
    repeat (first | rw [ext_append_high _ _ _ _ (by decide)] | rw [ext_append_low _ _ _ _ (by decide)])
    repeat rw [bit_packW _ _ _ _ (by decide)]
    repeat (first | rw [bit_append_high _ _ _ (by decide)] | rw [bit_append_low _ _ _ (by decide)])
    simp only [ext_self, bit_self, Nat.reduceSub])

theorem Reads.vtopk : Reads.Statement (.vtopk) :=
  reads_of_engine rfl rfl rfl

theorem Reads.vargmax : Reads.Statement (.vargmax) :=
  reads_of_engine rfl rfl rfl

theorem Reads.vscan : ∀ fmt, Reads.Statement (.vscan fmt) :=
  fun fmt => reads_of_engine rfl rfl (by
    unfold candidateEngine
    rw [wMajor_packW, wMinor_packW]
    change some (Instr.vscan (wLo4 _)) = _
    simp only [wLo4]
    rw [ext_packW _ _ _ _ _ (by decide)]
    repeat (first | rw [ext_append_high _ _ _ _ (by decide)] | rw [ext_append_low _ _ _ _ (by decide)])
    simp only [ext_self, Nat.reduceSub])

theorem Reads.vquant : ∀ fmt, Reads.Statement (.vquant fmt) :=
  fun fmt => reads_of_engine rfl rfl (by
    unfold candidateEngine
    rw [wMajor_packW, wMinor_packW]
    change some (Instr.vquant (wLo4 _)) = _
    simp only [wLo4]
    rw [ext_packW _ _ _ _ _ (by decide)]
    repeat (first | rw [ext_append_high _ _ _ _ (by decide)] | rw [ext_append_low _ _ _ _ (by decide)])
    simp only [ext_self, Nat.reduceSub])

theorem Reads.vdeq : ∀ fmt, Reads.Statement (.vdeq fmt) :=
  fun fmt => reads_of_engine rfl rfl (by
    unfold candidateEngine
    rw [wMajor_packW, wMinor_packW]
    change some (Instr.vdeq (wLo4 _)) = _
    simp only [wLo4]
    rw [ext_packW _ _ _ _ _ (by decide)]
    repeat (first | rw [ext_append_high _ _ _ _ (by decide)] | rw [ext_append_low _ _ _ _ (by decide)])
    simp only [ext_self, Nat.reduceSub])

theorem Reads.xray : Reads.Statement (.xray) :=
  reads_of_engine rfl rfl rfl

theorem Reads.xrad : Reads.Statement (.xrad) :=
  reads_of_engine rfl rfl rfl

theorem Reads.xknn : Reads.Statement (.xknn) :=
  reads_of_engine rfl rfl rfl

theorem Reads.xbox : Reads.Statement (.xbox) :=
  reads_of_engine rfl rfl rfl

theorem Reads.nopw : Reads.Statement (.nopw) :=
  reads_of_engine rfl rfl rfl

theorem Reads.createContext : ∀ ctx node priv paired partner l1 save status header, Reads.Statement (.createContext ctx node priv paired partner l1 save status header) :=
  fun _ _ _ _ _ _ _ _ _ => reads_of_none rfl rfl

theorem Reads.destroyContext : ∀ ctx, Reads.Statement (.destroyContext ctx) :=
  fun _ => reads_of_none rfl rfl

theorem Reads.setRegion : ∀ node block, Reads.Statement (.setRegion node block) :=
  fun _ _ => reads_of_none rfl rfl

theorem Reads.setRegionDelete : ∀ node, Reads.Statement (.setRegionDelete node) :=
  fun _ => reads_of_none rfl rfl

theorem Reads.setLayout : ∀ ctx handle record, Reads.Statement (.setLayout ctx handle record) :=
  fun _ _ _ => reads_of_none rfl rfl

theorem Reads.declarePipeline : ∀ ctx record, Reads.Statement (.declarePipeline ctx record) :=
  fun _ _ => reads_of_none rfl rfl

theorem Reads.setPlank : ∀ record, Reads.Statement (.setPlank record) :=
  fun _ => reads_of_none rfl rfl

theorem Reads.submit : ∀ ctx queue card, Reads.Statement (.submit ctx queue card) :=
  fun _ _ _ => reads_of_none rfl rfl

theorem Reads.tlbInvalidateAll : ∀ operand, Reads.Statement (.tlbInvalidateAll operand) :=
  fun _ => reads_of_none rfl rfl

theorem Reads.tlbInvalidateAsid : ∀ operand, Reads.Statement (.tlbInvalidateAsid operand) :=
  fun _ => reads_of_none rfl rfl

theorem Reads.tlbInvalidatePage : ∀ operand, Reads.Statement (.tlbInvalidatePage operand) :=
  fun _ => reads_of_none rfl rfl

theorem Reads.resume : ∀ ctx core slot, Reads.Statement (.resume ctx core slot) :=
  fun _ _ _ => reads_of_none rfl rfl

theorem Reads.resumeAll : ∀ ctx, Reads.Statement (.resumeAll ctx) :=
  fun _ => reads_of_none rfl rfl

theorem Reads.abort : ∀ ctx core slot, Reads.Statement (.abort ctx core slot) :=
  fun _ _ _ => reads_of_none rfl rfl

theorem Reads.abortAll : ∀ ctx, Reads.Statement (.abortAll ctx) :=
  fun _ => reads_of_none rfl rfl

theorem Reads.resetPartition : ∀ core slot, Reads.Statement (.resetPartition core slot) :=
  fun _ _ => reads_of_none rfl rfl

theorem Reads.hostHalt : ∀ ctx, Reads.Statement (.hostHalt ctx) :=
  fun _ => reads_of_none rfl rfl

theorem Reads.stepStream : ∀ ctx core slot eng, Reads.Statement (.stepStream ctx core slot eng) :=
  fun _ _ _ _ => reads_of_none rfl rfl

theorem Reads.queueTailWrite : ∀ queue tail, Reads.Statement (.queueTailWrite queue tail) :=
  fun _ _ => reads_of_none rfl rfl

theorem Reads.ctrlGo : Reads.Statement (.ctrlGo) :=
  reads_of_none rfl rfl

theorem Reads.ctrlRst : Reads.Statement (.ctrlRst) :=
  reads_of_none rfl rfl

theorem Reads.attgo : Reads.Statement (.attgo) :=
  reads_of_none rfl rfl

theorem Reads.dbgResp : ∀ response challenge, Reads.Statement (.dbgResp response challenge) :=
  fun _ _ => reads_of_none rfl rfl

theorem Reads.fwgo : Reads.Statement (.fwgo) :=
  reads_of_none rfl rfl

theorem Reads.w0Write : ∀ off value, Reads.Statement (.w0Write off value) :=
  fun _ _ => reads_of_none rfl rfl

theorem Reads.hostW2 : ∀ write addr n data, Reads.Statement (.hostW2 write addr n data) :=
  fun _ _ _ _ => reads_of_none rfl rfl

theorem Reads.hostAtomicOp : ∀ op wide addr operand compare, Reads.Statement (.hostAtomicOp op wide addr operand compare) :=
  fun _ _ _ _ _ => reads_of_none rfl rfl

theorem Reads.hostReadCompletion : ∀ pa success data, Reads.Statement (.hostReadCompletion pa success data) :=
  fun _ _ _ => reads_of_none rfl rfl

theorem Reads.completionTimeout : ∀ pa n, Reads.Statement (.completionTimeout pa n) :=
  fun _ _ => reads_of_none rfl rfl

theorem Reads.t1Frame : ∀ port etype queue seq entries, Reads.Statement (.t1Frame port etype queue seq entries) :=
  fun _ _ _ _ _ => reads_of_none rfl rfl

theorem Reads.t1Reply : ∀ port, Reads.Statement (.t1Reply port) :=
  fun _ => reads_of_none rfl rfl

theorem Reads.ptpSync : ∀ port ns, Reads.Statement (.ptpSync port ns) :=
  fun _ _ => reads_of_none rfl rfl

theorem Reads.coldStart : ∀ report, Reads.Statement (.coldStart report) :=
  fun _ => reads_of_none rfl rfl

theorem Reads.perst : ∀ report, Reads.Statement (.perst report) :=
  fun _ => reads_of_none rfl rfl

theorem Reads.startTimeout : Reads.Statement (.startTimeout) :=
  reads_of_none rfl rfl

theorem Reads.startRetry : ∀ report, Reads.Statement (.startRetry report) :=
  fun _ => reads_of_none rfl rfl

theorem Reads.clockStretch : ∀ edges, Reads.Statement (.clockStretch edges) :=
  fun _ => reads_of_none rfl rfl

theorem Reads.supplyPause : Reads.Statement (.supplyPause) :=
  reads_of_none rfl rfl

theorem Reads.supplyRecover : Reads.Statement (.supplyRecover) :=
  reads_of_none rfl rfl

theorem Reads.pauseTimeout : ∀ report, Reads.Statement (.pauseTimeout report) :=
  fun _ => reads_of_none rfl rfl

theorem Reads.linkCrcRetry : ∀ link, Reads.Statement (.linkCrcRetry link) :=
  fun _ => reads_of_none rfl rfl

theorem Reads.linkTrainingLost : ∀ link, Reads.Statement (.linkTrainingLost link) :=
  fun _ => reads_of_none rfl rfl

theorem Reads.linkRetrained : ∀ link, Reads.Statement (.linkRetrained link) :=
  fun _ => reads_of_none rfl rfl

theorem Reads.linkRetrainTimeout : ∀ link report, Reads.Statement (.linkRetrainTimeout link report) :=
  fun _ _ => reads_of_none rfl rfl

theorem Reads.remoteWriteApply : ∀ die index, Reads.Statement (.remoteWriteApply die index) :=
  fun _ _ => reads_of_none rfl rfl

theorem Reads.alarm : ∀ source report, Reads.Statement (.alarm source report) :=
  fun _ _ => reads_of_none rfl rfl

theorem Reads.admissionDecision : Reads.Statement (.admissionDecision) :=
  reads_of_none rfl rfl

theorem Reads.placement : Reads.Statement (.placement) :=
  reads_of_none rfl rfl

theorem Reads.jobStart : ∀ slot, Reads.Statement (.jobStart slot) :=
  fun _ => reads_of_none rfl rfl

theorem Reads.jobRetire : ∀ slot, Reads.Statement (.jobRetire slot) :=
  fun _ => reads_of_none rfl rfl

theorem Reads.pipelineAllocator : Reads.Statement (.pipelineAllocator) :=
  reads_of_none rfl rfl

theorem Reads.plankWindowEnd : ∀ cluster, Reads.Statement (.plankWindowEnd cluster) :=
  fun _ => reads_of_none rfl rfl

theorem Reads.segmentOverrun : ∀ slot, Reads.Statement (.segmentOverrun slot) :=
  fun _ => reads_of_none rfl rfl

theorem Reads.waitConditionMet : ∀ slot eng, Reads.Statement (.waitConditionMet slot eng) :=
  fun _ _ => reads_of_none rfl rfl

theorem Reads.launchStart : ∀ slot eng, Reads.Statement (.launchStart slot eng) :=
  fun _ _ => reads_of_none rfl rfl

theorem Reads.launchComplete : ∀ slot eng index, Reads.Statement (.launchComplete slot eng index) :=
  fun _ _ _ => reads_of_none rfl rfl

theorem Reads.copyByteLand : ∀ slot src, Reads.Statement (.copyByteLand slot src) :=
  fun _ _ => reads_of_none rfl rfl

theorem Reads.mmasStamp : ∀ slot, Reads.Statement (.mmasStamp slot) :=
  fun _ => reads_of_none rfl rfl

theorem Reads.chainRecordRead : ∀ slot ch, Reads.Statement (.chainRecordRead slot ch) :=
  fun _ _ => reads_of_none rfl rfl

theorem Reads.chainRecordComplete : ∀ slot ch, Reads.Statement (.chainRecordComplete slot ch) :=
  fun _ _ => reads_of_none rfl rfl

theorem Reads.tileLineFill : ∀ index, Reads.Statement (.tileLineFill index) :=
  fun _ => reads_of_none rfl rfl

theorem Reads.dieUnitRequest : ∀ die unit, Reads.Statement (.dieUnitRequest die unit) :=
  fun _ _ => reads_of_none rfl rfl

theorem Reads.dieUnitReply : ∀ slot, Reads.Statement (.dieUnitReply slot) :=
  fun _ => reads_of_none rfl rfl

theorem Reads.rdysetApply : ∀ die, Reads.Statement (.rdysetApply die) :=
  fun _ => reads_of_none rfl rfl

theorem Reads.handlerEntry : ∀ slot, Reads.Statement (.handlerEntry slot) :=
  fun _ => reads_of_none rfl rfl

theorem Reads.jobStopComplete : ∀ slot steps, Reads.Statement (.jobStopComplete slot steps) :=
  fun _ _ => reads_of_none rfl rfl

theorem Reads.faultQueuePost : Reads.Statement (.faultQueuePost) :=
  reads_of_none rfl rfl

theorem Reads.faultDomainDrain : ∀ slot, Reads.Statement (.faultDomainDrain slot) :=
  fun _ => reads_of_none rfl rfl

theorem Reads.softError : ∀ target uncorrectable, Reads.Statement (.softError target uncorrectable) :=
  fun _ _ => reads_of_none rfl rfl

theorem Reads.launchFault : ∀ slot eng index, Reads.Statement (.launchFault slot eng index) :=
  fun _ _ _ => reads_of_none rfl rfl

theorem Reads.chainFault : ∀ slot ch, Reads.Statement (.chainFault slot ch) :=
  fun _ _ => reads_of_none rfl rfl

theorem Reads.hostAtomicOpCompletion : ∀ success old, Reads.Statement (.hostAtomicOpCompletion success old) :=
  fun _ _ => reads_of_none rfl rfl

theorem Reads.tileLineWriteBack : ∀ index, Reads.Statement (.tileLineWriteBack index) :=
  fun _ => reads_of_none rfl rfl

end Sys2Proof.Laws
end

