-- ==== Sys2Proof/Tests/Slice0.lean ====
section
/-! SUPPORT. Tests: words written out from the encodings of the spec and what they decode to; words that decode to nothing; a state and
operands that meet the hypotheses of each statement; and single steps whose results the spec works out. -/

namespace Sys2Proof.Tests

open Sys2Proof Sys2Proof.Machine Sys2Proof.Claim

set_option maxRecDepth 100000
set_option Elab.async false

/-! Decoding. Each word is the sum of its fields, by R136 to R145. -/

theorem test_decode_integer_1 :
    [0xD500000000000000, 0xD50065AEB0000000, 0xD500A5AEB0000000, 0xD500E5AEB0000000, 0xD50125AEB0000000, 0xD50165AEB0000000, 0xD501A5AEB0000000, 0xD501E5AEB0000000, 0xD50225AEB0000000, 0xD50265AEB0000000].map (decodeTableWord 64) =
      [some (.nop ⟨true, 0x55⟩), some (.add ⟨true, 0x55⟩ 37 ⟨43, true⟩ ⟨22, false⟩), some (.sub ⟨true, 0x55⟩ 37 ⟨43, true⟩ ⟨22, false⟩), some (.mul ⟨true, 0x55⟩ 37 ⟨43, true⟩ ⟨22, false⟩), some (.mulh ⟨true, 0x55⟩ 37 ⟨43, true⟩ ⟨22, false⟩), some (.mulhu ⟨true, 0x55⟩ 37 ⟨43, true⟩ ⟨22, false⟩), some (.div ⟨true, 0x55⟩ 37 ⟨43, true⟩ ⟨22, false⟩), some (.divu ⟨true, 0x55⟩ 37 ⟨43, true⟩ ⟨22, false⟩), some (.rem ⟨true, 0x55⟩ 37 ⟨43, true⟩ ⟨22, false⟩), some (.remu ⟨true, 0x55⟩ 37 ⟨43, true⟩ ⟨22, false⟩)] := by
  decide

theorem test_decode_integer_2 :
    [0xD502A5AEB0000000, 0xD502E5AEB0000000, 0xD50325AEB0000000, 0xD50365AEB0000000, 0xD503A5AEB0000000, 0xD503E5AEB0000000, 0xD50425AEB0000000, 0xD50465AEB0000000, 0xD504A5AEB0000000, 0xD504E5AEB0000000].map (decodeTableWord 64) =
      [some (.and ⟨true, 0x55⟩ 37 ⟨43, true⟩ ⟨22, false⟩), some (.or ⟨true, 0x55⟩ 37 ⟨43, true⟩ ⟨22, false⟩), some (.xor ⟨true, 0x55⟩ 37 ⟨43, true⟩ ⟨22, false⟩), some (.andn ⟨true, 0x55⟩ 37 ⟨43, true⟩ ⟨22, false⟩), some (.shl ⟨true, 0x55⟩ 37 ⟨43, true⟩ ⟨22, false⟩), some (.shr ⟨true, 0x55⟩ 37 ⟨43, true⟩ ⟨22, false⟩), some (.sra ⟨true, 0x55⟩ 37 ⟨43, true⟩ ⟨22, false⟩), some (.ror ⟨true, 0x55⟩ 37 ⟨43, true⟩ ⟨22, false⟩), some (.min ⟨true, 0x55⟩ 37 ⟨43, true⟩ ⟨22, false⟩), some (.max ⟨true, 0x55⟩ 37 ⟨43, true⟩ ⟨22, false⟩)] := by
  decide

theorem test_decode_integer_3 :
    [0xD50525AEB0000000, 0xD50565AEB0000000, 0xD505A5AE00000000, 0xD505E5AE00000000, 0xD50625AE00000000, 0xD50665AEB3980000, 0xD506A5AEB3980000, 0xD50725AEB3980000, 0xD506E5AEB006A000].map (decodeTableWord 64) =
      [some (.minu ⟨true, 0x55⟩ 37 ⟨43, true⟩ ⟨22, false⟩), some (.maxu ⟨true, 0x55⟩ 37 ⟨43, true⟩ ⟨22, false⟩), some (.clz ⟨true, 0x55⟩ 37 ⟨43, true⟩), some (.ctz ⟨true, 0x55⟩ 37 ⟨43, true⟩), some (.popc ⟨true, 0x55⟩ 37 ⟨43, true⟩), some (.bext ⟨true, 0x55⟩ 37 ⟨43, true⟩ ⟨22, false⟩ ⟨57, true⟩), some (.bins ⟨true, 0x55⟩ 37 ⟨43, true⟩ ⟨22, false⟩ ⟨57, true⟩), some (.madd ⟨true, 0x55⟩ 37 ⟨43, true⟩ ⟨22, false⟩ ⟨57, true⟩), some (.sel ⟨true, 0x55⟩ 37 0x6A ⟨43, true⟩ ⟨22, false⟩)] := by
  decide

theorem test_decode_immediate_1 :
    [0xD50825AE9ABCDEF1, 0xD50865AE9ABCDEF1, 0xD508A5AE9ABCDEF1, 0xD508E5AE9ABCDEF1, 0xD50A25AE9ABCDEF1, 0xD50A65AE9ABCDEF1, 0xD50925AE0000003F, 0xD50965AE0000003F, 0xD509A5AE0000003F, 0xD509E500FFFFFFFE].map (decodeTableWord 64) =
      [some (.addi ⟨true, 0x55⟩ 37 ⟨43, true⟩ 0x9ABCDEF1), some (.andi ⟨true, 0x55⟩ 37 ⟨43, true⟩ 0x9ABCDEF1), some (.ori ⟨true, 0x55⟩ 37 ⟨43, true⟩ 0x9ABCDEF1), some (.xori ⟨true, 0x55⟩ 37 ⟨43, true⟩ 0x9ABCDEF1), some (.movhi ⟨true, 0x55⟩ 37 ⟨43, true⟩ 0x9ABCDEF1), some (.muli ⟨true, 0x55⟩ 37 ⟨43, true⟩ 0x9ABCDEF1), some (.shli ⟨true, 0x55⟩ 37 ⟨43, true⟩ 63), some (.shri ⟨true, 0x55⟩ 37 ⟨43, true⟩ 63), some (.srai ⟨true, 0x55⟩ 37 ⟨43, true⟩ 63), some (.movi ⟨true, 0x55⟩ 37 0xFFFFFFFE)] := by
  decide

theorem test_decode_immediate_2 :
    [0xD50AA500FFFFFFFE, 0xD51925AEFFFFFFFD].map (decodeTableWord 64) =
      [some (.leapc ⟨true, 0x55⟩ 37 0xFFFFFFFE), some (.dbnz ⟨true, 0x55⟩ 37 ⟨43, true⟩ 0xFFFFFFFD)] := by
  decide

theorem test_decode_predicates_and_branches_1 :
    [0xD51015D4AEB00000, 0xD51015D4AEB04000, 0xD51015D4AEB08000, 0xD51015D4AEB0C000, 0xD51015D4AEB10000, 0xD51015D4AEB14000, 0xD5100000AEB04000, 0xD51055D4AE9FFFFE, 0xD51095D4AEB20000, 0xD51095D4AEB26000].map (decodeTableWord 64) =
      [some (.cmp ⟨true, 0x55⟩ 0x2B 0x54 0 ⟨43, true⟩ ⟨22, false⟩), some (.cmp ⟨true, 0x55⟩ 0x2B 0x54 1 ⟨43, true⟩ ⟨22, false⟩), some (.cmp ⟨true, 0x55⟩ 0x2B 0x54 2 ⟨43, true⟩ ⟨22, false⟩), some (.cmp ⟨true, 0x55⟩ 0x2B 0x54 3 ⟨43, true⟩ ⟨22, false⟩), some (.cmp ⟨true, 0x55⟩ 0x2B 0x54 4 ⟨43, true⟩ ⟨22, false⟩), some (.cmp ⟨true, 0x55⟩ 0x2B 0x54 5 ⟨43, true⟩ ⟨22, false⟩), some (.cmp ⟨true, 0x55⟩ 0 0 1 ⟨43, true⟩ ⟨22, false⟩), some (.cmpi ⟨true, 0x55⟩ 0x2B 0x54 4 ⟨43, true⟩ 0x1FFFFE), some (.fcmp ⟨true, 0x55⟩ 0x2B 0x54 8 false ⟨43, true⟩ ⟨22, false⟩), some (.fcmp ⟨true, 0x55⟩ 0x2B 0x54 9 true ⟨43, true⟩ ⟨22, false⟩)] := by
  decide

theorem test_decode_predicates_and_branches_2 :
    [0xD51095D4AEB28000, 0xD51095D4AEB2E000, 0xD51095D4AEB32000, 0xD510D5D4C3000000, 0xD51115D4C2800000, 0xD51155D4C3800000, 0xD511A50000000001, 0xD511C0AE00000001, 0xD5183FFFFFFFFFFD, 0xD5184123456789AB].map (decodeTableWord 64) =
      [some (.fcmp ⟨true, 0x55⟩ 0x2B 0x54 10 false ⟨43, true⟩ ⟨22, false⟩), some (.fcmp ⟨true, 0x55⟩ 0x2B 0x54 11 true ⟨43, true⟩ ⟨22, false⟩), some (.fcmp ⟨true, 0x55⟩ 0x2B 0x54 12 true ⟨43, true⟩ ⟨22, false⟩), some (.pand ⟨true, 0x55⟩ 0x2B 0x54 0x61 true false), some (.por ⟨true, 0x55⟩ 0x2B 0x54 0x61 false true), some (.pxor ⟨true, 0x55⟩ 0x2B 0x54 0x61 true true), some (.pget ⟨true, 0x55⟩ 37 true), some (.pput ⟨true, 0x55⟩ true ⟨43, true⟩), some (.br ⟨true, 0x55⟩ 0x3FFFFFFFFFFD), some (.call ⟨true, 0x55⟩ 0x123456789AB)] := by
  decide

theorem test_decode_predicates_and_branches_3 :
    [0xD51880AE00000000, 0xD518E5AE00000000].map (decodeTableWord 64) =
      [some (.jmp ⟨true, 0x55⟩ ⟨43, true⟩), some (.callr ⟨true, 0x55⟩ 37 ⟨43, true⟩)] := by
  decide

theorem test_decode_floating_1 :
    [0xD52025AEB0058000, 0xD52065AEB0058000, 0xD520A5AEB0058000, 0xD52125AEB0058000, 0xD520E5AEB39B0000, 0xD52165AE00068000, 0xD522A5AE00068000, 0xD522E5AE00068000, 0xD521A5AEB0008000, 0xD521E5AEB0008000].map (decodeTableWord 64) =
      [some (.fadd ⟨true, 0x55⟩ 37 5 true ⟨43, true⟩ ⟨22, false⟩), some (.fsub ⟨true, 0x55⟩ 37 5 true ⟨43, true⟩ ⟨22, false⟩), some (.fmul ⟨true, 0x55⟩ 37 5 true ⟨43, true⟩ ⟨22, false⟩), some (.fdiv ⟨true, 0x55⟩ 37 5 true ⟨43, true⟩ ⟨22, false⟩), some (.ffma ⟨true, 0x55⟩ 37 3 false ⟨43, true⟩ ⟨22, false⟩ ⟨57, true⟩), some (.fsqrt ⟨true, 0x55⟩ 37 6 true ⟨43, true⟩), some (.fexp2 ⟨true, 0x55⟩ 37 6 true ⟨43, true⟩), some (.flog2 ⟨true, 0x55⟩ 37 6 true ⟨43, true⟩), some (.fmin ⟨true, 0x55⟩ 37 true ⟨43, true⟩ ⟨22, false⟩), some (.fmax ⟨true, 0x55⟩ 37 true ⟨43, true⟩ ⟨22, false⟩)] := by
  decide

theorem test_decode_floating_2 :
    [0xD52225AE00029000, 0xD52265AE00008000].map (decodeTableWord 64) =
      [some (.fcvt ⟨true, 0x55⟩ 37 2 9 ⟨43, true⟩), some (.fclass ⟨true, 0x55⟩ 37 true ⟨43, true⟩)] := by
  decide

theorem test_decode_memory_1 :
    [0xD52825AECCFFFFF0, 0xD52856AD75923456, 0xD528A5AE80200000, 0xD528D6AF54000001, 0xD52900AE00155555, 0xD52940AE00000000, 0xD52980AE05BFFFFF, 0xD529C0AE05000010, 0xD53025AEB004D600, 0xD53065AEB0032C00].map (decodeTableWord 64) =
      [some (.ld ⟨true, 0x55⟩ 37 ⟨43, true⟩ 6 1 9 true 0x3FFFF0), some (.st ⟨true, 0x55⟩ ⟨22, true⟩ ⟨43, false⟩ 3 2 11 0x123456), some (.ldsp ⟨true, 0x55⟩ 37 ⟨43, true⟩ 4 0 0 0x200000), some (.stsp ⟨true, 0x55⟩ ⟨22, true⟩ ⟨43, true⟩ 2 2 8 0x000001), some (.pref ⟨true, 0x55⟩ ⟨43, true⟩ 0x155555), some (.chk ⟨true, 0x55⟩ ⟨43, true⟩), some (.clean ⟨true, 0x55⟩ ⟨43, true⟩ 11 0x3FFFFF), some (.inval ⟨true, 0x55⟩ ⟨43, true⟩ 10 0x000010), some (.aadd ⟨true, 0x55⟩ 37 ⟨43, true⟩ ⟨22, false⟩ 2 6 2 3), some (.aand ⟨true, 0x55⟩ 37 ⟨43, true⟩ ⟨22, false⟩ 1 9 1 2)] := by
  decide

theorem test_decode_memory_2 :
    [0xD530A5AEB0077C00, 0xD530E5AEB0000600, 0xD53125AEB0023400, 0xD53165AEB0044E00, 0xD531A5AEB0066400, 0xD531E5AEB0029E00, 0xD53225AEB004B400, 0xD532A5AEB0070E00, 0xD53265AEB39EF600, 0xD538000000052000].map (decodeTableWord 64) =
      [some (.aor ⟨true, 0x55⟩ 37 ⟨43, true⟩ ⟨22, false⟩ 3 11 3 2), some (.axor ⟨true, 0x55⟩ 37 ⟨43, true⟩ ⟨22, false⟩ 0 0 0 3), some (.amin ⟨true, 0x55⟩ 37 ⟨43, true⟩ ⟨22, false⟩ 1 1 2 2), some (.amax ⟨true, 0x55⟩ 37 ⟨43, true⟩ ⟨22, false⟩ 2 2 1 3), some (.aminu ⟨true, 0x55⟩ 37 ⟨43, true⟩ ⟨22, false⟩ 3 3 0 2), some (.amaxu ⟨true, 0x55⟩ 37 ⟨43, true⟩ ⟨22, false⟩ 1 4 3 3), some (.aswp ⟨true, 0x55⟩ 37 ⟨43, true⟩ ⟨22, false⟩ 2 5 2 2), some (.afadd ⟨true, 0x55⟩ 37 ⟨43, true⟩ ⟨22, false⟩ 3 8 1 3), some (.acas ⟨true, 0x55⟩ 37 ⟨43, true⟩ ⟨22, false⟩ ⟨57, true⟩ 3 7 2 3), some (.fence ⟨true, 0x55⟩ 2 9)] := by
  decide

theorem test_decode_synchronisation_and_jobs_1 :
    [0xD54025AEB000C000, 0xD54065AE00000000, 0xD54080AEB0000000, 0xD540C0AEB0000000, 0xD54100AEB004B000, 0xD54165AE00000000, 0xD54180AE00000000, 0xD541E5AE00000000, 0xD54200AE00000000, 0xD54825AE00030000].map (decodeTableWord 64) =
      [some (.barinit ⟨true, 0x55⟩ 37 ⟨43, true⟩ ⟨22, false⟩ 6), some (.bararrive ⟨true, 0x55⟩ 37 ⟨43, true⟩), some (.barexpect ⟨true, 0x55⟩ ⟨43, true⟩ ⟨22, false⟩), some (.barwait ⟨true, 0x55⟩ ⟨43, true⟩ ⟨22, false⟩), some (.bartest ⟨true, 0x55⟩ 0x4B ⟨43, true⟩ ⟨22, false⟩), some (.tagwaitany ⟨true, 0x55⟩ 37 ⟨43, true⟩), some (.tagwaitall ⟨true, 0x55⟩ ⟨43, true⟩), some (.tagfirst ⟨true, 0x55⟩ 37 ⟨43, true⟩), some (.tagclr ⟨true, 0x55⟩ ⟨43, true⟩), some (.estart ⟨true, 0x55⟩ 37 3 ⟨43, true⟩)] := by
  decide

theorem test_decode_synchronisation_and_jobs_2 :
    [0xD54840AE0004B000, 0xD548A5000002D000, 0xD548C0AE00000000, 0xD54900000000B000, 0xD54965AE0001D000, 0xD549800000000000, 0xD549E5AEB0001000, 0xD549E50000011000, 0xD549E50000020000, 0xD54A250000001000].map (decodeTableWord 64) =
      [some (.eput ⟨true, 0x55⟩ 4 0xB ⟨43, true⟩), some (.eget ⟨true, 0x55⟩ 37 2 0xD), some (.fmtq ⟨true, 0x55⟩ ⟨43, true⟩), some (.join ⟨true, 0x55⟩ 0xB), some (.spawn ⟨true, 0x55⟩ 37 ⟨43, true⟩ 0xD true), some (.jend ⟨true, 0x55⟩), some (.cpchainBind ⟨true, 0x55⟩ 37 ⟨43, true⟩ ⟨22, false⟩ true), some (.cpchainKick ⟨true, 0x55⟩ 37 true), some (.cpchainStop ⟨true, 0x55⟩ 37 false), some (.cpstat ⟨true, 0x55⟩ 37 true)] := by
  decide

theorem test_decode_tiles_1 :
    [0xD55025AEB0000000, 0xD55040AEB004B000, 0xD55080AEB007A000, 0xD550C0AEB0000000, 0xD550C0AE00040000, 0xD55100AEB0000000, 0xD55100AE00040000, 0xD55165AEB0000000, 0xD55180AEB0000000, 0xD551E5AEB0000000].map (decodeTableWord 64) =
      [some (.rdyset ⟨true, 0x55⟩ 37 ⟨43, true⟩ ⟨22, false⟩), some (.rdytest ⟨true, 0x55⟩ 0x4B ⟨43, true⟩ ⟨22, false⟩), some (.tcpref ⟨true, 0x55⟩ ⟨43, true⟩ ⟨22, false⟩ 3 0xD), some (.tcinv ⟨true, 0x55⟩ ⟨43, true⟩ ⟨22, false⟩ false), some (.tcinv ⟨true, 0x55⟩ ⟨43, true⟩ ⟨0, false⟩ true), some (.tcclean ⟨true, 0x55⟩ ⟨43, true⟩ ⟨22, false⟩ false), some (.tcclean ⟨true, 0x55⟩ ⟨43, true⟩ ⟨0, false⟩ true), some (.tcpin ⟨true, 0x55⟩ 37 ⟨43, true⟩ ⟨22, false⟩), some (.tcunpin ⟨true, 0x55⟩ ⟨43, true⟩ ⟨22, false⟩), some (.tclook ⟨true, 0x55⟩ 37 ⟨43, true⟩ ⟨22, false⟩)] := by
  decide

theorem test_decode_tiles_2 :
    [0xD55200AEB3980000].map (decodeTableWord 64) =
      [some (.tchalo ⟨true, 0x55⟩ ⟨43, true⟩ ⟨22, false⟩ ⟨57, true⟩)] := by
  decide

theorem test_decode_speculation_and_text_1 :
    [0xD56025AEB3980000, 0xD56065AEB3980000, 0xD560A5AEB0000000, 0xD560E5AEB3980000, 0xD56125AEB3980000, 0xD56165AEB0000000, 0xD561A5AEB0000000, 0xD561E5AE00000000, 0xD56200AE00000000, 0xD56265AE00000000].map (decodeTableWord 64) =
      [some (.kvappend ⟨true, 0x55⟩ 37 ⟨43, true⟩ ⟨22, false⟩ ⟨57, true⟩), some (.kvcommit ⟨true, 0x55⟩ 37 ⟨43, true⟩ ⟨22, false⟩ ⟨57, true⟩), some (.kvsquash ⟨true, 0x55⟩ 37 ⟨43, true⟩ ⟨22, false⟩), some (.kvtrunc ⟨true, 0x55⟩ 37 ⟨43, true⟩ ⟨22, false⟩ ⟨57, true⟩), some (.kvfork ⟨true, 0x55⟩ 37 ⟨43, true⟩ ⟨22, false⟩ ⟨57, true⟩), some (.kvfree ⟨true, 0x55⟩ 37 ⟨43, true⟩ ⟨22, false⟩), some (.cksnap ⟨true, 0x55⟩ 37 ⟨43, true⟩ ⟨22, false⟩), some (.cksel ⟨true, 0x55⟩ 37 ⟨43, true⟩), some (.ckdrop ⟨true, 0x55⟩ ⟨43, true⟩), some (.smpstart ⟨true, 0x55⟩ 37 ⟨43, true⟩)] := by
  decide

theorem test_decode_speculation_and_text_2 :
    [0xD562A5AE00000000, 0xD562E50000000000, 0xD56300AEB0040000, 0xD563650000031000, 0xD56825AEB0000000, 0xD56865AEB0000000, 0xD568A5AEB0000000, 0xD56925AEB0000000, 0xD568E5AEB0000000, 0xD568E5AEB0010000].map (decodeTableWord 64) =
      [some (.acctest ⟨true, 0x55⟩ 37 ⟨43, true⟩), some (.rndc ⟨true, 0x55⟩ 37), some (.rngset ⟨true, 0x55⟩ 4 ⟨43, true⟩ ⟨22, false⟩), some (.rngget ⟨true, 0x55⟩ 37 3 true), some (.txenc ⟨true, 0x55⟩ 37 ⟨43, true⟩ ⟨22, false⟩), some (.txdec ⟨true, 0x55⟩ 37 ⟨43, true⟩ ⟨22, false⟩), some (.txcons ⟨true, 0x55⟩ 37 ⟨43, true⟩ ⟨22, false⟩), some (.txmask ⟨true, 0x55⟩ 37 ⟨43, true⟩ ⟨22, false⟩), some (.txvocabOpen ⟨true, 0x55⟩ 37 ⟨43, true⟩ ⟨22, false⟩), some (.txvocabRebind ⟨true, 0x55⟩ 37 ⟨43, true⟩ ⟨22, false⟩)] := by
  decide

theorem test_decode_speculation_and_text_3 :
    [0xD568E5AEB0020000].map (decodeTableWord 64) =
      [some (.txvocabClose ⟨true, 0x55⟩ 37 ⟨43, true⟩ ⟨22, false⟩)] := by
  decide

theorem test_decode_system_1 :
    [0xD570250000100000, 0xD570250000200000, 0xD570250000300000, 0xD570250000400000, 0xD570250000500000, 0xD570250001000000, 0xD570250001100000, 0xD570250001200000, 0xD570250001300000, 0xD570250001400000].map (decodeTableWord 64) =
      [some (.csrr ⟨true, 0x55⟩ 37 0x001), some (.csrr ⟨true, 0x55⟩ 37 0x002), some (.csrr ⟨true, 0x55⟩ 37 0x003), some (.csrr ⟨true, 0x55⟩ 37 0x004), some (.csrr ⟨true, 0x55⟩ 37 0x005), some (.csrr ⟨true, 0x55⟩ 37 0x010), some (.csrr ⟨true, 0x55⟩ 37 0x011), some (.csrr ⟨true, 0x55⟩ 37 0x012), some (.csrr ⟨true, 0x55⟩ 37 0x013), some (.csrr ⟨true, 0x55⟩ 37 0x014)] := by
  decide

theorem test_decode_system_2 :
    [0xD570250002000000, 0xD570250002100000, 0xD570250002200000, 0xD570250002300000, 0xD570250002400000, 0xD570250002500000, 0xD570250003000000, 0xD570250003100000, 0xD570250003200000, 0xD570250004000000].map (decodeTableWord 64) =
      [some (.csrr ⟨true, 0x55⟩ 37 0x020), some (.csrr ⟨true, 0x55⟩ 37 0x021), some (.csrr ⟨true, 0x55⟩ 37 0x022), some (.csrr ⟨true, 0x55⟩ 37 0x023), some (.csrr ⟨true, 0x55⟩ 37 0x024), some (.csrr ⟨true, 0x55⟩ 37 0x025), some (.csrr ⟨true, 0x55⟩ 37 0x030), some (.csrr ⟨true, 0x55⟩ 37 0x031), some (.csrr ⟨true, 0x55⟩ 37 0x032), some (.csrr ⟨true, 0x55⟩ 37 0x040)] := by
  decide

theorem test_decode_system_3 :
    [0xD570250004100000, 0xD570250004200000, 0xD570250005000000, 0xD570250005100000, 0xD570250005200000, 0xD570250005300000, 0xD57065AE02500000, 0xD570A5AE02400000, 0xD570E5AE05000000, 0xD57100AE000ABCDE].map (decodeTableWord 64) =
      [some (.csrr ⟨true, 0x55⟩ 37 0x041), some (.csrr ⟨true, 0x55⟩ 37 0x042), some (.csrr ⟨true, 0x55⟩ 37 0x050), some (.csrr ⟨true, 0x55⟩ 37 0x051), some (.csrr ⟨true, 0x55⟩ 37 0x052), some (.csrr ⟨true, 0x55⟩ 37 0x053), some (.csrw ⟨true, 0x55⟩ 37 0x025 ⟨43, true⟩), some (.csrset ⟨true, 0x55⟩ 37 0x024 ⟨43, true⟩), some (.csrclr ⟨true, 0x55⟩ 37 0x050 ⟨43, true⟩), some (.trap ⟨true, 0x55⟩ ⟨43, true⟩ 0xABCDE)] := by
  decide

theorem test_decode_system_4 :
    [0xD571400000000000, 0xD571800000000000, 0xD571C0AE00000000, 0xD571C0AE00000001, 0xD571C0AE00000002, 0xD572250000000000, 0xD57240AE00000000, 0xD57280AE00000000].map (decodeTableWord 64) =
      [some (.eret ⟨true, 0x55⟩), some (.halt ⟨true, 0x55⟩), some (.tlbinvAll ⟨true, 0x55⟩ ⟨43, true⟩), some (.tlbinvAsid ⟨true, 0x55⟩ ⟨43, true⟩), some (.tlbinvPage ⟨true, 0x55⟩ ⟨43, true⟩), some (.cyc ⟨true, 0x55⟩ 37), some (.sigmix ⟨true, 0x55⟩ ⟨43, true⟩), some (.waitcyc ⟨true, 0x55⟩ ⟨43, true⟩)] := by
  decide

theorem test_decode_stack_and_stream_control_1 :
    [0x0ABC, 0x1ABC, 0x2000, 0x2040, 0x2080, 0x20C0, 0x2100, 0x2140, 0x2180, 0x21C0].map (decodeTableWord 16) =
      [some (.lit 0xABC), some (.litx 0xABC), some .dup, some .drop, some .swap, some .over, some .rot, some .addw, some .subw, some .mulw] := by
  decide

theorem test_decode_stack_and_stream_control_2 :
    [0x2200, 0x2240, 0x2280, 0x22C0, 0x230D, 0x234B, 0x303D, 0x3040, 0x3080, 0x30FF].map (decodeTableWord 16) =
      [some .shlw, some .shrw, some .andw, some .orw, some (.ldk 13), some (.stk 11), some (.brw 0x3D), some .bzw, some .brs, some (.loopw 63)] := by
  decide

theorem test_decode_stack_and_stream_control_3 :
    [0x3100, 0x316B, 0x31B5, 0x31C0, 0x3200, 0x324B, 0x3280, 0x32C0, 0xF000].map (decodeTableWord 16) =
      [some .endw, some (.tagww 0x2B), some (.tagsw 0x35), some .baraw, some .barww, some (.fencew 11), some .waitq, some .haltw, some .nopw] := by
  decide

theorem test_decode_copy_and_matrix_1 :
    [0x4002, 0x4001, 0x4042, 0x4041, 0x4082, 0x4081, 0x4142, 0x4141, 0x4182, 0x4181].map (decodeTableWord 16) =
      [some (.cpy1d true false), some (.cpy1d false true), some (.cpy2d true false), some (.cpy2d false true), some (.cpy3d true false), some (.cpy3d false true), some (.cpyg true false), some (.cpyg false true), some (.cpys true false), some (.cpys false true)] := by
  decide

theorem test_decode_copy_and_matrix_2 :
    [0x40C1, 0x40C0, 0x4105, 0x4102, 0x41C2, 0x41C0, 0x5000, 0x5040, 0x5080, 0x50C0].map (decodeTableWord 16) =
      [some (.cpyt true), some (.cpyt false), some (.cpytb 2 true), some (.cpytb 1 false), some (.cpyfill true), some (.cpyfill false), some .mld, some .mst, some .accinit, some .acczero] := by
  decide

theorem test_decode_copy_and_matrix_3 :
    [0x5100, 0x5140, 0x5180, 0x51C0, 0x5220, 0x5210, 0x5260, 0x5250, 0x5280, 0x52C0].map (decodeTableWord 16) =
      [some .acccvt, some .accnorm, some .accsnap, some .accload, some (.mma true false), some (.mma false true), some (.mmas true false), some (.mmas false true), some .permrd, some .growrd] := by
  decide

theorem test_decode_copy_and_matrix_4 :
    [0x7001, 0x7000, 0x7041, 0x7040, 0x7081, 0x7080, 0x70C1, 0x70C0, 0x7101, 0x7100].map (decodeTableWord 16) =
      [some (.flu true), some (.flu false), some (.fchol true), some (.fchol false), some (.fqr true), some (.fqr false), some (.ftrsl true), some (.ftrsl false), some (.ftrsu true), some (.ftrsu false)] := by
  decide

theorem test_decode_copy_and_matrix_5 :
    [0x7141, 0x7140].map (decodeTableWord 16) =
      [some (.fapplyq true), some (.fapplyq false)] := by
  decide

theorem test_decode_vector_and_traversal_1 :
    [0x8002, 0x8006, 0x8042, 0x8046, 0x8082, 0x8086, 0x80C4, 0x80C5, 0x8102, 0x8106].map (decodeTableWord 16) =
      [some (.vadd 2), some (.vadd 6), some (.vsub 2), some (.vsub 6), some (.vmul 2), some (.vmul 6), some (.vfma 4), some (.vfma 5), some (.vmax 2), some (.vmax 6)] := by
  decide

theorem test_decode_vector_and_traversal_2 :
    [0x8142, 0x8146, 0x8182, 0x8186, 0x81C2, 0x81C6, 0x8200, 0x8206, 0x8240, 0x8246].map (decodeTableWord 16) =
      [some (.vmin 2), some (.vmin 6), some (.vabs 2), some (.vabs 6), some (.vcmp 2), some (.vcmp 6), some (.vsel 0), some (.vsel 6), some (.vcvt 0), some (.vcvt 6)] := by
  decide

theorem test_decode_vector_and_traversal_3 :
    [0x8284, 0x8285, 0x82C4, 0x82C5, 0x8304, 0x8305, 0x8344, 0x8345, 0x8384, 0x8386].map (decodeTableWord 16) =
      [some (.vrcp 4), some (.vrcp 5), some (.vrsq 4), some (.vrsq 5), some (.vexp2 4), some (.vexp2 5), some (.vlog2 4), some (.vlog2 5), some (.vred 4), some (.vred 6)] := by
  decide

theorem test_decode_vector_and_traversal_4 :
    [0x83C6, 0x8400, 0x8406, 0x8440, 0x8446, 0x8480, 0x8486, 0x84C2, 0x84C6, 0x8502].map (decodeTableWord 16) =
      [some (.viota 6), some (.vand 0), some (.vand 6), some (.vor 0), some (.vor 6), some (.vxor 0), some (.vxor 6), some (.vshl 2), some (.vshl 6), some (.vshr 2)] := by
  decide

theorem test_decode_vector_and_traversal_5 :
    [0x8506, 0x8540, 0x8546, 0xA000, 0xA040, 0xA085, 0xA094, 0xA0C0, 0xA100, 0xA145].map (decodeTableWord 16) =
      [some (.vshr 6), some (.vmov 0), some (.vmov 6), some .vrnd, some .vtmask, some (.vsmax false 5), some (.vsmax true 4), some .vtopk, some .vargmax, some (.vscan 5)] := by
  decide

theorem test_decode_vector_and_traversal_6 :
    [0xA146, 0xA180, 0xA183, 0xA1C4, 0xA1C5, 0xB000, 0xB040, 0xB080, 0xB0C0].map (decodeTableWord 16) =
      [some (.vscan 6), some (.vquant 0), some (.vquant 3), some (.vdeq 4), some (.vdeq 5), some .xray, some .xrad, some .xknn, some .xbox] := by
  decide

/-- Words that R141, R142, R146 and R148 refuse: an opcode outside the map, a bit of a field marked zero, a reserved code, a
minor beyond its class, a reserved major. -/
theorem test_reserved_words_do_not_decode :
    [0x0007400000000000, 0x000AC00000000000, 0x0072C00000000000, 0x0000000000000001, 0x0000410000001000, 0x0000410000080000, 0x0000410000000800, 0x0005810018000000, 0x0008010100000000, 0x0009010000000040, 0x0009C10400000000, 0x0010018304100000, 0x0010008204118000, 0x0010008204102000, 0x0011810000000002, 0x0020010000070000, 0x0020C10000001000, 0x002201000000A000, 0x0028010100000000, 0x0028810000400000, 0x0029010000000000, 0x0030010818400600, 0x0032410818400601, 0x0038000000001000, 0x0040410000000001, 0x0049C00000030000, 0x0049C10800010000, 0x0068C00000030000, 0x0071C00000000003, 0x0070010000600000, 0x0071400000100000].map (decodeTableWord 64) = List.replicate 31 none ∧
    [0x2380, 0x2001, 0x3301, 0x3300, 0x30C0, 0x4004, 0x4045, 0x40C2, 0x41C1, 0x4200, 0x5001, 0x5208, 0x5300, 0x6000, 0x7002, 0x7180, 0x8000, 0x800A, 0x8580, 0x9000, 0xA001, 0xA200, 0xB001, 0xB100, 0xC000, 0xD000, 0xE000, 0xF001, 0xF040].map (decodeTableWord 16) = List.replicate 29 none := by
  decide
/-! The states of the witnesses. -/

/-- The module in operation, every feature accepted; slot 0 runs a job of the privileged context 0, which maps its first 512 MiB to
themselves, and its control stream stands at a NOP. -/
def base : State :=
  { State.reset.withFetchWord 64 0 with
    host := { HostRegs.reset with mode := 2, step := 10, starting := false, features := 0xFF, rwOnce := 0xF } }

/-- The base with slot 0 changed. -/
def at0 (f : Slot → Slot) : State := modSlot base 0 f

/-- Values put into registers of slot 0, s1 onwards. -/
def regs (l : List Word) (x : Slot) : Slot := l.zipIdx.foldl (fun y p => y.writeS (.ofNat 6 (p.2 + 1)) p.1) x

/-- The base with values in s1 onwards. -/
def withRegs (l : List Word) : State := at0 (regs l)

def g0 : Guard := ⟨false, 0⟩
def a0 : Src := ⟨0, false⟩
def a1 : Src := ⟨1, true⟩
def a2 : Src := ⟨2, false⟩
def a3 : Src := ⟨3, false⟩

theorem runs_of {s : State} {g : Guard} {l : List Src} (h : (curSlot s).guard g = true)
    (hd : (l.all fun a => !(curSlot s).isDead a.reg && !(curSlot s).poisoned a.reg) = true) : Runs s g l := by
  simp only [List.all_eq_true, Bool.and_eq_true, Bool.not_eq_true'] at hd
  exact ⟨⟨h, fun a ha => (hd a ha).1⟩, fun a ha => (hd a ha).2⟩

/-! A state and operands that meet the hypotheses of each statement: witness_<statement>, one conjunct for each clause. -/

theorem witness_EncodedInstructionsDecode :
    (Instr.ld g0 1 a1 6 1 11 true 5).WellFormed ∧ (∃ bs, Stored (.ld g0 1 a1 6 1 11 true 5) bs) ∧
    (Instr.loopw 63).WellFormed ∧ ∃ bs, Stored (.loopw 63) bs :=
  ⟨by decide, ⟨_, .inl ⟨_, rfl, rfl⟩⟩, by decide, ⟨_, .inr ⟨_, rfl, rfl⟩⟩⟩

theorem witness_DecodedBytesEncode :
    decodeBytes [0, 0, 0, 20, 4, 67, 0, 5] = some (.add ⟨false, 5⟩ 3 ⟨1, false⟩ ⟨2, true⟩) ∧ decodeBytes [0xFF, 0x30] = some (.loopw 63) := by
  decide

/-- s1 = −2^63, s2 = −1, s3 = 2^63 + 1. -/
def numbers : State := withRegs [0x8000000000000000, 0xFFFFFFFFFFFFFFFF, 0x8000000000000001]
/-- The same with s2 poisoned. -/
def poisoned2 : State := modCur numbers (·.writePoison 2)

theorem numbers_run (l : List Src) : Runs numbers g0 l := by
  refine ⟨⟨by decide, fun a _ => ?_⟩, fun a _ => ?_⟩
  · have : ∀ r : Reg, (curSlot numbers).isDead r = false := by decide
    exact this _
  · have : ∀ r : Reg, (curSlot numbers).poisoned r = false := by decide
    exact this _

theorem witness_ArithmeticWordsWriteTheirResult :
    ∀ i ∈ ([.add g0 4 a1 a2, .sub g0 4 a1 a2, .mul g0 4 a1 a2, .mulh g0 4 a1 a2, .mulhu g0 4 a1 a2, .div g0 4 a1 a0, .divu g0 4 a1 a2,
      .rem g0 4 a1 a0, .remu g0 4 a1 a2, .and g0 4 a1 a2, .or g0 4 a1 a2, .xor g0 4 a1 a2, .andn g0 4 a1 a2, .shl g0 4 a1 a2,
      .shr g0 4 a1 a2, .sra g0 4 a1 a2, .ror g0 4 a1 a2, .min g0 4 a1 a2, .max g0 4 a1 a2, .minu g0 4 a1 a2, .maxu g0 4 a1 a2,
      .clz g0 4 a0, .ctz g0 4 a0, .popc g0 4 a1, .bext g0 4 a1 a2 a3, .bins g0 4 a1 a2 a3, .sel g0 0 5 a1 a2, .madd g0 4 a1 a2 a3,
      .addi g0 4 a1 0x80000000, .andi g0 4 a1 0x80000000, .ori g0 4 a1 0x80000000, .xori g0 4 a1 0x80000000, .shli g0 4 a1 63,
      .shri g0 4 a1 63, .srai g0 4 a1 0, .muli g0 4 a1 0xFFFFFFFF, .movi g0 4 0x80000000, .movhi g0 4 a1 1,
      .leapc g0 4 0x80000000] : List Instr),
      ∃ r, arithmetic (curSlot numbers) i = some r ∧ Executes numbers r.g r.srcs ∧ Clean numbers r.reads := by
  intro i hi
  simp only [List.mem_cons, List.not_mem_nil, or_false] at hi
  rcases hi with rfl | rfl | rfl | rfl | rfl | rfl | rfl | rfl | rfl | rfl | rfl | rfl | rfl | rfl | rfl | rfl | rfl | rfl | rfl | rfl |
    rfl | rfl | rfl | rfl | rfl | rfl | rfl | rfl | rfl | rfl | rfl | rfl | rfl | rfl | rfl | rfl | rfl | rfl | rfl <;>
    exact ⟨_, rfl, (numbers_run _).1, (numbers_run _).2⟩

theorem witness_ArithmeticWordsPropagatePoison :
    (∃ r, arithmetic (curSlot poisoned2) (.add g0 4 a1 a2) = some r ∧ Executes poisoned2 r.g r.srcs ∧ ¬ Clean poisoned2 r.reads) ∧
    ∃ r, arithmetic (curSlot poisoned2) (.sel g0 4 0 a2 a1) = some r ∧ Executes poisoned2 r.g r.srcs ∧ ¬ Clean poisoned2 r.reads := by
  refine ⟨⟨_, rfl, ?_⟩, _, rfl, ?_⟩ <;> unfold Executes Clean <;> decide

theorem witness_DivisionFollowsTheRule :
    Runs numbers g0 [a1, a2] ∧ (val numbers a1).toInt = -2 ^ 63 ∧ (val numbers a2).toInt = -1 ∧ Runs numbers g0 [a1, a0] ∧
    val numbers a0 = 0 ∧ Runs numbers g0 [a1, a3] :=
  ⟨numbers_run _, by decide, by decide, numbers_run _, by decide, numbers_run _⟩

theorem witness_PredicateWordsWriteTheirPredicates :
    ∀ i ∈ ([.cmp g0 1 2 0 a1 a2, .cmp g0 0 0 5 a1 a2, .cmpi g0 1 2 0 a1 0x100000, .cmpi g0 3 0 5 a1 0x1FFFFF, .pand g0 1 0 127 true false,
      .por g0 1 0 127 true true, .pxor g0 0 0 127 false true] : List Instr),
      i.WellFormed ∧ ∃ c, predicates numbers i = some c ∧ Runs numbers c.g c.srcs := by
  intro i hi
  simp only [List.mem_cons, List.not_mem_nil, or_false] at hi
  rcases hi with rfl | rfl | rfl | rfl | rfl | rfl | rfl <;> exact ⟨by decide, _, rfl, numbers_run _⟩

theorem witness_PredicateGroupsMove : (curSlot numbers).guard g0 = true ∧ Runs numbers g0 [a1] := ⟨by decide, numbers_run _⟩

theorem witness_BranchesGoToTheirTarget :
    ∀ i ∈ ([.br g0 0x200000000000, .call g0 0x1FFFFFFFFFFF, .jmp g0 a1, .callr g0 63 a1, .dbnz g0 1 a1 0x80000000] : List Instr),
      ∃ c, branches numbers i = some c ∧ Runs numbers c.g c.srcs := by
  have h : (val numbers a1).toNat % 8 = 0 := by decide
  intro i hi
  simp only [List.mem_cons, List.not_mem_nil, or_false] at hi
  rcases hi with rfl | rfl | rfl | rfl | rfl
  · exact ⟨_, rfl, numbers_run _⟩
  · exact ⟨_, rfl, numbers_run _⟩
  · exact ⟨_, by rw [branches, if_pos h], numbers_run _⟩
  · exact ⟨_, by rw [branches, if_pos h], numbers_run _⟩
  · exact ⟨_, rfl, numbers_run _⟩

theorem witness_MisalignedJumpsFault : Runs numbers g0 [a3] ∧ (val numbers a3).toNat % 8 ≠ 0 := ⟨numbers_run _, by decide⟩

theorem witness_FloatingWordsWriteTheirResult :
    ∀ i ∈ ([.fadd g0 4 5 true a1 a2, .fsub g0 4 6 false a1 a2, .fmul g0 4 0 true a1 a2, .ffma g0 4 4 true a1 a2 a3, .fdiv g0 4 1 true a1 a2,
      .fsqrt g0 4 2 true a2, .fexp2 g0 4 3 true a2, .flog2 g0 4 0 false a2, .fmin g0 4 true a1 a2, .fmax g0 4 false a1 a2,
      .fclass g0 4 true a2, .fcvt g0 4 5 0 a2, .fcvt g0 4 0 9 a2] : List Instr),
      (∃ r, floating numbers i = some r ∧ Runs numbers r.g r.srcs) ∧
      ∃ r, floating poisoned2 i = some r ∧ Executes poisoned2 r.g r.srcs ∧ ¬ Clean poisoned2 r.srcs := by
  intro i hi
  simp only [List.mem_cons, List.not_mem_nil, or_false] at hi
  rcases hi with rfl | rfl | rfl | rfl | rfl | rfl | rfl | rfl | rfl | rfl | rfl | rfl | rfl <;>
    refine ⟨⟨_, rfl, numbers_run _⟩, _, rfl, ?_⟩ <;> simp only [Executes, Clean] <;> decide
/-! A term that each check of WellFormed refuses. -/

theorem test_integer_words_refused :
    [Instr.shli g0 1 a0 64, .shri g0 1 a0 64, .srai g0 1 a0 0xFFFFFFFF, .cmp g0 1 2 6 a0 a0, .cmp g0 3 3 0 a0 a0,
      .cmpi g0 1 2 7 a0 0, .cmpi g0 3 3 0 a0 0, .fcmp g0 1 2 7 true a0 a0, .fcmp g0 1 2 13 true a0 a0, .fcmp g0 3 3 8 true a0 a0,
      .fadd g0 1 7 true a0 a0, .fsub g0 1 7 true a0 a0, .fmul g0 1 7 true a0 a0, .ffma g0 1 7 true a0 a0 a0,
      .fdiv g0 1 7 true a0 a0, .fsqrt g0 1 7 true a0, .fexp2 g0 1 7 true a0, .flog2 g0 1 7 true a0, .fcvt g0 1 7 0 a0,
      .fcvt g0 1 0 10 a0].all (fun i => !i.wf) = true := by
  decide

theorem test_memory_words_refused :
    [Instr.ld g0 1 a0 7 0 0 false 0, .ld g0 1 a0 0 0 1 false 0, .ld g0 1 a0 0 2 0 false 0, .ld g0 1 a0 0 1 12 false 0,
      .ldsp g0 1 a0 7 0 0 0, .ldsp g0 1 a0 0 0 1 0, .ldsp g0 1 a0 0 2 0 0, .ldsp g0 1 a0 0 1 12 0,
      .st g0 a0 a0 4 0 0 0, .st g0 a0 a0 0 0 1 0, .st g0 a0 a0 0 1 0 0, .st g0 a0 a0 0 2 12 0,
      .stsp g0 a0 a0 4 0 0 0, .stsp g0 a0 a0 0 0 1 0, .stsp g0 a0 a0 0 1 0 0, .stsp g0 a0 a0 0 2 12 0,
      .clean g0 a0 12 0, .inval g0 a0 12 0, .fence g0 0 12,
      .aadd g0 1 a0 a0 0 0 0 1, .aadd g0 1 a0 a0 0 1 0 2, .aadd g0 1 a0 a0 1 12 0 2, .aand g0 1 a0 a0 0 0 0 1,
      .aor g0 1 a0 a0 0 0 0 1, .axor g0 1 a0 a0 0 0 0 1, .amin g0 1 a0 a0 0 0 0 1, .amax g0 1 a0 a0 0 0 0 1,
      .aminu g0 1 a0 a0 0 0 0 1, .amaxu g0 1 a0 a0 0 0 0 1, .aswp g0 1 a0 a0 0 0 0 1, .acas g0 1 a0 a0 a0 0 0 0 1,
      .afadd g0 1 a0 a0 0 0 0 1].all (fun i => !i.wf) = true := by
  decide

theorem test_system_words_refused :
    [Instr.barinit g0 1 a0 a0 1, .barinit g0 1 a0 a0 9, .estart g0 1 0 a0, .estart g0 1 5 a0, .eput g0 0 0 a0, .eput g0 5 0 a0,
      .eget g0 1 0 0, .eget g0 1 5 0, .join g0 0, .tcinv g0 a0 ⟨1, false⟩ true, .tcclean g0 a0 ⟨0, true⟩ true, .rngset g0 5 a0 a0,
      .rngget g0 1 5 false, .csrr g0 1 0, .csrr g0 1 6, .csrw g0 1 0x015 a0, .csrset g0 1 0x026 a0, .csrclr g0 1 0x054 a0].all
        (fun i => !i.wf) = true := by
  decide

theorem test_engine_words_refused :
    [Instr.loopw 0, .fencew 12, .vadd 0, .vsub 1, .vmul 3, .vfma 6, .vmax 7, .vmin 0, .vabs 1, .vcmp 3, .vsel 7, .vcvt 7, .vrcp 2,
      .vrsq 6, .vexp2 6, .vlog2 0, .vred 2, .viota 5, .vand 7, .vor 7, .vxor 8, .vshl 0, .vshr 5, .vmov 15, .vsmax true 6,
      .vscan 4, .vquant 4, .vdeq 6].all (fun i => !i.wf) = true := by
  decide

theorem witness_FloatComparesFollowTheRule : Runs numbers g0 [a1, a2] ∧ 8 ≤ (8 : BitVec 4).toNat ∧ (12 : BitVec 4).toNat ≤ 12 :=
  ⟨numbers_run _, by decide, by decide⟩

theorem nan_words : IsNaN true 0x7FF8000000000000 ∧ ¬ Signals true 0x7FF8000000000000 ∧ Signals false 0xFF800001 ∧ ¬ IsNaN true 0 ∧
    ¬ IsNaN true 0xFFF0000000000000 ∧ ¬ IsNaN true 0x7FF0000000000000 := by
  unfold Signals IsNaN
  decide

theorem number_words : number true 0xFFF0000000000000 = ⊥ ∧ number true 0x7FF0000000000000 = ((⊤ : WithTop ℚ) : WithBot (WithTop ℚ)) ∧
    number true 0x8000000000000000 = ((0 : ℚ) : WithTop ℚ) ∧ ∃ p : ℚ, number true 0x3FF0000000000000 = (p : WithTop ℚ) := by
  refine ⟨?_, by simp [number], by simp [number], ?_⟩
  · simp [number]; norm_num
  · unfold number
    exact ⟨_, (if_neg (by decide)).trans (if_neg (by decide))⟩

theorem witness_NanResultsAreCanonical :
    (IsNaN true 0x7FF8000000000000 ∧ ¬ Signals true 0x7FF8000000000000 ∧ 0x7FF8000000000000 < 2 ^ 64) ∧
    (Signals false 0xFF800001 ∧ 0xFF800001 < 2 ^ 32) ∧
    (¬ IsNaN true 0xFFF0000000000000 ∧ number true 0xFFF0000000000000 = ⊥ ∧
      number true 0x7FF0000000000000 = ((⊤ : WithTop ℚ) : WithBot (WithTop ℚ)) ∧ number true 0x8000000000000000 = ((0 : ℚ) : WithTop ℚ) ∧
      number true 0xFFF0000000000000 < ((0 : ℚ) : WithTop ℚ)) :=
  ⟨⟨nan_words.1, nan_words.2.1, by decide⟩, ⟨nan_words.2.2.1, by decide⟩, nan_words.2.2.2.2.1, number_words.1, number_words.2.1,
    number_words.2.2.1, by rw [number_words.1]; exact WithBot.bot_lt_coe _⟩

theorem witness_UnflaggedResultsAreExact :
    ¬ IsNaN true 0x3FF0000000000000 ∧ (∃ p : ℚ, number true 0x3FF0000000000000 = (p : WithTop ℚ)) ∧
    (fpAdd fp64 0 0 0x3FF0000000000000 0x3FF0000000000000).2 = 0 ∧ (fpSub fp64 0 0 0x3FF0000000000000 0x3FF0000000000000).2 = 0 ∧
    (fpMul fp64 0 0 0x3FF0000000000000 0x3FF0000000000000).2 = 0 :=
  ⟨by unfold IsNaN; decide, number_words.2.2.2, by decide, by decide, by decide⟩

/-- s1 dead, s2 poisoned. -/
def marked : State := modCur (withRegs [1, 2, 3]) (fun x => (x.markDead [a1]).writePoison 2)
/-- The base with its context not privileged, and no feature accepted. -/
def plainCtx : State :=
  { base with contexts := [Context.new 0 0 false none 0x10_0000 0 0 0], host := { base.host with features := 0 } }

theorem witness_FalseGuardsSkip :
    operands (.ld ⟨true, 0⟩ 4 a1 3 1 10 false 0) = some (⟨true, 0⟩, [a1]) ∧ Permitted marked (.ld ⟨true, 0⟩ 4 a1 3 1 10 false 0) ∧
    (curSlot marked).guard ⟨true, 0⟩ = false :=
  ⟨rfl, ⟨fun n h => (by cases h), fun _ => by decide⟩, by decide⟩

theorem witness_DeadSourcesFault :
    operands (.st g0 a2 a1 3 2 11 0) = some (g0, [] ++ a1 :: [a2]) ∧ Permitted marked (.st g0 a2 a1 3 2 11 0) ∧
    (curSlot marked).guard g0 = true ∧ (curSlot marked).isDead a1.reg = true :=
  ⟨rfl, ⟨fun n h => (by cases h), fun _ => by decide⟩, by decide, by decide⟩

theorem witness_PoisonedSourcesFault :
    operands (.kvappend g0 1 a3 a2 a0) = some (g0, [a3] ++ a2 :: [a0]) ∧ Permitted marked (.kvappend g0 1 a3 a2 a0) ∧
    Executes marked g0 ([a3] ++ a2 :: [a0]) ∧ arithmetic (curSlot marked) (.kvappend g0 1 a3 a2 a0) = none ∧
    floating marked (.kvappend g0 1 a3 a2 a0) = none ∧ (curSlot marked).poisoned a3.reg = false ∧ (curSlot marked).poisoned a2.reg = true :=
  ⟨rfl, ⟨fun n h => by cases h; decide, fun h => absurd h (by decide)⟩, by unfold Executes; decide, rfl, rfl, by decide, by decide⟩

theorem witness_RefusedWordsFault :
    (∃ w, encodeControl (.ckdrop g0 a1) = some w) ∧ ¬ Accepted plainCtx (.ckdrop g0 a1) ∧
    (∃ w, encodeControl (.fence g0 3 10) = some w) ∧ Accepted plainCtx (.fence g0 3 10) ∧ needsPrivilege (.fence g0 3 10) = true ∧
    ctxPriv plainCtx (curSlot plainCtx).ctx = false :=
  ⟨⟨_, rfl⟩, fun h => absurd (h 3 rfl) (by decide), ⟨_, rfl⟩, fun n h => (by cases h), rfl, by decide⟩

/-- Slot 0 with a handler that can be entered. -/
def handled : State := at0 (fun x => { regs [7] x with trapVec := 0x4001 })
/-- Slot 0 in its handler. -/
def handling : State := modCur handled (fun x => { x with hnd := true })
/-- A live KV sequence. -/
def sequence : LiveSeq := ⟨7, 0x30_0000, 1, 0, 0, 1, 0, Vector.replicate 32 0, [], 3⟩
/-- Slot 0 runs the job of node 5 of a hood. -/
def nodeJob (x : Slot) : Slot := { x with job := x.job.map (fun j =>
  { j with era := 3, card := { j.card with flags := 0x28, init := #v[0, 0, 0, 7] } }) }
/-- Its hood is live. -/
def provisional : State := { at0 nodeJob with seqs := [sequence] }

theorem base_not_provisional (f : Slot → Slot) (h : (f (getSlot base 0)).job = (getSlot base 0).job) : NotProvisional (at0 f) := by
  intro j hj
  have : (curSlot (at0 f)).job = (getSlot base 0).job := h
  rw [this] at hj
  cases hj
  decide

theorem witness_HandlerEntryFollowsTheRule :
    NotProvisional handled ∧ ¬ HostClass 0x05 ∧ ¬ FatalClass 0x05 ∧ HandlerReady (curSlot handled) := by
  refine ⟨base_not_provisional _ (by rfl), ?_, ?_, ?_⟩
  · unfold HostClass; decide
  · unfold FatalClass; decide
  · unfold HandlerReady; decide

theorem witness_OtherFaultsSuspend :
    NotProvisional handled ∧ HostClass 0x06 ∧ ¬ FatalClass 0x06 ∧ (curSlot handled).stop = none ∧
    NotProvisional handling ∧ ¬ HandlerReady (curSlot handling) ∧ (curSlot handling).stop = none := by
  refine ⟨base_not_provisional _ (by rfl), by unfold HostClass; decide, by unfold FatalClass; decide, by decide,
    base_not_provisional _ (by rfl), by unfold HandlerReady; decide, by decide⟩

theorem witness_ProvisionalFaultsAreRecorded :
    (∃ j, (curSlot provisional).job = some j ∧ j.card.pnode = some 5 ∧ jobHood provisional j = some sequence) ∧
    (∃ j, (curSlot (at0 nodeJob)).job = some j ∧ j.card.pnode = some 5 ∧ jobHood (at0 nodeJob) j = none) ∧
    (curSlot provisional).stop = none :=
  ⟨⟨_, rfl, by decide, by decide⟩, ⟨_, rfl, by decide, by decide⟩, by decide⟩

theorem witness_TrapEntersTheHandler : Runs handled g0 [a1] ∧ NotProvisional handled ∧ HandlerReady (curSlot handled) :=
  ⟨runs_of (by decide) (by decide), witness_HandlerEntryFollowsTheRule.1, witness_HandlerEntryFollowsTheRule.2.2.2⟩

/-- Slot 0 in a handler that its first engine stream's word, or the last one's, or a chain has entered. -/
def returning (cause : Word) : State := at0 (fun x => { x with
  hnd := true, trapCause := cause, engs := Vector.replicate 4 { EngStream.reset with started := true, held := true } })

theorem witness_EretReturns :
    (curSlot base).guard g0 = true ∧ (curSlot base).hnd = false ∧
    ((curSlot (returning 0)).hnd = true ∧ (curSlot (returning 0)).trapCause.extractLsb' 8 5 = 0 ∧ (curSlot (returning 0)).nextPending = none) ∧
    ((curSlot (returning 0xB01)).trapCause.getLsbD 11 = true ∧ (curSlot (returning 0xB01)).nextPending = none) ∧
    ∀ e : Fin 4, (curSlot (returning (.ofNat 64 (0x0D + 256 * (e.val + 1))))).trapCause.extractLsb' 8 5 = .ofNat 5 (e.val + 1) ∧
      ((curSlot (returning 0)).engs[e]).held = true ∧ ((curSlot (returning 0)).engs[e]).faulted = none ∧
      ((curSlot (returning 0)).engs[e]).loops = [] := by
  decide

theorem witness_CsrReadsTheRegister :
    (curSlot base).guard g0 = true ∧ ∀ n ∈ [0x001, 0x002, 0x003, 0x004, 0x005, 0x010, 0x011, 0x012, 0x013, 0x014, 0x020, 0x021, 0x022,
      0x023, 0x024, 0x025, 0x030, 0x031, 0x032, 0x040, 0x041, 0x042, 0x050, 0x051, 0x052, 0x053],
      (csrValue base (.ofNat 13 n)).isSome = true := by
  refine ⟨by decide, ?_⟩
  intro n hn
  fin_cases hn <;> rfl

theorem witness_CsrWritesTheRegister :
    Runs numbers g0 [a1] ∧ ctxPriv numbers (curSlot numbers).ctx = true ∧ ∀ n ∈ [0x001, 0x003, 0x004, 0x005, 0x021, 0x022, 0x023, 0x024,
      0x025, 0x030, 0x032, 0x053], ∃ old, csrValue (inBody numbers [a1]) (.ofNat 13 n) = some old := by
  refine ⟨numbers_run _, by decide, ?_⟩
  intro n hn
  fin_cases hn <;> exact ⟨_, rfl⟩

theorem witness_SystemWordsHaveTheirEffect :
    (val base a0).toNat ≤ base.dcc.toNat ∧
    ∀ i ∈ ([.nop g0, .pref g0 a1 0x200000, .chk g0 a1, .jend g0, .cyc g0 4, .waitcyc g0 a0, .sigmix g0 a1, .rndc g0 4, .rngset g0 0 a1 a2,
      .rngset g0 1 a1 a2, .rngset g0 4 a1 a2, .rngget g0 4 0 true, .rngget g0 4 1 false, .rngget g0 4 4 true] : List Instr),
      ∃ c, system numbers i = some c ∧ Runs numbers c.g c.srcs := by
  refine ⟨by decide, ?_⟩
  intro i hi
  simp only [List.mem_cons, List.not_mem_nil, or_false] at hi
  rcases hi with rfl | rfl | rfl | rfl | rfl | rfl | rfl | rfl | rfl | rfl | rfl | rfl | rfl | rfl <;>
    exact ⟨_, rfl, numbers_run _⟩

theorem witness_HaltStopsTheContext : (curSlot base).guard g0 = true := by decide

/-- The base with a cached entry of each kind for core 95, and no line of the tile cache. -/
def cached : State := { withRegs [0xFFF0FFFFFFFF0000] with
  cores := base.cores.set 95 { base.cores[(95 : Fin 96)] with tlbs := Vector.replicate 5 [⟨0xFFF, 3, 0xFFFFFFFF, 0x01F, 0⟩, ⟨0, 3, 0xFFFFFFFF, 0x21F, 0⟩] } }

theorem witness_TlbinvRemovesItsEntries :
    Runs cached g0 [a1] ∧ ctxPriv cached (curSlot cached).ctx = true ∧ cached.lines = [] ∧ cached.writeBacks = [] :=
  ⟨runs_of (by decide) (by decide), by decide, rfl, rfl⟩

theorem witness_NanResultsAreCanonical_signs :
    let top : WithBot (WithTop ℚ) := ((⊤ : WithTop ℚ) : WithBot (WithTop ℚ))
    let p := 0x7FF0000000000000
    let n := 0xFFF0000000000000
    let z := 0x8000000000000000
    (number true p = top ∧ number true n = ⊥ ∧ number true p ≠ number true n ∧ number true p = number true p) ∧
    (number true z = ((0 : ℚ) : WithTop ℚ) ∧ ¬ IsNaN true z ∧ ¬ IsNaN true p ∧ ¬ IsNaN true n) ∧
    -- ∞ × ∞ − ∞
    (number true p ≠ ((0 : ℚ) : WithTop ℚ) ∧
      (number true n = top ↔ ¬ ((number true p < ((0 : ℚ) : WithTop ℚ)) ↔ (number true p < ((0 : ℚ) : WithTop ℚ))))) ∧
    -- a quiet NaN, alone and as an addend
    (IsNaN true 0x7FF8000000000000 ∧ ¬ (Signals true p ∨ Signals true n ∨ Signals true 0x7FF8000000000000)) := by
  simp only [number_words.1, number_words.2.1, number_words.2.2.1]
  refine ⟨by simp, ⟨trivial, by unfold IsNaN; decide, nan_words.2.2.2.2.2, nan_words.2.2.2.2.1⟩, ?_, nan_words.1, ?_⟩
  · refine ⟨fun h => ?_, by simp⟩
    exact absurd (WithBot.coe_injective h) WithTop.top_ne_coe
  · unfold Signals IsNaN; decide

theorem one_value : (floatFmt false).value 0x3F800000 = some 1 := by
  norm_num [Fmt.value, floatFmt, Fmt.bias]

theorem witness_UnflaggedResultsAreExact_rounding :
    (5 : BitVec 3).toNat ≤ 5 ∧ (∃ t ∈ arithmeticFmts, t.2 = floatFmt false ∧ 0x3F800000 < 2 ^ (1 + t.2.x + t.2.f)) ∧
    -- a finite number, zero, and an infinity of FP32; codes of elements
    (floatFmt false).value 0x3F800000 = some 1 ∧ (floatFmt false).value 0 = some 0 ∧ (floatFmt false).value 0xFF800000 = none ∧
    (∀ src dst : Fin 7, src ≠ dst → 0x7F < 2 ^ (8 * codeSize src.val)) ∧ codeValue 5 0x3F800000 = some 1 := by
  refine ⟨by decide, ⟨_, List.mem_cons_of_mem _ (List.mem_cons_self ..), rfl, by decide⟩, one_value, ?_, ?_, by decide, one_value⟩
  · norm_num [Fmt.value, floatFmt, Fmt.bias]
  · norm_num [Fmt.value, floatFmt, Fmt.bias]

/-- A fault of an engine word. -/
def wordFault : FaultInfo := ⟨0x07, 3, 4, 0x30_0000, 0, none, none⟩
/-- Slot 0 in a handler with a second fault pending in its last engine stream, which can be entered or not. -/
def twice (en : Bool) : State := modCur (returning 0) (fun x =>
  { x with trapVec := if en then 0x4001 else 0x4000, engs := x.engs.set 3 { EngStream.reset with started := true, held := true, pending := some wordFault } })
/-- Slot 0 in a handler that a launch of its first engine stream has entered, or a chain, whose channel stands or has halted. -/
def afterLaunch (skip : Bool) : State := modCur (returning 0x10D) (fun x =>
  { x with skip := skip, engs := x.engs.set 0 { EngStream.reset with started := true, held := true, faulted := some 7 } })
def afterChain (skip : Bool) (h : Option ChainHalt) : State := modCur (returning 0x1_1307) (fun x =>
  { x with skip := skip, chans := x.chans.set 1 { x.chans[(1 : Fin 2)] with halt := h } })

theorem witness_EretReturns_pending :
    (NonePending (curSlot (returning 0)) ∧ ∀ en, FirstPending (curSlot (twice en)) wordFault ∧ (curSlot (twice en)).hnd = true ∧
      (curSlot (twice en)).trapCause.extractLsb' 8 5 = 0 ∧ (curSlot (twice en)).trapVec.getLsbD 0 = en ∧ (curSlot (twice en)).jend = false) ∧
    (∀ skip, NonePending (curSlot (afterLaunch skip)) ∧ (curSlot (afterLaunch skip)).trapCause.extractLsb' 8 5 = .ofNat 5 ((0 : Fin 4).val + 1) ∧
      ((curSlot (afterLaunch skip)).engs[(0 : Fin 4)]).held = true ∧ ((curSlot (afterLaunch skip)).engs[(0 : Fin 4)]).faulted = some 7) ∧
    (∀ skip, ∀ h ∈ [none, some ChainHalt.read], NonePending (curSlot (afterChain skip h)) ∧ (curSlot (afterChain skip h)).trapCause.extractLsb' 8 5 = 0b10011 ∧
      chanNo ((curSlot (afterChain skip h)).trapCause.getLsbD 16) = 1 ∧ ((curSlot (afterChain skip h)).chans[(1 : Fin 2)]).halt = h) := by
  unfold NonePending FirstPending
  decide

theorem witness_SystemWordsHaveTheirEffect_wait : Runs numbers g0 [a1] ∧ numbers.dcc.toNat < (val numbers a1).toNat := ⟨numbers_run _, by decide⟩

theorem witness_TlbinvRemovesItsEntries_wait :
    (∀ p ∈ removals cached g0 a1, ¬ InFlight cached p) ∧
    ∃ p ∈ removals cached g0 a1, InFlight (modSlot cached 1 (fun x => { x with await := some (.hostRead 0x800 0x800_0000_0000 2) })) p := by
  have idle : ∀ k : SlotId, (getSlot cached k).await = none := by decide +kernel
  refine ⟨fun p _ h => ?_, _, List.mem_cons_self .., 1, 0x800, 0x800_0000_0000, 2, by decide +kernel, trivial, .inl (by decide +kernel)⟩
  obtain ⟨k, va, pa, n, -, -, h | h⟩ := h <;> rw [idle k] at h <;> cases h

/-! Steps and memory. -/

theorem ok_get {ε α : Type} (x : Except ε α) (d : α) (h : x.toBool = true) : x = .ok (x.toOption.getD d) := by
  cases x with
  | error => cases h
  | ok => rfl

theorem error_get {ε α : Type} (x : Except ε α) (d : ε) (h : x.toBool = false) : x = .error (match x with | .error e => e | .ok _ => d) := by
  cases x with
  | error => rfl
  | ok => cases h

/-- The outcome of a translation that succeeds. -/
abbrev got (x : Except FCode (State × Leaf)) : State × Leaf := x.toOption.getD (base, ⟨0, 0, 0⟩)

/-- A state with 8-byte words in memory. -/
def words (s : State) (l : List (Nat × Nat)) : State := { s with mem := l.foldl (fun m p => cellsSet m (cellsAt p.1 (natBytes 8 p.2))) s.mem }

/-- The base whose first stream's PC is at an address. -/
def pcAt (pc : Word) : State := { at0 (fun x => { x with pc := pc }) with agenda := [.issue 0 0] }
/-- The state in which an engine's word is placed, in operation. -/
def engineBase (w : Nat) : State := { State.reset.withFetchWord 16 w with host := base.host }

theorem may_issue {s : State} {k : SlotId} {e : EngId} (h : (match (getSlot s k).job with | some j => j.started | none => false) = true)
    (h1 : s.paused = false) (h2 : (getSlot s k).stop = none)
    (h3 : e = 0 → (getSlot s k).jend = false ∧ (getSlot s k).wait = none ∧ (getSlot s k).await = none)
    (h4 : ∀ p : Fin 4, e.val = p.val + 1 → ((getSlot s k).engs[p]).started = true ∧ ((getSlot s k).engs[p]).arrived = false ∧
      ((getSlot s k).engs[p]).held = false ∧ ((getSlot s k).engs[p]).wait = none) : MayIssue s k e := by
  refine ⟨h1, ?_, h2, h3, h4⟩
  cases hj : (getSlot s k).job with
  | none => rw [hj] at h; cases h
  | some j => rw [hj] at h; exact ⟨j, rfl, h⟩

/-- A queue 0 with one entry, TLB_INVALIDATE of every context, and the move of the command processor to take it. -/
def queue0 : State :=
  let s := words base [(0x40_0000, 0x41_0000), (0x40_0008, 1), (0x40_0018, 1), (0x41_0000, 8)]
  { s with agenda := [.command 0], host := { s.host with pqbase := 0x40_0000 } }

/-- The fetch of a stream of slot 0. -/
abbrev fetch (s : State) (e : EngId) : Except FCode (State × Leaf) :=
  translateAs s (coreOf 0) e (getSlot s 0).ctx (ctxL1 s (getSlot s 0).ctx) (pcOf s 0 e) .fetch

theorem fetches_of {s u : State} {e : EngId} {bs : Bytes} {w : Leaf} (h : fetch s e = .ok (u, w))
    (ha : (pcOf s 0 e).toNat % (if e = 0 then 8 else 2) = 0) (hp : ∀ j, j < (if e = 0 then 8 else 2) → w.pa + j ∉ u.poison)
    (hh : w.pa < 2 ^ 43) (hb : readBytes u w.pa (if e = 0 then 8 else 2) = bs)
    (hc : (match (getSlot u 0).job with | some j => cellsGet j.code w.pa (if e = 0 then 8 else 2) == bs | none => true) = true)
    (hf : (u.cores[coreOf 0]).fetched = []) : Fetches s 0 e u bs := by
  refine ⟨_, u, w, rfl, ha, h, hp, ?_, hb, fun j hj => ?_⟩
  · rw [if_neg fun h' => absurd h'.1 (Nat.not_le.2 hh)]
  · rw [hj] at hc
    exact ⟨eq_of_beq hc, fun l hl => by rw [hf] at hl; cases hl⟩

theorem fetches (s : State) (e : EngId) (bs : Bytes) (h : (fetch s e).toBool = true)
    (ha : (pcOf s 0 e).toNat % (if e = 0 then 8 else 2) = 0)
    (hp : ∀ j, j < (if e = 0 then 8 else 2) → (got (fetch s e)).2.pa + j ∉ (got (fetch s e)).1.poison)
    (hh : (got (fetch s e)).2.pa < 2 ^ 43)
    (hb : readBytes (got (fetch s e)).1 (got (fetch s e)).2.pa (if e = 0 then 8 else 2) = bs)
    (hc : (match (getSlot (got (fetch s e)).1 0).job with
      | some j => cellsGet j.code (got (fetch s e)).2.pa (if e = 0 then 8 else 2) == bs | none => true) = true)
    (hf : ((got (fetch s e)).1.cores[coreOf 0]).fetched = []) : Fetches s 0 e (got (fetch s e)).1 bs :=
  fetches_of (ok_get (fetch s e) (base, ⟨0, 0, 0⟩) h) ha hp hh hb hc hf

theorem witness_StepRunsTheDecodedWord :
    (base.agenda = .issue 0 0 :: [] ∧ MayIssue base 0 0 ∧
      (∃ t, Fetches (issuing base [] 0 0) 0 0 t [0, 0, 0, 0, 0, 0, 0, 0]) ∧ decodeBytes [0, 0, 0, 0, 0, 0, 0, 0] = some (.nop g0)) ∧
    ((engineBase 3).agenda = .issue 0 1 :: [] ∧ MayIssue (engineBase 3) 0 1 ∧
      (∃ t, Fetches (issuing (engineBase 3) [] 0 1) 0 1 t [3, 0]) ∧ decodeBytes [3, 0] = some (.lit 3)) :=
  ⟨⟨rfl, may_issue (by decide) (by decide) (by decide) (by decide) (by decide), ⟨_, fetches _ _ _ (by decide) (by decide) (by decide) (by decide)
      (by decide) (by decide) (by decide)⟩, by decide⟩,
    rfl, may_issue (by decide) (by decide) (by decide) (by decide) (by decide), ⟨_, fetches _ _ _ (by decide) (by decide) (by decide) (by decide)
      (by decide) (by decide) (by decide)⟩, by decide⟩

/-- The same states with a word that decodes to none. -/
def badWord : State := { State.reset.withFetchWord 64 0x0007400000000000 with host := base.host }

theorem witness_StepTakesTheNextMove :
    (MayIssue badWord 0 0 ∧ (∃ t, Fetches (issuing badWord [] 0 0) 0 0 t [0, 0, 0, 0, 0, 64, 7, 0]) ∧ decodeBytes [0, 0, 0, 0, 0, 64, 7, 0] = none) ∧
    (MayIssue (engineBase 0x2380) 0 1 ∧ (∃ t, Fetches (issuing (engineBase 0x2380) [] 0 1) 0 1 t [0x80, 0x23]) ∧
      decodeBytes [0x80, 0x23] = none) ∧
    ((pcAt 0x20_0004).agenda = .issue 0 0 :: [] ∧ MayIssue (pcAt 0x20_0004) 0 0 ∧ (pcOf (pcAt 0x20_0004) 0 0).toNat % 8 ≠ 0) ∧
    (let s := modEng (engineBase 3) 0 0 (fun y => { y with pc := 1 });
      s.agenda = .issue 0 1 :: [] ∧ MayIssue s 0 1 ∧ (pcOf s 0 1).toNat % 2 ≠ 0) ∧
    ¬ MayIssue { base with paused := true } 0 0 ∧ encode .ctrlGo = none ∧ encode (.nop g0) ≠ none ∧
    (HostRequest .ctrlGo ∧ ¬ HostRequest .supplyRecover ∧ encode .supplyRecover = none ∧ ({ base with paused := true } : State).paused = true) ∧
    (queue0.agenda = .command 0 :: [] ∧ ∃ t i, takeCommand { queue0 with agenda := [], curCmd := none } 0 = .run t i) ∧
    (base.host.starting = false ∧ base.host.mode = 2 ∧ base.paused = false) := by
  refine ⟨⟨may_issue (by decide) (by decide) (by decide) (by decide) (by decide), ⟨_, fetches _ _ _ (by decide) (by decide) (by decide)
      (by decide) (by decide) (by decide) (by decide)⟩, by decide⟩, ⟨may_issue (by decide) (by decide) (by decide) (by decide) (by decide), ⟨_, fetches _ _ _ (by decide)
      (by decide) (by decide) (by decide) (by decide) (by decide) (by decide)⟩, by decide⟩, ⟨rfl, may_issue (by decide) (by decide) (by decide) (by decide) (by decide),
      by decide⟩, ⟨rfl, may_issue (by decide) (by decide) (by decide) (by decide) (by decide), by decide⟩, fun h => absurd h.1 (by decide),
      by decide, by decide, ⟨by simp [HostRequest], by simp [HostRequest], by decide, rfl⟩, ⟨rfl, ?_⟩, by decide⟩
  have h : (match takeCommand { queue0 with agenda := [], curCmd := none } 0 with | .run _ _ => true | .done _ => false) = true := by decide
  cases ht : takeCommand { queue0 with agenda := [], curCmd := none } 0 with
  | run t i => exact ⟨t, i, rfl⟩
  | done t => rw [ht] at h; cases h

theorem witness_StepKeepsMemoryCanonical : MemoryCanonical base ∧ ∃ t, step base = .next t := by
  refine ⟨by unfold MemoryCanonical; decide, ?_⟩
  have h : (match step base with | .next _ => true | _ => false) = true := by decide
  cases ht : step base with
  | next t => exact ⟨t, rfl⟩
  | fault f => rw [ht] at h; cases h
  | refused f => rw [ht] at h; cases h

/-- The base with a table of the third level for addresses from 2^29 on, among others an entry into host memory. -/
def paged : State := words base [(0x10_01F8, 3), (0x11_0008, 0x12_0001), (0x11_0010, 0x1_001F), (0x12_0000, 0x3F_0C1F), (0x12_0008, 1),
  (0x12_0018, 0x800_0000_001F)]

theorem witness_TranslationFollowsTheTables :
    MemoryCanonical paged ∧ (paged.cores[(0 : Fin 96)]).tlbs[(0 : EngId)] = [] ∧
    (paged.cores[(0 : Fin 96)]).walks = [] ∧ 2 ^ 48 ≤ (0x1_0000_0000_0000 : Word).toNat ∧
    (∃ t w, translateAs paged 0 0 0 0x10_0000 0x20_0000 .fetch = .ok (t, w)) ∧
    EntryAt paged (0x10_0000 + (0x400_0000_0000 : Word).toNat / 2 ^ 42 * 8) 0 ∧
    EntryAt paged (0x10_0000 + (0xFFFF_FFFF_FFFF : Word).toNat / 2 ^ 42 * 8) 3 ∧
    EntryAt paged (0x10_0000 + (0x2000_0000 : Word).toNat / 2 ^ 42 * 8) 0x11_0001 ∧
    EntryAt paged (0x11_0001 / 2 ^ 16 % 2 ^ 28 * 2 ^ 16 + (0x6000_0000 : Word).toNat / 2 ^ 29 % 2 ^ 13 * 8) 0 ∧
    EntryAt paged (0x11_0001 / 2 ^ 16 % 2 ^ 28 * 2 ^ 16 + (0x4000_0000 : Word).toNat / 2 ^ 29 % 2 ^ 13 * 8) 0x1_001F ∧
    EntryAt paged (0x11_0001 / 2 ^ 16 % 2 ^ 28 * 2 ^ 16 + (0x1FFF_FFFF : Word).toNat / 2 ^ 29 % 2 ^ 13 * 8) 0xC1F ∧
    EntryAt paged (0x11_0001 / 2 ^ 16 % 2 ^ 28 * 2 ^ 16 + (0x2000_0000 : Word).toNat / 2 ^ 29 % 2 ^ 13 * 8) 0x12_0001 ∧
    EntryAt paged (0x12_0001 / 2 ^ 16 % 2 ^ 28 * 2 ^ 16 + (0x2000_0000 : Word).toNat / 2 ^ 16 % 2 ^ 13 * 8) 0x3F_0C1F ∧
    EntryAt paged (0x12_0001 / 2 ^ 16 % 2 ^ 28 * 2 ^ 16 + (0x2001_0000 : Word).toNat / 2 ^ 16 % 2 ^ 13 * 8) 1 ∧
    EntryAt paged (0x12_0001 / 2 ^ 16 % 2 ^ 28 * 2 ^ 16 + (0x2002_0000 : Word).toNat / 2 ^ 16 % 2 ^ 13 * 8) 0 := by
  unfold MemoryCanonical EntryAt
  refine ⟨by decide, by decide, by decide, by decide, ⟨_, _, ok_get _ (base, ⟨0, 0, 0⟩) (by decide)⟩, ?_, ?_, ?_, ?_, ?_, ?_, ?_, ?_, ?_, ?_⟩ <;> decide

/-- The paged state with values in s1 onwards. -/
def loading (l : List Word) : State := modCur paged (regs l)
/-- The translation of an address by slot 0 in the body of a word. -/
abbrev trans (s : State) (srcs : List Src) (v : Word) (acc : Access) : Except FCode (State × Leaf) :=
  translate (inBody s srcs) 0 v acc

theorem witness_LoadsReadTheirBytes :
    MemoryCanonical paged ∧ Permitted paged (.ld g0 4 a1 3 1 11 true 0x3FFFF8) ∧
    -- a poisoned and a misaligned address with .spec
    (Executes poisoned2 g0 [a2] ∧ ¬ Clean poisoned2 [a2]) ∧ (Runs (loading [0x30_0001]) g0 [a1] ∧ (ea (loading [0x30_0001]) a1 0).toNat % 2 ^ 1 ≠ 0) ∧
    -- an address that does not translate
    (Runs (loading [0x30_0000]) g0 [a1] ∧ (ea (loading [0x6000_0008]) a1 0x3FFFF8).toNat % 8 = 0 ∧
      ∃ f, trans (loading [0x6000_0008]) [a1] (ea (loading [0x6000_0008]) a1 0x3FFFF8) .read = .error f) ∧
    -- host memory
    ((ea (loading [0x2003_0000]) a1 8).toNat % 8 = 0 ∧
      ∃ t w, trans (loading [0x2003_0000]) [a1] (ea (loading [0x2003_0000]) a1 8) .read = .ok (t, w) ∧ 2 ^ 43 ≤ w.pa ∧ w.pa < 2 ^ 44 ∧
        (curSlot (loading [0x2003_0000])).reply = none) ∧
    -- memory of the device, at the end of what is mapped
    ∃ t w, trans (loading [0x1FFF_FFF8]) [a1] (ea (loading [0x1FFF_FFF8]) a1 0) .read = .ok (t, w) ∧ w.pa < 2 ^ 43 ∧
      (∀ j, j < 8 → w.pa + j ∉ t.poison) ∧ ∃ x, detControl (getSlot t 0) false .read 0x1FFF_FFF8 8 = .ok x := by
  unfold MemoryCanonical
  refine ⟨by decide, ⟨fun n h => (by cases h), fun _ => by decide⟩, ⟨by unfold Executes; decide, by unfold Clean; decide⟩,
    ⟨runs_of (by decide) (by decide), by decide⟩, ⟨runs_of (by decide) (by decide), by decide, _, error_get _ (0, 0) (by decide)⟩,
    ⟨by decide, _, _, ok_get _ (base, ⟨0, 0, 0⟩) (by decide), by decide, by decide, by decide⟩,
    _, _, ok_get _ (base, ⟨0, 0, 0⟩) (by decide), by decide, by decide, _, ok_get _ Slot.reset (by decide)⟩

theorem witness_StoresWriteTheirBytes :
    MemoryCanonical paged ∧ Permitted paged (.st g0 a2 a1 3 2 11 0) ∧ Runs (loading [0x1FFF_FFF8, 5]) g0 [a1, a2] ∧
    (ea (loading [0x1FFF_FFF8]) a1 0).toNat % 8 = 0 ∧ lands (loading [0x1FFF_FFF8]) 0 = true ∧ 
    (lands (at0 nodeJob) 0 = false ∧ Runs (at0 nodeJob) g0 [a1, a2] ∧ ∃ t w, trans (at0 nodeJob) [a1, a2] 0 .write = .ok (t, w)) ∧
    ∃ t w, trans (loading [0x1FFF_FFF8, 5]) [a1, a2] 0x1FFF_FFF8 .write = .ok (t, w) ∧
      ∃ x, detControl (getSlot t 0) false .write 0x1FFF_FFF8 8 = .ok x := by
  unfold MemoryCanonical
  exact ⟨by decide, ⟨fun n h => (by cases h), fun _ => by decide⟩, runs_of (by decide) (by decide), by decide, by decide,
    ⟨by decide, runs_of (by decide) (by decide), _, _, ok_get _ (base, ⟨0, 0, 0⟩) (by decide)⟩, _, _, ok_get _ (base, ⟨0, 0, 0⟩) (by decide), _,
    ok_get _ Slot.reset (by decide)⟩

theorem witness_MisalignedAccessesFault :
    ctxPriv paged (curSlot (loading [7])).ctx = true ∧ Runs (loading [7, 5]) g0 [a1, a2] ∧ (ea (loading [7]) a1 0).toNat % 2 ^ 3 ≠ 0 ∧
    (∃ q, atomics (loading [4]) (.aadd g0 1 a1 a2 0 0 0 3) = some q ∧ Runs (loading [4]) q.g q.srcs ∧
      (val (loading [4]) q.a).toNat % (q.w / 8) ≠ 0) ∧ Permitted (loading [4]) (.aadd g0 1 a1 a2 0 0 0 3) :=
  ⟨by decide, runs_of (by decide) (by decide), by decide, ⟨_, rfl, runs_of (by decide) (by decide), by decide⟩,
    fun n h => (by cases h), fun h => absurd h (by decide)⟩

theorem witness_AtomicsUpdateTheirLocation :
    MemoryCanonical (loading [0x1FFF_FFF8, 5]) ∧ (∀ i ∈ ([.aadd g0 3 a1 a2 3 11 2 3, .aand g0 3 a1 a2 1 6 2 2, .aor g0 3 a1 a2 0 0 1 3,
      .axor g0 3 a1 a2 0 0 0 3, .amin g0 3 a1 a2 0 0 0 2, .amax g0 3 a1 a2 0 0 0 3, .aminu g0 0 a1 a2 0 0 0 3, .amaxu g0 0 a1 a2 0 0 0 2,
      .aswp g0 3 a1 a2 2 4 0 3, .acas g0 3 a1 a2 a3 0 0 0 3, .afadd g0 3 a1 a2 0 0 0 3] : List Instr), ∃ r,
      atomics (loading [0x1FFF_FFF8, 5]) i = some r ∧ Permitted (loading [0x1FFF_FFF8, 5]) i ∧ Runs (loading [0x1FFF_FFF8, 5]) r.g r.srcs ∧
        (val (loading [0x1FFF_FFF8, 5]) r.a).toNat % (r.w / 8) = 0) ∧
    -- in memory of the device, placed by the page
    (∃ r t w, atomics (loading [0x1FFF_FFF8, 5]) (.aadd g0 3 a1 a2 0 0 0 3) = some r ∧
      trans (loading [0x1FFF_FFF8, 5]) [a1, a2] 0x1FFF_FFF8 .atomic = .ok (t, w) ∧ Placed r w ∧ w.pa < 2 ^ 43 ∧
      (∀ j, j < 8 → w.pa + j ∉ t.poison) ∧ ∃ x, detControl (getSlot t 0) false .atomic 0x1FFF_FFF8 8 = .ok x) ∧
    -- in host memory, by a word that PCIe does not carry, and by one that it does
    ∃ r q t w, atomics (loading [0x2003_0000, 5]) (.aand g0 3 a1 a2 0 0 3 3) = some r ∧
      atomics (loading [0x2003_0000, 5]) (.aswp g0 3 a1 a2 0 0 3 3) = some q ∧
      trans (loading [0x2003_0000, 5]) [a1, a2] 0x2003_0000 .atomic = .ok (t, w) ∧ ¬ Placed r w ∧ Placed q w ∧ 2 ^ 43 ≤ w.pa ∧
      ∃ x, detControl (getSlot t 0) false .atomic 0x2003_0000 8 = .ok x := by
  unfold MemoryCanonical
  refine ⟨by decide, ?_, ⟨_, _, _, rfl, ok_get _ (base, ⟨0, 0, 0⟩) (by decide), by unfold Placed; decide, by decide, by decide, _,
    ok_get _ Slot.reset (by decide)⟩, _, _, _, _, rfl, rfl, ok_get _ (base, ⟨0, 0, 0⟩) (by decide), by unfold Placed; decide,
    by unfold Placed; decide, by decide, _, ok_get _ Slot.reset (by decide)⟩
  intro i hi
  simp only [List.mem_cons, List.not_mem_nil, or_false] at hi
  rcases hi with rfl | rfl | rfl | rfl | rfl | rfl | rfl | rfl | rfl | rfl | rfl <;>
    exact ⟨_, rfl, ⟨fun n h => (by cases h), fun _ => by decide⟩, runs_of (by decide) (by decide), by decide⟩

/-- The paged state with an entry into the memory of die 1 too. -/
def far : State := words paged [(0x12_0020, 0x10_0000_001F)]
/-- A job whose deterministic mode permits reads of its first 64 KiB, and commuting atomics and reads of its second. -/
def footed (x : Slot) : Slot := { x with detctl := true, job := x.job.map (fun j => { j with foot := [⟨0, 0, 0x1_0000⟩, ⟨0x1_0000, 2, 0x1_0000⟩] }) }
/-- A slot for which an engine stream has written a byte. -/
def clashing (x : Slot) : Slot := { x with detctl := true, job := x.job.map (fun j => { j with foot := [⟨0, 1, 0x1_0000⟩] }), det := ⟨8, [⟨7, 1, false, 0x17, 0x18, true⟩]⟩ }

theorem witness_StepTakesTheNextMove_events :
    (HostRequest (.hostW2 false 0x10_0000_0000 8 []) ∧ HeldUp base (.hostW2 false 0x10_0000_0000 8 []) ∧ ¬ HeldUp base (.hostW2 false 0 8 [])) ∧
    ((pcAt 0x6000_0000).agenda = .issue 0 0 :: [] ∧ MayIssue (pcAt 0x6000_0000) 0 0 ∧ (pcOf (pcAt 0x6000_0000) 0 0).toNat % 8 = 0 ∧
      (getSlot (pcAt 0x6000_0000) 0).hnd = false ∧ ∃ f, fetch (issuing (pcAt 0x6000_0000) [] 0 0) 0 = .error f ∧ HostClass f.1) := by
  refine ⟨⟨by simp [HostRequest], by unfold HeldUp; decide, by unfold HeldUp; decide⟩, rfl,
    may_issue (by decide) (by decide) (by decide) (by decide) (by decide), by decide, by decide, _, error_get _ (0, 0) (by decide), ?_⟩
  unfold HostClass; decide

theorem witness_LoadsReadTheirBytes_stops :
    -- what deterministic mode forbids
    (∃ t w f, trans (modCur base (fun x => footed (regs [0x30_0000] x))) [a1] 0x30_0000 .read = .ok (t, w) ∧
      detControl (getSlot t 0) false .read 0x30_0000 8 = .error f ∧ f.1 = 0x08) ∧
    (∃ t w f, trans (modCur base (fun x => clashing (regs [0x10] x))) [a1] 0x10 .read = .ok (t, w) ∧
      detControl (getSlot t 0) false .read 0x10 8 = .error f ∧ f.1 = 0x09) ∧
    -- a die that the links do not reach
    (∃ t w, trans (modCur far (regs [0x2004_0000])) [a1] 0x2004_0000 .read = .ok (t, w) ∧
      (∃ x, detControl (getSlot t 0) false .read 0x2004_0000 8 = .ok x) ∧ ¬ Linked t (dieOf 0) (homeOf w.pa)) ∧
    -- a poisoned byte, the last of eight
    (∃ t w, trans { withRegs [0x30_0000] with poison := [0x30_0007] } [a1] 0x30_0000 .read = .ok (t, w) ∧ w.pa < 2 ^ 43 ∧ w.pa + 7 ∈ t.poison ∧
      ∀ m, m < 7 → w.pa + m ∉ t.poison) ∧
    -- completions
    (Clean (modCur numbers (fun x => { x with reply := some (.bytes 0 (some [1, 2])) })) [a1] ∧
      (curSlot (modCur numbers (fun x => { x with reply := some (.bytes 0 (some [1, 2])) }))).reply = some (.bytes 0 (some [1, 2]))) ∧
    (curSlot (modCur numbers (fun x => { x with reply := some (.bytes 0 none) }))).reply = some (.bytes 0 none) := by
  refine ⟨⟨_, _, _, ok_get _ (base, ⟨0, 0, 0⟩) (by decide), error_get _ (0, 0) (by decide), by decide⟩,
    ⟨_, _, _, ok_get _ (base, ⟨0, 0, 0⟩) (by decide), error_get _ (0, 0) (by decide), by decide⟩,
    ⟨_, _, ok_get _ (base, ⟨0, 0, 0⟩) (by decide), ⟨_, ok_get _ Slot.reset (by decide)⟩, fun h => absurd (h 0 (by decide) (by decide)) (by decide)⟩,
    ⟨_, _, ok_get _ (base, ⟨0, 0, 0⟩) (by decide), by decide, by decide, by decide⟩, ⟨by unfold Clean; decide, rfl⟩, rfl⟩

theorem witness_StoresWriteTheirBytes_stops :
    (∃ f, trans (loading [0x6000_0000, 5]) [a1, a2] 0x6000_0000 .write = .error f) ∧
    (∃ t w f, trans (modCur base (fun x => footed (regs [0x8, 5] x))) [a1, a2] 8 .write = .ok (t, w) ∧
      detControl (getSlot t 0) false .write 8 8 = .error f ∧ f.1 = 0x08) ∧
    -- a device page
    (∃ t w, trans (modCur (words paged [(0x12_0020, 0x3F_011F)]) (regs [0x2004_0000, 5])) [a1, a2] 0x2004_0000 .write = .ok (t, w) ∧ w.device = true) :=
  ⟨⟨_, error_get _ (0, 0) (by decide)⟩, ⟨_, _, _, ok_get _ (base, ⟨0, 0, 0⟩) (by decide), error_get _ (0, 0) (by decide), by decide⟩,
    _, _, ok_get _ (base, ⟨0, 0, 0⟩) (by decide), by decide⟩

theorem witness_MisalignedAccessesFault_checks :
    (footed (getSlot base 0)).detctl = true ∧ (getSlot base 0).detctl = false ∧
    byteRule (footOf (footed (getSlot base 0))) .read 0xFFFF = none ∧ byteRule (footOf (footed (getSlot base 0))) .read 0x1_0000 = some 0x09 ∧
    byteRule (footOf (footed (getSlot base 0))) .read 0x2_0000 = some 0x08 ∧ byteRule (footOf (footed (getSlot base 0))) .write 0x1_FFFF = some 0x09 ∧
    byteRule (footOf (footed (getSlot base 0))) .commuting 0x1_FFFF = none ∧ byteRule (footOf (footed (getSlot base 0))) .atomic 0 = some 0x08 ∧
    (byteRule (footOf (clashing (getSlot base 0))) .write 0x17 = none ∧ ∃ q ∈ (clashing (getSlot base 0)).det.accs, q.agent ≠ 0 ∧ q.lo ≤ 0x17 ∧ 0x17 < q.hi ∧
      q.id ∉ (((clashing (getSlot base 0)).order[0]).cur.accs)) := by
  decide

theorem witness_AtomicsUpdateTheirLocation_stops :
    (∃ f, trans (loading [0x6000_0000, 5]) [a1, a2] 0x6000_0000 .atomic = .error f) ∧
    (∃ t w f, trans (modCur base (fun x => footed (regs [0x8, 5] x))) [a1, a2] 8 .atomic = .ok (t, w) ∧
      detControl (getSlot t 0) false .commuting 8 8 = .error f) ∧
    (∃ t w, trans (modCur far (regs [0x2004_0000, 5])) [a1, a2] 0x2004_0000 .atomic = .ok (t, w) ∧ ¬ Linked t (dieOf 0) (homeOf w.pa)) ∧
    (∃ t w, trans { withRegs [0x30_0000, 5] with poison := [0x30_0003] } [a1, a2] 0x30_0000 .atomic = .ok (t, w) ∧ w.pa < 2 ^ 43 ∧
      w.pa + 3 ∈ t.poison ∧ ∀ m, m < 3 → w.pa + m ∉ t.poison) ∧
    Runs (modCur numbers (fun x => { x with reply := some (.bytes 0 (some [1, 2])) })) g0 [a1, a2] ∧
    Runs (modCur numbers (fun x => { x with reply := some (.bytes 0 none) })) g0 [a1, a2] :=
  ⟨⟨_, error_get _ (0, 0) (by decide)⟩, ⟨_, _, _, ok_get _ (base, ⟨0, 0, 0⟩) (by decide), error_get _ (0, 0) (by decide)⟩,
    ⟨_, _, ok_get _ (base, ⟨0, 0, 0⟩) (by decide), fun h => absurd (h 0 (by decide) (by decide)) (by decide)⟩,
    ⟨_, _, ok_get _ (base, ⟨0, 0, 0⟩) (by decide), by decide, by decide, by decide⟩, runs_of (by decide) (by decide), runs_of (by decide) (by decide)⟩

/-! Scratchpad, barriers, tags, streams, jobs, channels, tensors, units, checkpoints. -/

/-- Slot 0 with one granule of each kind, and values in s1 onwards. -/
def pad (l : List Word) : State := modCur paged (fun x => regs l { x with partw := 0x01010101, granules := 0x01010101 })

theorem storage_canonical (f : Slot → Slot) (h : Memory.wf (f (getSlot paged 0)).scratch = true ∧ Memory.wf (f (getSlot paged 0)).ckpt = true) :
    StorageCanonical (modCur paged f) := by
  intro k
  by_cases hk : k = 0
  · subst hk; exact h
  · have e : getSlot (modCur paged f) k = getSlot paged k := by
      show ((paged.slots.set 0 (f paged.slots[(0 : Fin 192)]))[k]) = _
      exact Vector.getElem_set_ne _ _ fun e => hk (Fin.ext e.symm)
    have p : ∀ k : SlotId, Memory.wf (getSlot paged k).scratch = true ∧ Memory.wf (getSlot paged k).ckpt = true := by decide
    rw [e]
    exact p k

theorem witness_StepKeepsStorageCanonical : StorageCanonical paged ∧ ∃ t, step base = .next t := by
  refine ⟨?_, witness_StepKeepsMemoryCanonical.2⟩
  have h := storage_canonical id (by decide)
  intro k
  exact h k

theorem witness_ScratchpadWordsAccessTheSlot :
    StorageCanonical (pad [0x1C003FF8, 5]) ∧ ctxPriv (pad []) (curSlot (pad [])).ctx = true ∧ Runs (pad [0x1C003FF8, 5]) g0 [a1, a2] ∧
    -- the last word in range, and the first out of range
    ((ea (pad [0x1C003FF8, 5]) a1 0).toNat % 8 = 0 ∧ (∀ j, j < 8 → spAt (pad [0x1C003FF8, 5]) 0 (spByte 0x1C003FF8 j) ≠ none) ∧
      (∀ j, j < 8 → spBad (pad [0x1C003FF8, 5]) 0 (spByte 0x1C003FF8 j) = false) ∧
      (∃ t, detScratch (inBody (pad [0x1C003FF8, 5]) [a1]) 0x1C003FF8 8 .read = .ok t) ∧
      ∃ t, detScratch (inBody (pad [0x1C003FF8, 5]) [a1, a2]) 0x1C003FF8 8 .write = .ok t) ∧
    ((ea (pad [0x1C003FF8, 5]) a1 8).toNat % 8 = 0 ∧ ¬ ∀ j, j < 8 → spAt (pad [0x1C003FF8, 5]) 0 (spByte 0x1C004000 j) ≠ none) := by
  refine ⟨storage_canonical _ (by decide), by decide, runs_of (by decide) (by decide), ⟨by decide, by decide, by decide,
    ⟨_, ok_get _ base (by decide)⟩, _, ok_get _ base (by decide)⟩, by decide, by decide⟩

theorem witness_CacheAndFenceWordsAct :
    MemoryCanonical (loading [0x1FFF_FFF8]) ∧ ctxPriv paged (curSlot (loading [0x1FFF_FFF8])).ctx = true ∧
    Runs (loading [0x1FFF_FFF8]) g0 [a1] ∧ (curSlot (loading [0x1FFF_FFF8])).detctl = false ∧
    ∃ t w, trans (loading [0x1FFF_FFF8]) [a1] (.ofNat 64 ((ea (loading [0x1FFF_FFF8]) a1 7).toNat / 64 * 64)) .read = .ok (t, w) := by
  unfold MemoryCanonical
  exact ⟨by decide, by decide, runs_of (by decide) (by decide), by decide, _, _, ok_get _ (base, ⟨0, 0, 0⟩) (by decide)⟩

/-- Core 0 with barriers 511 and 0 of slot 0, the first about to complete, and barrier 5 of slot 1. -/
def barriers (l : List Word) : State :=
  let own : Barrier := { Barrier.reset with owner := some (false, 0), exp := 2, arr := 1 }
  { withRegs l with cores := base.cores.set 0 { base.cores[(0 : Fin 96)] with
    barriers := [(0, { own with phase := true, arr := 2 }), (5, { own with owner := some (true, 0) }), (511, own)] } }

theorem witness_BarrierWordsFollowTheRules :
    -- BARINIT: an index of 512, one that nobody owns, with and without a count, one of the slot's, one of the other slot's
    (Runs (barriers [512, 1]) g0 [a1, a2] ∧ 512 ≤ (val (barriers [512, 1]) a1).toNat) ∧
    (Runs (barriers [6, 0, 65535]) g0 [a1, a2] ∧ Runs (barriers [6, 0, 65535]) g0 [a1, a3] ∧
      (barrierOf (barriers []) 6).owner = none ∧ (barrierOf (barriers []) 5).owner = some (true, 0) ∧
      (barrierOf (barriers []) 511).owner = some (false, 0)) ∧
    -- the last arrival, and one too many
    (Owned (barriers [511]) (val (barriers [511]) a1) ∧ (barrierOf (barriers [511]) 511).arr.toNat < (barrierOf (barriers [511]) 511).exp.toNat ∧
      Owned (barriers [0]) (val (barriers [0]) a1) ∧ ¬ (barrierOf (barriers [0]) 0).arr.toNat < (barrierOf (barriers [0]) 0).exp.toNat) ∧
    -- waits of both phases
    (Runs (barriers [511, 1]) g0 [a1, a2] ∧ (barrierOf (barriers [511, 1]) 511).phase ≠ (val (barriers [511, 1]) a2).getLsbD 0 ∧
      (barrierOf (barriers [511, 0]) 511).phase = (val (barriers [511, 0]) a2).getLsbD 0) ∧
    ¬ Owned (barriers [5]) 5 ∧ ¬ Owned (barriers [512]) 512 := by
  refine ⟨⟨runs_of (by decide) (by decide), by decide⟩, ⟨runs_of (by decide) (by decide), runs_of (by decide) (by decide), by decide, by decide, by decide⟩,
    ⟨⟨by decide, 0, by decide⟩, by decide, ⟨by decide, 0, by decide⟩, by decide⟩,
    ⟨runs_of (by decide) (by decide), by decide, by decide⟩, ?_, fun h => absurd h.1 (by decide)⟩
  rintro ⟨-, c, h⟩
  cases h

/-- Slot 0 with tags 0 and 63 set. -/
def tags (m : Word) : State := at0 (fun x => { regs [m] x with tags := 0x8000000000000001 })

theorem witness_TagWordsFollowTheRules :
    (∀ m ∈ [(0 : Word), 1, 2, 0x8000000000000000, 3], Runs (tags m) g0 [a1]) ∧
    val (tags 0) a1 = 0 ∧ (curSlot (tags 1)).tags &&& val (tags 1) a1 ≠ 0 ∧
    (val (tags 2) a1 ≠ 0 ∧ (curSlot (tags 2)).tags &&& val (tags 2) a1 = 0) ∧
    (curSlot (tags 1)).tags &&& val (tags 1) a1 = val (tags 1) a1 ∧ (curSlot (tags 3)).tags &&& val (tags 3) a1 ≠ val (tags 3) a1 ∧
    ((curSlot (tags 0x8000000000000000)).tags &&& val (tags 0x8000000000000000) a1).getLsbD 63 = true ∧
    ∀ j, j < 63 → ((curSlot (tags 0x8000000000000000)).tags &&& val (tags 0x8000000000000000) a1).getLsbD j = false := by
  refine ⟨?_, by decide, by decide, by decide, by decide, by decide, by decide, by decide⟩
  intro m hm
  fin_cases hm <;> exact runs_of (by decide) (by decide)

/-- Slot 0 with its engine streams started, or not, and n format words queued. -/
def streams (v : Word) (on : Bool) (n : Nat) : State := at0 (fun x => { regs [v] x with
  engs := Vector.replicate 4 { EngStream.reset with started := on }, fmtq := List.replicate n 0 })

theorem witness_StreamWordsFollowTheRules :
    engineOf 1 0 ∧ engineOf 4 3 ∧ Runs (streams 0x4000 false 15) g0 [a1] ∧
    ((curSlot (streams 0 true 16)).engs[(3 : Fin 4)]).started = true ∧ ((curSlot (streams 0 false 15)).engs[(0 : Fin 4)]).started = false ∧
    val (streams 0 false 15) a1 = 0 ∧ (val (streams 0x4001 false 15) a1).getLsbD 0 = true ∧
    (val (streams 0x4000 false 15) a1 ≠ 0 ∧ (val (streams 0x4000 false 15) a1).getLsbD 0 = false) ∧
    (curSlot (streams 0 false 15)).fmtq.length < 16 ∧ 16 ≤ (curSlot (streams 0 true 16)).fmtq.length ∧
    (∀ q : Fin 4, (15 : BitVec 4).getLsbD q = true → (((curSlot (streams 0 false 15)).engs[q]).started = false ∨
      ((curSlot (streams 0 false 15)).engs[q]).arrived = true) ∧ ((curSlot (streams 0 false 15)).engs[q]).launches = []) ∧
    ¬ ∀ q : Fin 4, (8 : BitVec 4).getLsbD q = true → (((curSlot (streams 0 true 16)).engs[q]).started = false ∨
      ((curSlot (streams 0 true 16)).engs[q]).arrived = true) ∧ ((curSlot (streams 0 true 16)).engs[q]).launches = [] :=
  ⟨rfl, rfl, runs_of (by decide) (by decide), by decide⟩

/-- A card at 0x60_0000: a job whose control stream is at 0x20_0000, with no lists. -/
def withCard (s : State) : State := words s [(0x60_0000, 0x20_0000), (0x60_0030, 0x3F8), (0x60_0038, 1)]
/-- A job of queue 0. -/
def oneJob : Job := ⟨0, 0, 1, fetchCard, [], [], [], none, false, 0, none, [], false, 0, [], 0, [], [], 0, 0, []⟩
/-- The base with a card, and its queue 0 holding n jobs. -/
def spawning (a : Word) (n : Nat) : State :=
  { withCard (withRegs [a]) with jobs := List.replicate n oneJob }

theorem refusal_get {α : Type} (x : Except JobRefusal α) (p : JobRefusal → Bool) (h : (match x with | .error e => p e | .ok _ => false) = true) :
    ∃ e, x = .error e ∧ p e = true := by
  cases x with
  | error e => exact ⟨e, rfl, h⟩
  | ok => cases h

theorem witness_SpawnQueuesItsJob :
    (∃ y j w, findCtx (spawning 0x60_0000 255) (curSlot (spawning 0x60_0000 255)).ctx = some y ∧ (curSlot (spawning 0x60_0000 255)).job = some j ∧
      Runs (spawning 0x60_0000 255) g0 [a1] ∧ encodeControl (.spawn g0 2 a1 15 true) = some w ∧
      spawnTarget y j.queue 15 (val (spawning 0x60_0000 255) a1) w = .ok 15) ∧
    let y : Context := Context.new 0 0 true none 0x10_0000 0 0 0
    (∃ t n, enterQueue (inBody (spawning 0x60_0000 255) [a1]) y 0 0x60_0000 0 [] = .ok (t, n)) ∧
    (∃ e, enterQueue (inBody (spawning 0x60_0000 256) [a1]) y 0 0x60_0000 0 [] = .error e ∧ decide (e = .full) = true) ∧
    (∃ e, enterQueue (inBody (spawning 0x60_0040 0) [a1]) y 0 0x60_0040 0 [] = .error e ∧ decide (e = .fault (0x05, 0x60_0040)) = true) ∧
    (∃ e, enterQueue { inBody (words (spawning 0x60_0000 0) [(0x60_0030, 0x3FC)]) [a1] with host := { base.host with features := 0 } }
      y 0 0x60_0000 0 [] = .error e ∧ decide (e = .feature) = true) := by
  refine ⟨⟨_, _, _, rfl, rfl, runs_of (by decide) (by decide), rfl, by decide⟩, ⟨_, _, ok_get _ (base, 0) (by decide)⟩, ?_, ?_, ?_⟩ <;>
    exact refusal_get _ _ (by decide)

/-- Slot 0 with both channels in a state. -/
def channels (l : List Word) (c : Channel) : State := at0 (fun x => { regs l x with chans := Vector.replicate 2 c })
/-- A bound channel that waits at a record. -/
def idleChannel : Channel := { Channel.reset with bound := true, idle := true, ring := 0x40_0000, size := 256 }
/-- One that processes a record. -/
def busyChannel : Channel := { idleChannel with idle := false, rcd := some ⟨1, 0x4000, 0, 0, 1, 1, 0, 0⟩ }

theorem witness_ChannelWordsFollowTheRules :
    Runs (channels [0x40_0000, 256] busyChannel) g0 [a1, a2] ∧ Busy ((curSlot (channels [] busyChannel)).chans[chanNo true]) ∧
    (¬ Busy ((curSlot (channels [0x40_0020, 1] idleChannel)).chans[chanNo false]) ∧ (val (channels [0x40_0020, 1] idleChannel) a1).toNat % 64 ≠ 0) ∧
    (Runs (channels [0x40_0040, 3] idleChannel) g0 [a1, a2] ∧ (val (channels [0x40_0040, 3] idleChannel) a1).toNat % 64 = 0 ∧
      ¬ ∃ n, n ≤ 8 ∧ (val (channels [0x40_0040, 3] idleChannel) a2).toNat % 512 = 2 ^ n) ∧
    (∃ n, n ≤ 8 ∧ (val (channels [0x40_0000, 256] idleChannel) a2).toNat % 512 = 2 ^ n) ∧
    (∃ n, n ≤ 8 ∧ (val (channels [0x40_0000, 1] idleChannel) a2).toNat % 512 = 2 ^ n) ∧
    ((curSlot base).chans[chanNo true]).bound = false ∧ ((curSlot (channels [] idleChannel)).chans[chanNo false]).bound = true ∧
    ((curSlot (channels [] idleChannel)).chans[chanNo false]).rcd = none ∧ ((curSlot (channels [] idleChannel)).chans[chanNo false]).halt = none ∧
    ((curSlot (channels [] busyChannel)).chans[chanNo true]).rcd ≠ none := by
  refine ⟨runs_of (by decide) (by decide), by unfold Busy; decide, ⟨by unfold Busy; decide, by decide⟩,
    ⟨runs_of (by decide) (by decide), by decide, ?_⟩, ⟨8, by decide⟩, ⟨0, by decide⟩, by decide, by decide, by decide, by decide, by decide⟩
  have h : ∀ n, n < 9 → (val (channels [0x40_0040, 3] idleChannel) a2).toNat % 512 ≠ 2 ^ n := by decide
  rintro ⟨n, hn, e⟩
  exact h n (by omega) e

/-- The slot of the scratchpad witnesses in deterministic mode, where an engine stream has written byte 0x17 of it. -/
def padClash (x : Slot) : Slot := { x with detctl := true, det := ⟨8, [⟨7, 1, true, 0x17, 0x18, true⟩]⟩ }

/-- The same slot with byte 0x13 poisoned. -/
def padPoison : State := modCur (pad [0x1C000010]) (fun x => { x with spPoison := [0x13] })

theorem witness_ScratchpadWordsAccessTheSlot_stops :
    (spAt (pad [0x1C000010]) 0 0x1C000010 = some (0, 0x10) ∧
      ∃ x, detControl (past (pad [0x1C000010]) [a1]) true .read 0x10 8 = .ok x) ∧
    (∃ f, detControl (past (modCur (pad [0x1C000010]) padClash) [a1]) true .read 0x10 8 = .error f ∧ f.1 = 0x09) ∧
    (spBad padPoison 0 (spByte 0x1C000010 3) = true ∧ ∀ i, i < 3 → spBad padPoison 0 (spByte 0x1C000010 i) = false) ∧
    lands (pad []) 0 = true ∧ lands (at0 nodeJob) 0 = false := by
  refine ⟨⟨by decide, _, ok_get _ Slot.reset (by decide)⟩, ⟨_, error_get _ (0, 0) (by decide), by decide⟩, by decide, by decide, by decide⟩

theorem witness_CacheAndFenceWordsAct_stops :
    (∃ f, trans (loading [0x6000_0000]) [a1] 0x6000_0000 .read = .error f) ∧
    ((footed (curSlot base)).detctl = true ∧ detEntry (footOf (footed (curSlot base))) .read 0xFFC0 64 = none ∧
      (detEntry (footOf (footed (curSlot base))) .read 0x1_0000 64).isSome = true) :=
  ⟨⟨_, error_get _ (0, 0) (by decide)⟩, by decide⟩

/-- The tags with what set them. -/
def toldTags : State := modCur (tags 1) (fun x => { x with tagKnown := [(0, ⟨[(0x30_0000, 4)], []⟩), (63, ⟨[], []⟩)] })

theorem witness_TagWordsFollowTheRules_known :
    (∃ l, (0, l) ∈ (curSlot toldTags).tagKnown) ∧ ((curSlot toldTags).tags &&& val toldTags a1).getLsbD 0 = true :=
  ⟨⟨_, List.mem_cons_self ..⟩, by decide⟩

theorem witness_SpawnQueuesItsJob_edge :
    let s := modCur (spawning 0x60_0000 0) (fun x => { x with made := [(0x30_0000, 3)], order := x.order.set 0 ⟨⟨[(0x30_0000, 4)], []⟩, [], []⟩ })
    ∃ p ∈ (curSlot s).made, p.2 < (known (curSlot s) 0).at p.1 := by
  decide

theorem witness_ChannelWordsFollowTheRules_halted :
    ((curSlot (channels [] { busyChannel with rcd := none, halt := some .read })).chans[chanNo true]).halt ≠ none := by
  decide

/-- A tensor of 16 × 8 FP32 elements in two tiles of 8 × 8, of generation 5, at an address. -/
def tensor (base_ : Word) : Layout := #v[base_, 0x0000_0002_0005_0205, 0x0000_0008_0000_0010, 0x0000_0001_0000_0001, 64, 0, 0, 0x0001_0001_0008_0008]
/-- Its tile (1, 0). -/
def tile1 : TileName := ⟨1, 5, [1, 0, 0, 0]⟩
/-- A line of that tile. -/
def line1 : TileLine := ⟨0, 0, tile1, 1, 1, false, [], [(0, 7)], [⟨0, 0x50_0020, 0x50_0020, 32, false⟩], 0⟩
/-- Slot 0 with values in s1 onwards; the context has tensor 1 in die 0, and 2 in die 1. -/
def tensors (l : List Word) : State :=
  let s := words (pad l) [(0x12_0020, 0x10_0000_001F)]
  { s with contexts := s.contexts.map (fun y => { y with layouts := [(1, tensor 0x50_0000), (2, tensor 0x2004_0000)] }) }
/-- With the line. -/
def cachedTile (l : List Word) : State := { tensors l with lines := [line1] }

/-- A readiness word at its homes. -/
abbrev homes (s : State) (r : Layout) (t : TileName) : Except (State × FCode) (State × Die × Die) := readyHomes (inBody s [a1, a2]) 0 r t

theorem witness_ReadinessWordsFollowTheRules :
    Runs (tensors [0x05_0001, 1]) g0 [a1, a2] ∧
    -- its own generation at its own die, with room
    (tileNamed (tensors [0x05_0001, 1]) 0 0x05_0001 1 = .ok (tensor 0x50_0000, { tile1 with gen := (tensor 0x50_0000).gen }) ∧
      tile1.gen = (0x05_0001 : Word).toNat / 2 ^ 16 % 256 ∧ tile1.gen = (tensor 0x50_0000).gen ∧
      (∃ t home counter, homes (tensors [0x05_0001, 1]) (tensor 0x50_0000) tile1 = .ok (t, home, counter)) ∧
      (match homes (tensors [0x05_0001, 1]) (tensor 0x50_0000) tile1 with | .ok p => decide (p.2.1 = 0) | .error _ => false) = true ∧
      lands (tensors [0x05_0001, 1]) 0 = true ∧ readyRoom (tensors [0x05_0001, 1]) 0 0 = true) ∧
    -- a stale generation
    (({ tile1 with gen := 4 } : TileName).gen = (0x04_0001 : Word).toNat / 2 ^ 16 % 256 ∧ ({ tile1 with gen := 4 } : TileName).gen ≠ (tensor 0x50_0000).gen ∧
      ∃ t home counter, homes (tensors [0x04_0001, 1]) (tensor 0x50_0000) { tile1 with gen := 4 } = .ok (t, home, counter)) ∧
    -- another die's tile
    (tileNamed (tensors [0x05_0002, 1]) 0 0x05_0002 1 = .ok (tensor 0x2004_0000, { tile1 with handle := 2, gen := (tensor 0x2004_0000).gen }) ∧
      (∃ t home counter, homes (tensors [0x05_0002, 1]) (tensor 0x2004_0000) { tile1 with handle := 2 } = .ok (t, home, counter)) ∧
      (match homes (tensors [0x05_0002, 1]) (tensor 0x2004_0000) { tile1 with handle := 2 } with
        | .ok p => decide (p.2.1 = 1) | .error _ => false) = true) :=
  ⟨runs_of (by decide) (by decide), ⟨by decide, by decide, by decide, ⟨_, _, _, ok_get _ (base, 0, 0) (by decide)⟩, by decide, by decide, by decide⟩,
    ⟨by decide, by decide, _, _, _, ok_get _ (base, 0, 0) (by decide)⟩, by decide, ⟨_, _, _, ok_get _ (base, 0, 0) (by decide)⟩, by decide⟩

/-- The fill of the tile by TCPIN. -/
abbrev pinFill (s : State) : Tiled := fillTile (inBody s [a1, a2]) 0 (tensor 0x50_0000) tile1 (allSectors (tensor 0x50_0000))

theorem tiled_get (x : Tiled) (p : State → TileLine → Bool) (h : (match x with | .line t l => p t l | _ => false) = true) :
    ∃ t l, x = .line t l ∧ p t l = true := by
  cases x with
  | line t l => exact ⟨t, l, rfl, h⟩
  | bypass t => cases h
  | fault f => cases h

theorem witness_TileWordsFollowTheRules :
    tileNamed (tensors [0x05_0001, 1]) 0 0x05_0001 1 = .ok (tensor 0x50_0000, tile1) ∧ Runs (tensors [0x05_0001, 1, 0x0101]) g0 [a1, a2] ∧
    Runs (tensors [0x05_0001, 1, 0x0101]) g0 [a1, a2, a3] ∧ (tensors []).writeBacks = [] ∧ (curSlot (tensors [])).detctl = false ∧
    (tensors []).lines.find? (fun l => decide (l.ctx = 0 ∧ l.tile = tile1)) = none ∧
    (cachedTile []).lines.find? (fun l => decide (l.ctx = 0 ∧ l.tile = tile1)) = some line1 ∧ (cachedTile []).writeBacks = [] ∧
    MemoryCanonical (cachedTile []) ∧ line1.runs = [⟨0, 0x50_0020, 0x50_0020, 32, false⟩] ∧ line1.dirty.getLsbD ((0 + 31) / 1024) = true ∧
    ∃ t l, pinFill (tensors [0x05_0001, 1]) = .line t l ∧ pinFits t l.die 0 tile1 (sectorKiB (allSectors (tensor 0x50_0000))) = true := by
  unfold MemoryCanonical
  refine ⟨by decide, runs_of (by decide) (by decide), runs_of (by decide) (by decide), by decide, by decide, by decide, by decide, by decide, by decide,
    by decide, by decide, tiled_get _ _ (by decide)⟩

theorem served_get (x : Served) (p : State → Word → Bool) (h : (match x with | .value t v => p t v | _ => false) = true) :
    ∃ t v, x = .value t v ∧ p t v = true := by
  cases x with
  | value t v => exact ⟨t, v, rfl, h⟩
  | fault t f => cases h
  | deferred t f => cases h

theorem served_fault (x : Served) (h : (match x with | .fault .. => true | _ => false) = true) : ∃ t f, x = .fault t f := by
  cases x with
  | value t v => cases h
  | fault t f => exact ⟨t, f, rfl⟩
  | deferred t f => cases h

/-- The words that a die unit serves, with a state that meets the hypotheses of each. -/
def served_ : List Instr := [.kvappend g0 4 a1 a2 a3, .kvcommit g0 4 a1 a2 a3, .kvsquash g0 4 a1 a2, .kvtrunc g0 4 a1 a2 a3, .kvfork g0 4 a1 a2 a3,
  .kvfree g0 4 a1 a2, .smpstart g0 4 a1, .acctest g0 4 a1, .txenc g0 4 a2 a1, .txdec g0 4 a2 a1, .txcons g0 4 a2 a1, .txmask g0 4 a2 a1,
  .txvocabOpen g0 4 a2 a1, .txvocabRebind g0 4 a2 a1, .txvocabClose g0 4 a2 a1]
/-- The request of a word in its body, as the unit of die 0 runs it. -/
abbrev serving (s : State) (i : Instr) (u : UnitKind) (srcs : List Src) : Served :=
  runUnit (inBody s srcs) 0 0 ((curSlot s).order[0]) (serveRequest ⟨0, u, 0, i, srcs.map (val s), { Order.empty with cur := ((curSlot s).order[0]).cur }⟩)

theorem witness_UnitWordsTakeTheirReply :
    (∀ i ∈ served_, ∃ u sd g srcs, unitRow i = some (u, sd) ∧ operands i = some (g, srcs) ∧ Accepted (pad [0x60_0000]) i ∧ Runs (pad [0x60_0000]) g srcs ∧
      (∀ p ∈ unitAlign (pad [0x60_0000]) i, p.1.toNat % p.2 = 0) ∧ UnitDie (pad [0x60_0000]) i srcs 0) ∧
    -- an operand that is not aligned
    (unitAlign (pad [0x60_0040]) (.kvfree g0 4 a1 a2)).find? (fun p => p.1.toNat % p.2 != 0) = some (0x60_0040, 128) ∧
    -- an idle unit with a reply, and with a fault
    ((pad [0x60_0000]).requests = [] ∧
      (∃ t v, serving (pad [0x60_0000]) (.txvocabClose g0 4 a2 a1) .text [a2, a1] = .value t v ∧ (fun _ _ => true) t v = true) ∧
      (∃ t f, serving (pad [0x6000_0000]) (.smpstart g0 4 a1) .sampling [a1] = .fault t f)) ∧
    -- another die's unit
    UnitDie (pad [0, 0x40]) (.txvocabClose g0 4 a2 a1) [a2, a1] 1 := by
  refine ⟨?_, by decide, ⟨rfl, served_get _ _ (by decide), served_fault _ (by decide)⟩, ⟨by decide, by decide⟩⟩
  intro i hi
  simp only [served_, List.mem_cons, List.not_mem_nil, or_false] at hi
  rcases hi with rfl | rfl | rfl | rfl | rfl | rfl | rfl | rfl | rfl | rfl | rfl | rfl | rfl | rfl | rfl <;>
    refine ⟨_, _, _, _, rfl, rfl, (fun n h => by cases h <;> decide), runs_of (by decide) (by decide), by decide, ?_⟩ <;>
    first
      | exact ⟨by decide, by decide⟩
      | exact (rfl : (0 : Die) = dieOf 0)
      | exact ⟨a1, _, _, rfl, ok_get _ (base, 0) (by decide), by decide⟩

/-- Slot 0 with node 5's snapshot of 256 bytes at its first unit, and room for 63 more. -/
def snapshot (l : List Word) : State := modCur paged (fun x => regs l { x with
  partw := 0x01010101, granules := 0x01010101, snaps := x.snaps.set 5 ⟨true, 0, 256, 0x1C000000⟩, ckpt := [(255, 9)] })

theorem witness_CheckpointWordsFollowTheRules :
    feature (snapshot []) 3 = true ∧ (curSlot (snapshot [])).detctl = false ∧
    -- operands that are no multiple, none, and too many bytes; the largest that fits; no room
    Runs (snapshot [0x1C000000, 0x0000_0080_0000_0006]) g0 [a1, a2] ∧ (0x0000_0080_0000_0006 : Word).toNat / 2 ^ 32 % 256 ≠ 0 ∧
    (0x1C000000 / 2 ^ 26 = 7 ∧ 0x3F00 % 256 = 0 ∧ 0 + 0x3F00 ≤ (curSlot (snapshot [])).partw.toNat / 2 ^ 24 % 256 * 16384 ∧
      1 + 0x3F00 / 256 ≤ (curSlot (snapshot [])).partw.toNat / 2 ^ 16 % 256 * 64 ∧
      ¬ 1 + 0x4000 / 256 ≤ (curSlot (snapshot [])).partw.toNat / 2 ^ 16 % 256 * 64) ∧
    (∀ r : Fin 64, r.val ≠ 6 → ((curSlot (snapshot [])).snaps[r]).valid = true →
      1 + 0x3F00 / 256 ≤ ((curSlot (snapshot [])).snaps[r]).off ∨ ((curSlot (snapshot [])).snaps[r]).off + ((curSlot (snapshot [])).snaps[r]).len / 256 ≤ 1) ∧
    (∀ j, j < 256 → spBad (snapshot []) 0 (0x1C000000 + j) = false) ∧
    -- CKSEL of a row that is valid, of one that is not, with and without a lost table, and of no row
    Runs (snapshot [5]) g0 [a1] ∧ ((curSlot (snapshot [5])).snaps[(5 : Fin 64)]).valid = true ∧
    (∀ j, j < 256 → spAt (snapshot [5]) 0 (0x1C000000 + j) = some (0, j)) ∧ ((curSlot (snapshot [63])).snaps[(63 : Fin 64)]).valid = false ∧
    (curSlot (snapshot [63])).lost = false ∧ 64 ≤ (val (snapshot [64]) a1).toNat ∧ StorageCanonical (snapshot [5]) := by
  refine ⟨by decide, by decide, runs_of (by decide) (by decide), by decide, by decide, by decide, by decide, runs_of (by decide) (by decide),
    by decide, by decide, by decide, by decide, by decide, storage_canonical _ (by decide)⟩

/-- A state whose slot 0 runs a job of a sequence that is gone. -/
def overtaken (s : State) : State := modCur s nodeJob
/-- A state with no tile cache for its contexts. -/
def uncached (s : State) : State := { s with regions := s.regions.map (fun p => (p.1, { p.2 with tcq := 0 })) }

theorem homes_error (x : Except (State × FCode) (State × Die × Die)) (h : x.toOption.isNone = true) : ∃ t f, x = .error (t, f) := by
  cases x with
  | error e => exact ⟨e.1, e.2, rfl⟩
  | ok => cases h

theorem bypass_get (x : Tiled) (h : (match x with | .bypass _ => true | _ => false) = true) : ∃ t, x = .bypass t := by
  cases x with
  | bypass t => exact ⟨t, rfl⟩
  | line => cases h
  | fault => cases h

theorem tiled_fault (x : Tiled) (h : (match x with | .fault _ => true | _ => false) = true) : ∃ f, x = .fault f := by
  cases x with
  | fault f => exact ⟨f, rfl⟩
  | line => cases h
  | bypass => cases h

theorem witness_ReadinessWordsFollowTheRules_edge :
    -- no tile, and a tile at no page
    (∃ f, tileNamed (tensors [0, 0]) 0 0 0 = .error f) ∧
    (∃ t f, homes (tensors [0x05_0001, 1]) (tensor 0x6000_0000) tile1 = .error (t, f)) ∧
    -- past the advance point, and no room
    (lands (overtaken (tensors [0x05_0001, 1])) 0 = false ∧ Runs (overtaken (tensors [0x05_0001, 1])) g0 [a1, a2]) ∧
    readyRoom { tensors [] with regions := (tensors []).regions.map (fun p => (p.1, { p.2 with rdyq := 0 })) } 0 0 = false ∧
    -- what made a tile ready, and a counter at its whole
    (∃ e, ({ tensors [] with ready := [⟨0, 0, tile1, [], []⟩] } : State).ready.find? (fun e => decide (e.die = 0 ∧ e.ctx = 0 ∧ e.tile = tile1)) = some e) ∧
    (tileCount { tensors [] with counts := [⟨0, 0, 1, 5, 2, [], []⟩] } 0 tile1.handle tile1.gen = (tensor 0x50_0000).tcount ∧
      ∃ e, findCount { tensors [] with counts := [⟨0, 0, 1, 5, 2, [], []⟩] } 0 tile1.handle tile1.gen = some e) := by
  refine ⟨⟨_, error_get _ (0, 0) (by decide)⟩, homes_error _ (by decide), ⟨by decide, runs_of (by decide) (by decide)⟩, by decide,
    ⟨⟨0, 0, tile1, [], []⟩, by decide⟩, by decide, ⟨⟨0, 0, 1, 5, 2, [], []⟩, by decide⟩⟩

/-- The line with a poisoned byte, and a write-back of the tile on its way. -/
def stained : State :=
  { tensors [] with lines := [{ line1 with bad := [3] }], writeBacks := [⟨0, tile1, 0, [(0x50_0040, 9)]⟩] }
/-- Deterministic mode over the tile, with an entry that writes it or with none. -/
def tileMode (s : State) (acc : Nat) : State :=
  modCur s (fun x => { x with detctl := true, job := x.job.map (fun j => { j with foot := [⟨0x50_0000, acc, 0x1_0000⟩] }) })

theorem witness_TileWordsFollowTheRules_lines :
    -- no tensor, and all tiles of one
    findLayout (tensors []) 0 ((0 : Word).toNat % 2 ^ 16) = none ∧
    NamesTiles stained 0 1 0 true (fun t => decide (t.handle = (1 : Word).toNat % 2 ^ 16 ∧ t.gen = (tensor 0x50_0000).gen)) ∧
    NamesTiles stained 0 0x05_0001 1 false (fun u => decide (u = tile1)) ∧
    -- allowed in deterministic mode, and not
    (detEntry (footOf (curSlot (tileMode stained 1))) .write (0x50_0020 : Word).toNat 32 = none ∧
      (detEntry (footOf (curSlot (tileMode stained 0))) .write (0x50_0020 : Word).toNat 32).isSome = true ∧
      (tileMode stained 0).lines = stained.lines) ∧
    -- bytes on their way, dirty bytes, and a poisoned one
    OnItsWay stained 0 (fun u => decide (u = tile1)) 0x50_0040 9 ∧
    (DirtyAt stained 0 (fun u => decide (u = tile1)) 0x50_0020 { line1 with bad := [3] } 0 ∧ 0 ∉ ({ line1 with bad := [3] } : TileLine).bad) ∧
    (DirtyAt stained 0 (fun u => decide (u = tile1)) 0x50_0023 { line1 with bad := [3] } 3 ∧ 3 ∈ ({ line1 with bad := [3] } : TileLine).bad) := by
  refine ⟨by decide, ?_, ?_, by decide, ⟨⟨0, tile1, 0, [(0x50_0040, 9)]⟩, by simp [stained], by decide⟩,
    ⟨⟨by simp [stained], by decide, by decide, by decide, ⟨0, 0x50_0020, 0x50_0020, 32, false⟩, by simp [line1], 0, by decide⟩, by decide⟩,
    ⟨⟨by simp [stained], by decide, by decide, by decide, ⟨0, 0x50_0020, 0x50_0020, 32, false⟩, by simp [line1], 3, by decide⟩, by decide⟩⟩
  · exact ⟨_, (by decide : _ = some (tensor 0x50_0000)), rfl⟩
  · exact ⟨tensor 0x50_0000, tile1, by decide, rfl⟩

theorem witness_TileWordsFollowTheRules_pins :
    -- TCPIN where no page holds the tile, where pinning does not fit, where no line can be, and where its entries are missing
    (∃ f, pinFill { tensors [0x05_0001, 1] with contexts := [] } = .fault f) ∧
    (pinFits (uncached (tensors [])) 0 0 tile1 (sectorKiB (allSectors (tensor 0x50_0000))) = false ∧
      ∃ t l, fillTile (inBody (uncached (tensors [0x05_0001, 1])) [a1, a2]) 0 (tensor 0x50_0000) tile1 0 = .line t l ∧ (fun _ _ => true) t l = true) ∧
    (∃ t, pinFill (uncached (tensors [0x05_0001, 1])) = .bypass t) ∧
    (∃ q ∈ tileSpans (tensor 0x50_0000) tile1.coords (allSectors (tensor 0x50_0000)),
      (detEntry (footOf (curSlot (tileMode (tensors []) 2))) .read q.2.1.toNat q.2.2).isSome = true) ∧
    -- TCLOOK of a tile that memory holds, of one it does not, and of one whose line was dropped
    tileHome (tensors []) 0 (tensor 0x50_0000) tile1.coords = some 0 ∧ tileHome (tensors []) 0 (tensor 0x6000_0000) tile1.coords = none ∧
    ({ tensors [] with revoked := [(0, tile1)] } : State).revoked.any (fun p => decide (p.1 = 0 ∧ p.2 = tile1)) = true ∧
    -- tiles along a dimension, and the faces of one
    ((0 : BitVec 2).toNat < (tensor 0x50_0000).ndim ∧ ¬ (2 : BitVec 2).toNat < (tensor 0x50_0000).ndim ∧ (tensor 0x50_0000).tilesIn 0 = 2 ∧
      (0x0101 : Word).toNat / 2 ^ (8 * 0) % 256 ≠ 0 ∧ 1 ≤ tile1.coords.getD 0 0 ∧ tile1.coords.getD 0 0 + 1 = (tensor 0x50_0000).tilesIn 0) := by
  refine ⟨tiled_fault _ (by decide), ⟨by decide, tiled_get _ _ (by decide)⟩, bypass_get _ (by decide),
    ⟨_, List.getElem_mem (by decide : 0 < _), by decide⟩, by decide, by decide, by decide, by decide⟩

/-- A stream of the context 0, and the work of a request on it. -/
def oneStream : TextStream := ⟨0, 0x50_0000, [], false, [], [], [], none, false, false, ⟨[], [], []⟩, [], 0x50_0000⟩
def workOf (s : State) : UnitWork := ⟨s, s, false, [], Order.empty, 0, 0, 0⟩
def requestOf (i : Instr) (vals : List Word) : UnitRequest := ⟨0, .text, 0, i, vals, Order.empty⟩

theorem witness_UnitWordsTakeTheirReply_rules :
    -- every word has its rule, in a state with a sequence
    (∀ i ∈ served_, ∃ g srcs, operands i = some (g, srcs) ∧
      (Claim.Die.rule (requestOf i (srcs.map (val provisional))) (workOf provisional)).isSome = true) ∧
    (∀ x ∈ (workOf provisional).s.seqs, x.hid < 2 ^ 16) ∧
    -- an outcome of a rule, which is ordinary
    (let w := workOf { pad [] with texts := [(3, oneStream)] }
     let r : Claim.Die.Outcome := .ok (0, { w with s := { w.s with texts := [] }, wrote := true })
     Claim.Die.Closes 0 3 w r ∧ Claim.Die.Ordinary (requestOf (.txvocabClose g0 4 a2 a1) [3, 0]) r) ∧
    -- a descriptor of zeros, which is read and is not legal
    (KvRequest (requestOf (.kvfree g0 4 a1 a2) [0x60_0000, 0]) ∧ ∃ p, uRead 0x60_0000 128 (workOf (pad [])) = .ok p ∧
      Claim.Die.Took 0x60_0000 128 p.1 (workOf (pad [])) p.2 ∧ ¬ Claim.Die.PoolLegal p.1) ∧
    -- a random word with a number
    (0x3F80_0000 < 2 ^ 32 ∧ (floatFmt false).value 0x3F80_0000 = some 1) ∧
    -- a unit with a request before this one
    ¬ ((0 : Die) = dieOf (pad []).cur.slot ∧ ∀ p ∈ [requestOf (.txvocabClose g0 4 a2 a1) [3, 0]], ¬ (p.die = 0 ∧ p.unit = .text)) := by
  refine ⟨?_, by decide, ⟨.inl ⟨oneStream, rfl, rfl, _, rfl, rfl⟩, ?_⟩, ⟨trivial, ?_⟩, ⟨by decide, ?_⟩, by simp [requestOf]⟩
  · intro i hi
    simp only [served_, List.mem_cons, List.not_mem_nil, or_false] at hi
    rcases hi with rfl | rfl | rfl | rfl | rfl | rfl | rfl | rfl | rfl | rfl | rfl | rfl | rfl | rfl | rfl <;> exact ⟨_, _, rfl, rfl⟩
  · exact fun s a => ⟨fun f => by simp, fun _ => by simp⟩
  · refine ⟨_, ok_get (uRead 0x60_0000 128 (workOf (pad []))) ([], workOf base) (by decide), ok_get _ ([], workOf base) (by decide), ?_⟩
    unfold Claim.Die.PoolLegal
    decide
  · norm_num [Fmt.value, floatFmt, Fmt.bias]

theorem witness_CheckpointWordsFollowTheRules_stops :
    -- a poisoned byte, and conflicts with an engine stream
    (spBad (modCur (snapshot []) (fun x => { x with spPoison := [9] })) 0 (0x1C000000 + 9) = true ∧
      ∀ i, i < 9 → spBad (modCur (snapshot []) (fun x => { x with spPoison := [9] })) 0 (0x1C000000 + i) = false) ∧
    (∃ f, detControl (past (modCur (snapshot []) padClash) [a1, a2]) true .read 0 256 = .error f) ∧
    (∃ f, detControl (past (modCur (snapshot []) padClash) [a1]) true .write 0 256 = .error f) ∧
    -- no free run, and bytes that the slot has lost
    (∀ run : Nat, ¬ (run + 0x1_0000 / 256 ≤ (curSlot (snapshot [])).partw.toNat / 2 ^ 16 % 256 * 64 ∧ run ≥ 1)) ∧
    (∃ j, j < ((curSlot (modCur (snapshot []) (fun x => { x with partw := 0x10101 }))).snaps[(5 : Fin 64)]).len ∧
      spAt (modCur (snapshot []) (fun x => { x with partw := 0x10101 })) 0 (0x1C000000 + j) = none) := by
  refine ⟨by decide, ⟨_, error_get _ (0, 0) (by decide)⟩, ⟨_, error_get _ (0, 0) (by decide)⟩, ?_, 0, by decide⟩
  have h : (curSlot (snapshot [])).partw.toNat / 2 ^ 16 % 256 * 64 = 64 := by decide
  omega

/-! Engine streams. -/

/-- Engine stream p of slot 0 about to take a word, in a state of its own. -/
def engine (p : Fin 4) (y : EngStream) : State :=
  { modSlot (tensors []) 0 (fun x => { x with engs := x.engs.set p y }) with cur := ⟨0, engCode p⟩ }
/-- A started stream with a stack. -/
def running (l : List Word) : EngStream := { EngStream.reset with started := true, pc := 0x20_0000, stack := l }

theorem at_engine (p : Fin 4) (y : EngStream) : AtEngine (engine p y) p := rfl

theorem witness_StackWordsFollowTheTable :
    (∀ i ∈ ([.lit 0x800, .litx 0xFFF, .dup, .drop, .swap, .over, .rot, .addw, .subw, .mulw, .shlw, .shrw, .andw, .orw, .ldk 15, .stk 15] : List Instr),
      (match stackRow (streamOf (engine 3 (running [64, 2, 3, 4, 5, 6, 7])) 3) i with | some (some y) => decide (y.stack.length ≤ 8) | _ => false) = true) ∧
    (match stackRow (streamOf (engine 0 (running [1, 2, 3, 4, 5, 6, 7, 8])) 0) (.lit 0) with | some (some y) => decide (8 < y.stack.length) | _ => false) = true ∧
    stackRow (streamOf (engine 0 (running [1])) 0) .addw = some none ∧ stackRow (streamOf (engine 0 (running [])) 0) .drop = some none := by
  decide

/-- A stream in two loops, in one, and at its last word. -/
def loops (n : Nat) (stack : List Word) : EngStream := { running stack with loops := List.replicate n ⟨0x20_0000, 0x20_0004, 2⟩ }

/-- Slot 0's engine stream with the barriers of the barrier words, and its tag 63. -/
def syncing (l : List Word) : State :=
  { modSlot (barriers []) 0 (fun x => { x with tags := 0x8000000000000000, engs := x.engs.set 0 (running l) }) with cur := ⟨0, 1⟩ }

theorem witness_StreamControlWordsFollowTheRules :
    AtEngine (engine 3 (loops 1 [2, 0])) 3 ∧ (streamOf (engine 3 (loops 1 [2, 0])) 3).stack.length ≤ 8 ∧
    (∀ i ∈ ([.nopw, .brw 0x20, .bzw, .brs, .loopw 1, .endw] : List Instr), (controlRow (streamOf (engine 3 (loops 1 [2, 0])) 3) i).isSome = true) ∧
    (controlRow (streamOf (engine 3 (loops 1 [0, 0])) 3) (.loopw 63)).isSome = true ∧
    -- a third loop, and one that ends behind the loop around it
    ((streamOf (engine 3 (loops 2 [2])) 3).stack = 2 :: [] ∧ 2 ≤ (streamOf (engine 3 (loops 2 [2])) 3).loops.length) ∧
    ((streamOf (engine 3 (loops 1 [2])) 3).loops.length < 2 ∧ controlRow (streamOf (engine 3 (loops 1 [2])) 3) (.loopw 2) = none) ∧
    ((curSlot (syncing [])).tags.getLsbD 63 = true ∧ (curSlot (syncing [])).tags.getLsbD 0 = false) ∧
    -- BARAW and BARWW
    (AtEngine (syncing [511]) 0 ∧ (streamOf (syncing [511]) 0).stack = 511 :: [] ∧ Owned (syncing [511]) 511 ∧ ¬ Owned (syncing [512]) 512) ∧
    ctxPriv (syncing []) (curSlot (syncing [])).ctx = true ∧ ctxPriv plainCtx (curSlot plainCtx).ctx = false ∧
    (streamOf (syncing []) 0).launches = [] :=
  ⟨rfl, by decide, by decide, by decide, by decide, by decide, by decide, ⟨rfl, by decide, ⟨by decide, 0, by decide⟩, fun h => absurd h.1 (by decide)⟩,
    by decide, by decide, by decide⟩

/-- An operand for each address in the slot's own scratchpad. -/
def spa : Word := 0x1C000000
/-- Each launch word, with operands that pass its checks: one element, one row, one byte, one step. -/
def copies : List (Instr × List Word) :=
  [(.cpy1d true true, [0x4000, spa, spa, 1]), (.cpy2d true false, [0x4000, spa, 0, 0x1_0000_0001, 0]),
    (.cpy3d false true, [0x4000, 0, spa, 0x1_0000_0001, 0, 1, 0, 0]), (.cpyt true, [0x4000, 1, 1, spa, 32]), (.cpytb 1 false, [0x4000, 1, 1, spa, 0x20_0000_0001]),
    (.cpyg true true, [0x4000, spa, spa, spa, 0x1_0000_0001, 0]), (.cpys true true, [0x4000, spa, spa, spa, 0x1_0000_0001, 0]),
    (.cpyfill true, [0x4000, spa, 0, 1])]
def matrices : List (Instr × List Word) :=
  [(.mld, [0x4000, 0, spa, 0]), (.mst, [0x4000, 0, spa, 0]), (.accinit, [0x4000, 1]), (.acczero, [0x4000, 3]), (.acccvt, [0x4000, 0x0080_0141, spa]),
    (.accnorm, [0x4000, 0]), (.accsnap, [0x4000, 1, spa]), (.accload, [0x4000, 1, spa]), (.permrd, [0x4000, spa]), (.growrd, [0x4000, spa]),
    (.mma true true, [0x4000, 0]), (.mma false false, [0x4000, 0, spa, 0, spa, 0]), (.mmas true false, [0x4000, 1, 0, spa, 0]),
    (.mmas false true, [0x4000, 1, 1, spa, 0])]
def factors : List (Instr × List Word) :=
  [(.flu true, [0x4000, 0x4_0000_0001, spa]), (.fchol false, [0x4000, 0x4_0000_0001, spa]), (.fqr true, [0x4000, 0x4_0000_0101, spa, spa]),
    (.ftrsl false, [0x4000, 0x0004_0004_0001_0001, spa, spa]), (.ftrsu true, [0x4000, 0x0004_0004_0001_0001, spa, spa]),
    (.fapplyq false, [0x4000, 0x0004_0004_0001_0101, spa, spa, spa])]
def vectors : List (Instr × List Word) :=
  [(.vadd 2, [0x4000, 1, spa, spa, spa]), (.vsub 4, [0x4000, 1, spa, spa, spa]), (.vmul 5, [0x4000, 1, spa, spa, spa]), (.vfma 4, [0x4000, 1, spa, spa, spa, spa]),
    (.vmax 6, [0x4000, 1, spa, spa, spa]), (.vmin 2, [0x4000, 1, spa, spa, spa]), (.vabs 6, [0x4000, 1, spa, spa]), (.vcmp 6, [0x4000, 1, spa, spa, spa]),
    (.vsel 0, [0x4000, 1, spa, spa, spa, spa]), (.vcvt 6, [0x4000, 1, spa, spa]), (.vrcp 5, [0x4000, 1, spa, spa]), (.vrsq 4, [0x4000, 1, spa, spa]),
    (.vexp2 5, [0x4000, 1, spa, spa]), (.vlog2 4, [0x4000, 1, spa, spa]), (.vred 6, [0x4000, 1, spa, spa]), (.viota 6, [0x4000, 1, spa, 0])]
def vectors2 : List (Instr × List Word) :=
  [(.vand 0, [0x4000, 1, spa, spa, spa]), (.vor 6, [0x4000, 1, spa, spa, spa]), (.vxor 3, [0x4000, 1, spa, spa, spa]), (.vshl 2, [0x4000, 1, spa, spa, spa]),
    (.vshr 6, [0x4000, 1, spa, spa, spa]), (.vmov 1, [0x4000, 1, spa, spa]), (.vrnd, [0x4000, 1, spa]), (.vtmask, [0x4000, spa, spa, 1, 1]),
    (.vsmax false 5, [0x4000, spa, spa, 0x1_0000_0001, 4, 0]), (.vsmax true 4, [0x4000, spa, spa, spa, 0x1_0000_0001, 4, 0]),
    (.vtopk, [0x4000, spa, spa, 0x1_0000_0001]), (.vargmax, [0x4000, spa, spa, 1]), (.vscan 5, [0x4000, 1, spa, spa]),
    (.vquant 0, [0x4000, 32, spa, spa, spa]), (.vdeq 5, [0x4000, 32, spa, spa, spa])]
def walks : List (Instr × List Word) :=
  [(.xray, [0x4000, spa, spa, 0, 0, 0x10_0001_0001]), (.xrad, [0x4000, spa, spa, 0, 0, 0x10_0001_0001]), (.xknn, [0x4000, spa, spa, 0, 0, 0x10_0001_0001]),
    (.xbox, [0x4000, spa, spa, 0, 0, 0x10_0001_0001])]
def launching : List (Instr × List Word) := copies ++ matrices ++ factors ++ vectors ++ vectors2 ++ walks

/-- The stream of a launch word with its operands, and a format word queued. -/
def atLaunch (p : Fin 4) (l : List Word) : State := modSlot (engine p (running l)) 0 (fun x => { x with fmtq := [0] })

theorem completion_none (s : State) : CompletionOk s false 0x4000 := by
  refine ⟨by decide, by decide, ?_⟩
  exact (if_pos (by decide)).mpr rfl

/-- A stream with launches queued. -/
def full (n : Nat) : EngStream :=
  { running [1, 1, 1, 1, 1] with launches := List.replicate n ⟨.vadd 2, 0, [], false, 0, none, 0, 0, 0, 0, Order.empty, none, false, [], none, false⟩ }

/-- The hypotheses of the launch that joins its queue. -/
def joins (q : Instr × List Word) : Bool :=
  match launchRow q.1, encode q.1 with
  | some r, some _ =>
    let s := atLaunch r.stream q.2
    let y := streamOf s r.stream
    let popped := setSlot s 0 (withEng (curSlot s) r.stream { y with stack := y.stack.drop r.pops })
    (match r.feature with | some n => feature s n | none => true) && decide (r.pops = y.stack.length) && decide (y.stack.length ≤ 8) &&
      decide (y.launches.length < 8) && decide (y.stack.headD 0 = 0x4000) && decide (checkOf q.1 r.stream popped 0 y (y.stack.take r.pops) = none) &&
      !(curSlot s).detctl
  | _, _ => false

theorem witness_LaunchWordsJoinTheirQueue :
    (∀ q ∈ launching, joins q = true) ∧ CompletionOk (atLaunch 0 []) false 0x4000 ∧
    -- another stream, a feature not accepted, too few entries, a full queue, a bad completion word, a bad operand, no format word
    ((0 : Fin 4) ≠ 1 ∧ launchRow (.vadd 2) = some ⟨5, 1, none, false⟩ ∧ launchRow .vtmask = some ⟨5, 1, some 3, false⟩ ∧
      feature plainCtx 3 = false ∧ (streamOf (atLaunch 1 [0x4000]) 1).stack.length < 5 ∧
      8 ≤ (streamOf (engine 1 (full 8)) 1).launches.length ∧
      ¬ CompletionOk (atLaunch 1 []) false 64 ∧ ¬ CompletionOk (atLaunch 1 []) false 0x8200 ∧
      (checkOf (.vadd 2) 1 (atLaunch 1 []) 0 (running []) [0, 1, 0x1_0000_0000, 0, 0]).isSome = true) := by
  refine ⟨by decide, completion_none _, by decide, rfl, rfl, by decide, by decide, by decide, ?_, ?_, by decide⟩ <;>
    unfold CompletionOk <;> decide

/-- Slot 0's engine stream with launches of a slot that a tag and an engine's fence have taught. -/
def behind (i : Instr) : State := engine 0 { running [1] with launches := [⟨i, 0, [], false, 0, none, 0, 0, 0, 0, Order.empty, none, false, [], none, false⟩] }
/-- The stream that has arrived at barrier 511, or waits for it, in the phase before the present one. -/
def lagging (mine : Bool) : EngStream := { running [511] with arrv := mine, arrIdx := 511, arrPh := true, wpv := true, wph := true }
def phased (mine : Bool) : State := modSlot (syncing [511]) 0 (fun x => { x with engs := x.engs.set 0 (lagging mine) })

theorem witness_StreamControlWordsFollowTheRules_stops :
    -- too few entries
    ((streamOf (engine 3 (running [1])) 3).stack.length < 2 ∧ (streamOf (engine 3 (running [])) 3).stack = []) ∧
    -- what set a tag
    (∃ l, (63, l) ∈ (curSlot (modCur (syncing []) (fun x => { x with tagKnown := [(63, ⟨[(0x30_0000, 4)], []⟩)] }))).tagKnown) ∧
    -- a barrier with an arrival to come, and one with none; its phase against the stream's arrival, and against its wait
    ((barrierOf (syncing [511]) 511).arr.toNat < (barrierOf (syncing [511]) 511).exp.toNat) ∧
    ((barrierOf (phased true) 511).phase ≠ (streamOf (phased true) 0).arrPh ∧ (streamOf (phased true) 0).arrv = true ∧
      (streamOf (phased true) 0).arrIdx.toNat = (511 : Word).toNat) ∧
    ((streamOf (phased false) 0).arrv = false ∧ (streamOf (phased false) 0).wpv = true ∧
      (barrierOf (phased false) 511).phase ≠ (streamOf (phased false) 0).wph) ∧
    -- a scope that the context may not name
    (10 ≤ (11 : BitVec 4).toNat ∧ ctxPriv plainCtx (curSlot plainCtx).ctx = false) ∧
    (streamOf (behind (.vadd 2)) 0).launches ≠ [] := by
  refine ⟨by decide, ⟨⟨[(0x30_0000, 4)], []⟩, by decide⟩, by decide, by decide, by decide, by decide, by decide⟩

/-- A copy of a byte of memory into the slot's scratchpad, in deterministic mode. -/
def fetching (dst src : Word) (f : Slot → Slot) : State := modSlot (atLaunch 2 [0x4000, dst, src, 1]) 0 f
def fetchReach (dst src : Word) (f : Slot → Slot) : Reach := reachOf (.cpy1d true false) 2 (fetching dst src f) 0 [0x4000, dst, src, 1]

theorem witness_LaunchWordsJoinTheirQueue_held :
    -- MMA behind an MMAS without its format word
    (∃ l ∈ (streamOf (behind (.mmas true true)) 0).launches, isMmas l.op = true ∧ l.fmtw = none) ∧
    -- a byte that no entry permits, one that an entry permits for less, and one that an engine stream has written
    ((curSlot (fetching spa 0x2_0000 footed)).detctl = true ∧ Breaks (curSlot (fetching spa 0x2_0000 footed)) (fetchReach spa 0x2_0000 footed) 0x08 0x2_0000) ∧
    Breaks (curSlot (fetching spa 0x1_0000 footed)) (fetchReach spa 0x1_0000 footed) 0x09 0x1_0000 ∧
    ((curSlot (fetching 0x1C000017 0 padClash)).detctl = true ∧
      Meets (curSlot (fetching 0x1C000017 0 padClash)) 5 [] (fetchReach 0x1C000017 0 padClash) 0x17) ∧
    -- an access that an entry permits
    byteRule (footOf (curSlot (fetching spa 0xFFFF footed))) .read 0xFFFF = none := by
  refine ⟨⟨_, List.mem_cons_self .., by decide⟩, ⟨by decide, false, 0x2_0000, 0x2_0001, 0x2_0000, ⟨1, rfl, by decide⟩, by decide, by decide, by decide, by decide⟩,
    ⟨false, 0x1_0000, 0x1_0001, 0x1_0000, ⟨1, rfl, by decide⟩, by decide, by decide, by decide, by decide⟩,
    ⟨by decide, true, true, 0x17, 0x18, ?_, ⟨7, 1, true, 0x17, 0x18, true⟩, by decide, by decide⟩, by decide⟩
  show (0x17, 0x18) ∈ _
  decide

/-! Launches, copies and channels at work. -/

/-- A launch with operands. -/
def launch (op : Instr) (vals : List Word) (started : Bool) : Launch := ⟨op, 0x20_0000, vals, started, 0, none, 7, 0, 0, 0, Order.empty, none, false, [], none, false⟩
/-- Slot 0 with launches queued in a stream. -/
def queueOf (p : Fin 4) (l : List Launch) : State :=
  modSlot (engine p { running [] with launches := l }) 0 (fun x => { x with fmtq := [0], acc := [(0, 5)] })

theorem witness_LaunchesHaveTheirEffect :
    (∀ q ∈ [(Instr.vadd 2, (0x000002 : Word)), (.vsub 6, 2), (.vmul 2, 2), (.vmax 6, 2), (.vmin 6, 2), (.vand 2, 2), (.vor 6, 2), (.vxor 2, 2), (.vshl 6, 2),
      (.vshr 2, 0x10000002)], let l := launch q.1 [0x4000, q.2, spa, spa + 8, spa + 0x3FF8] true;
      (getEng (queueOf 1 [l]) 0 1).launches[0]? = some l ∧ (elementwise q.1).isSome = true ∧ q.2.getLsbD 27 = false) ∧
    (∀ l, (getEng (queueOf 1 [l]) 0 1).faulted ≠ some l.seq) ∧ (getSlot (queueOf 1 []) 0).stop = none ∧
    (∀ j, j < 8 → spAt (queueOf 1 []) 0 (spa.toNat + j) = some (0, 0 + j) ∧ spAt (queueOf 1 []) 0 ((spa + 8).toNat + j) = some (0, 8 + j) ∧
      spAt (queueOf 1 []) 0 ((spa + 0x3FF8).toNat + j) = some (0, 0x3FF8 + j) ∧ spBad (queueOf 1 []) 0 ((spa + 8).toNat + j) = false ∧
      spBad (queueOf 1 []) 0 ((spa + 0x3FF8).toNat + j) = false) ∧
    (let l := launch .acczero [0x4000, 3] true;
      (getEng (queueOf 0 [l]) 0 0).launches[0]? = some l ∧ l.started = true ∧ (getEng (queueOf 0 [l]) 0 0).faulted ≠ some l.seq) ∧
    Rising (getSlot (queueOf 0 []) 0).acc := by
  refine ⟨by decide, fun l h => ?_, by decide, by decide, by decide, by unfold Rising; decide⟩
  have e : (getEng (queueOf 1 [l]) 0 1).faulted = none := rfl
  rw [e] at h
  cases h

theorem effect_get (x : Effect) (h : (match x with | .done .. => true | _ => false) = true) : ∃ s fl o, x = .done s fl o := by
  cases x with
  | done s fl o => exact ⟨s, fl, o, rfl⟩
  | fault s fl l f => cases h
  | not => cases h

theorem effect_fault (x : Effect) (h : (match x with | .fault _ _ _ _ => true | _ => false) = true) : ∃ s fl l f, x = .fault s fl l f := by
  cases x with
  | done s fl o => cases h
  | fault s fl l f => exact ⟨s, fl, l, f, rfl⟩
  | not => cases h

/-- Slot 0 with channel 0 at the first record of a ring at 0x2000_0100, and the record's words. -/
def chained (c : Channel) (r : List (Nat × Nat)) : State := words (modSlot (tensors []) 0 (fun x => { x with chans := x.chans.set 0 c })) r
/-- A bound channel with nothing read. -/
def bound : Channel := { Channel.reset with bound := true, ring := 0x2000_0100, size := 2 }
/-- A record of one byte, with no completion; and one without a row. -/
def goodRecord : List (Nat × Nat) := [(0x3F_0100, 1), (0x3F_0108, 0x4000), (0x3F_0110, 0x2000_0200), (0x3F_0118, 0x2000_0201), (0x3F_0120, 1), (0x3F_0128, 1)]
def badRecord : List (Nat × Nat) := [(0x3F_0100, 1), (0x3F_0108, 0x4000), (0x3F_0120, 1)]

/-- An MMAS with a stamp, and the state in which it waits. -/
def stamp (d : Word) : Launch := launch (.mmas true true) [0x4000, d, 0] false
def stamping (d : Word) : State := queueOf 0 [stamp d]

theorem witness_LaunchEventsFollowTheRules_start :
    -- admitted, of a copy through an index array
    (let l := launch (.cpyg true true) [0x4000, spa, spa, spa, 0x1_0000_0001, 0] false;
      MayRun (queueOf 2 [l]) 0 2 0 l ∧ (∃ j, (getSlot (queueOf 2 [l]) 0).job = some j) ∧ isMmas l.op = false ∧ checkerClear (queueOf 2 [l]) 0 2 l = true ∧
        ∀ j, j < 4 → spBad (queueOf 2 [l]) 0 ((spa.toNat + j) % 2 ^ 64) = false ∧ spAt (queueOf 2 [l]) 0 ((spa.toNat + j) % 2 ^ 64) ≠ none) ∧
    -- held back, and admitted
    (let l := launch (.vmov 0) [0x4000, 1, spa, spa] false;
      MayRun (queueOf 1 [{ l with seq := 6, started := true }, l]) 0 1 1 l ∧ checkerClear (queueOf 1 [{ l with seq := 6, started := true }, l]) 0 1 l = false ∧
        checkerClear (queueOf 1 [l]) 0 1 l = true) ∧
    -- MMAS_STAMP at and before its stamp, and after one of 0
    (MayRun (stamping 0) 0 0 0 (stamp 0) ∧ MayRun (stamping 1) 0 0 0 (stamp 1) ∧ (getSlot (stamping 1) 0).fmtq = 0 :: [] ∧
      checkerClear (stamping 0) 0 0 (stamp 0) = true ∧ (stamping 1).dcc = 0 ∧ formatFault (stamp 0).op 0 = none ∧ (formatFault (stamp 0).op 5).isSome = true) := by
  unfold MayRun
  exact ⟨⟨by decide +kernel, Option.isSome_iff_exists.mp (by decide +kernel), by decide +kernel⟩, by decide +kernel, by decide +kernel⟩

theorem witness_LaunchEventsFollowTheRules_copy :
    -- the last byte of a fill, in scratchpad
    (let l := { launch (.cpyfill true) [0x4000, spa, 0x0807060504030201, 8] true with prog := 7 };
      MayRun (queueOf 2 [l]) 0 2 0 l ∧ (∃ pl, copyPlan (queueOf 2 [l]) 0 l.op l.vals [] = .ok pl) ∧
        (match copyPlan (queueOf 2 [l]) 0 l.op l.vals [] with
          | .ok pl => decide (7 < pl.total) && decide (pl.dst 7 = .sp (spa.toNat + 7)) | .error _ => false) = true) ∧
    -- a byte of scratchpad that goes to memory
    (let l := launch (.cpy1d false true) [0x4000, 0x2000_0000, spa, 1] true;
      MayRun (queueOf 2 [l]) 0 2 0 l ∧ (∃ pl, copyPlan (queueOf 2 [l]) 0 l.op l.vals [] = .ok pl) ∧ MemoryCanonical (queueOf 2 [l]) ∧
        (∃ s2 f, streamTranslate (queueOf 2 [l]) 0 3 0x2000_0000 .write true = .ok (s2, f) ∧ lands s2 0 = true) ∧
        ∀ (m : Moving) v, nextByte (queueOf 2 [l]) 0 planNone 0 { m with buffer := some (v, false) } = .ok (queueOf 2 [l], { m with buffer := none }, v)) ∧
    ∃ pl, copyPlan (queueOf 2 []) 0 (.cpy3d true false) [0x4000, spa, 0, 0x2_0000_0003, 0xFFFF_FFF0_0000_0010, 2, 64, 64] [] = .ok pl :=
  ⟨⟨by unfold MayRun; decide +kernel, ⟨_, ok_get _ planNone (by decide +kernel)⟩, by decide +kernel⟩,
    ⟨by unfold MayRun; decide +kernel, ⟨_, ok_get _ planNone (by decide +kernel)⟩, by unfold MemoryCanonical; decide +kernel,
      ⟨_, _, ok_get _ (base, ⟨0, 0, 0⟩) (by decide +kernel), by decide +kernel⟩, fun m v => rfl⟩, _, ok_get _ planNone (by decide +kernel)⟩

theorem witness_LaunchEventsFollowTheRules_end :
    (let l := launch .acczero [0x8005, 1] true;
      MayEnd (queueOf 0 [l]) 0 0 0 l ∧ ∃ s fl o, launchEffect (queueOf 0 [l]) 0 0 l = .done s fl o) ∧
    (let l := launch (.vmov 0) [0x4000, 1, spa, spa] true;
      let s := modSlot (queueOf 1 [l]) 0 (fun x => { x with spPoison := [0] });
      MayEnd s 0 1 0 l ∧ ∃ s1 fl l1 f, launchEffect s 0 1 l = .fault s1 fl l1 f) := by
  refine ⟨⟨⟨by decide +kernel, by decide +kernel, by decide +kernel, by decide +kernel, ?_⟩, effect_get _ (by decide +kernel)⟩,
    ⟨⟨by decide +kernel, by decide +kernel, by decide +kernel, by decide +kernel, ?_⟩, effect_fault _ (by decide +kernel)⟩⟩ <;>
  · intro st h
    cases h

/-! A channel's reads go through its TLB, which may use or not use what it holds: every read of a byte of one page succeeds. -/

/-- A state that differs from s at most in the TLBs, of which the copy stream's holds one entry at most, and in the count of free choices. -/
def Like (s t : State) (x : TlbEntry) : Prop :=
  { t with cores := s.cores, fresh := s.fresh } = s ∧ ∀ e ∈ (t.cores[(0 : Fin 96)]).tlbs[(3 : EngId)], e = x

theorem walk_like {s t : State} (h : { t with cores := s.cores, fresh := s.fresh } = s) (l1 : Nat) (va : Word) : walk t l1 va = walk s l1 va := by
  rw [← h]
  rfl

/-- What the walk of an address of a page gives, and that the page above does not translate. -/
def OnPage (s : State) (x : TlbEntry) (va : Word) (pa : Nat) : Prop :=
  va.extractLsb' 48 16 = 0 ∧ (∃ e1 e2, walk s 0x10_0000 va = .ok ⟨⟨pa, x.entry, x.at_⟩, false, e1, e2⟩) ∧
  (match walk s 0x10_0000 (va + 65536) with | .error _ => true | .ok _ => false) = true ∧
  x.level = 3 ∧ x.vpage = tagOf va 3 ∧ x.asid = 0 ∧ tableOf x.entry + va.toNat % 2 ^ 16 = pa ∧ permitted x.entry .read = true ∧ paOk s pa = true ∧
  (let now := BitVec.ofNat 64 (bytesVal (cellsGet s.mem x.at_ 8)); now ||| (x.entry ||| 0x400) = now) ∧ (getSlot s 0).ctx = 0 ∧ ctxL1 s 0 = 0x10_0000

theorem filled_like {s t : State} {x : TlbEntry} (h : Like s t x) {va : Word} {w : Walk}
    (hw : (⟨0, if w.big then 2 else 3, tagOf va (if w.big then 2 else 3), w.leaf.entry, w.leaf.at_⟩ : TlbEntry) = x) :
    Like s (tlbFill t 0 3 0 va w) x := by
  refine ⟨h.1, fun e he => ?_⟩
  simp only [tlbFill, Fin.getElem_fin, Vector.getElem_set_self] at he
  have := List.mem_of_mem_take he
  simp only [refill, List.mem_append, List.mem_singleton, List.mem_filter] at this
  rcases this with rfl | ⟨hm, -⟩
  · exact hw
  · exact h.2 e hm

theorem copy_reads {s t : State} {x : TlbEntry} {va : Word} {pa : Nat} (hp : OnPage s x va pa) (h : Like s t x) :
    ∃ u, streamTranslate t 0 3 va .read true = .ok (u, ⟨pa, x.entry, x.at_⟩) ∧ Like s u x := by
  obtain ⟨h48, ⟨e1, e2, hw⟩, hn, hl, hv, ha, hpa, hr, hok, hacc, hc, hl1⟩ := hp
  have hc' : (getSlot t 0).ctx = 0 := by rw [← hc, ← h.1]; rfl
  have hl1' : ctxL1 t 0 = 0x10_0000 := by rw [← hl1, ← h.1]; rfl
  have hok' : paOk t pa = true := by rw [← hok, ← h.1]; rfl
  have hm : t.mem = s.mem := by rw [← h.1]
  have hx : x = ⟨0, 3, tagOf va 3, x.entry, x.at_⟩ := by cases x; simp_all
  have hsa : ∀ u : State, u.mem = s.mem → setAccessed u ⟨pa, x.entry, x.at_⟩ .read = u := by
    intro u hu
    unfold setAccessed
    rw [hu]
    exact if_pos hacc
  have hwt : walk t 0x10_0000 va = _ := (walk_like h.1 0x10_0000 va).trans hw
  -- the walk, by either way through the TLB
  have hcached : ∃ w, walkCached t 0 3 0 0x10_0000 va = (.ok w, true) ∧ w.leaf = ⟨pa, x.entry, x.at_⟩ ∧ w.big = false ∨
      walkCached t 0 3 0 0x10_0000 va = (.ok w, false) ∧ w.leaf = ⟨pa, x.entry, x.at_⟩ ∧ w.big = false := by
    unfold walkCached
    cases hf : ((cachedFor t 0 3 0 va).zipIdx.find? (fun t' => Config.freeBool (t.fresh + t'.2))) with
    | none => exact ⟨_, .inr ⟨by rw [Option.map_none]; exact congrArg (·, false) hwt, rfl, rfl⟩⟩
    | some e =>
      have he : e.1 = x := by
        have hmem := List.mem_of_find?_eq_some hf
        have := List.fst_mem_of_mem_zipIdx hmem
        have hmm := (List.mem_filter.mp this).1
        simp only [Fin.reduceEq, if_false, List.append_nil] at hmm
        exact h.2 _ hmm
      refine ⟨⟨⟨tableOf x.entry + va.toNat % 2 ^ 16, x.entry, x.at_⟩, false, none, none⟩, .inl ⟨?_, by rw [hpa], rfl⟩⟩
      simp only [Option.map_some, he, hl, OfNat.ofNat_ne_one, if_false, show ¬ (3 = 2) by decide]
  have key : ∃ u, translateAs t 0 3 0 0x10_0000 va .read = .ok (u, ⟨pa, x.entry, x.at_⟩) ∧ Like s u x := by
    obtain ⟨w, hw2⟩ := hcached
    have hcase : ∃ hit, walkCached t 0 3 0 0x10_0000 va = (.ok w, hit) ∧ w.leaf = ⟨pa, x.entry, x.at_⟩ ∧ w.big = false :=
      hw2.elim (fun q => ⟨_, q⟩) (fun q => ⟨_, q⟩)
    obtain ⟨hit, hq, hleaf, hbig⟩ := hcase
    have done : ∀ w : Walk, w.leaf = ⟨pa, x.entry, x.at_⟩ → w.big = false → ∀ n, 
        Like s (setAccessed (if n ≠ 0 then { tlbFill t 0 3 0 va w with fresh := (tlbFill t 0 3 0 va w).fresh + n } else tlbFill t 0 3 0 va w) w.leaf .read) x := by
      intro w hleaf hbig n
      have hf : Like s (tlbFill t 0 3 0 va w) x := filled_like h (by rw [hleaf, hbig]; exact hx.symm)
      rw [hleaf]
      split
      · rw [hsa _ (by exact hm)]; exact ⟨hf.1, hf.2⟩
      · rw [hsa _ (by exact hm)]; exact hf
    unfold translateAs
    rw [if_neg (by simpa using h48)]
    simp only [hq]
    split
    · rename_i f hh
      split at hh
      · rw [hwt] at hh; cases hh
      · cases hh
    · rename_i w' hh
      have hw' : w'.leaf = ⟨pa, x.entry, x.at_⟩ ∧ w'.big = false := by
        split at hh
        · rw [hwt] at hh; cases hh; exact ⟨rfl, rfl⟩
        · cases hh; exact ⟨hleaf, hbig⟩
      rw [if_neg (by rw [hw'.1, hr]; decide), if_neg (by rw [hw'.1, hok']; decide)]
      exact ⟨_, by rw [hw'.1], done w' hw'.1 hw'.2 _⟩
  obtain ⟨u, hu, hlu⟩ := key
  refine ⟨u, ?_, hlu⟩
  unfold streamTranslate
  have hl1u : ctxL1 u 0 = 0x10_0000 := by rw [← hl1, ← hlu.1]; rfl
  simp only [hc', hl1', show coreOf 0 = 0 from rfl, hu, hl1u, walk_like hlu.1, hw, Bool.false_eq_true, if_false, if_true]
  split
  · rename_i hn'; rw [hn'] at hn; cases hn
  · rfl

/-- The bytes of eight-byte words of memory. -/
def wordsAt (s : State) (pa n : Nat) : Bytes := (List.range n).flatMap (fun i => (List.range 8).map (fun j => cellGet s.mem (pa + 8 * i + j)))

/-- Words of one page are read. -/
theorem chan_reads {s t : State} {x : TlbEntry} {va : Word} {pa : Nat} (n : Nat) (o : Order) (acq : Bool) (hs : Like s t x) (hb : s.poison = [])
    (hlog : s.log = []) (hp : ∀ i, i < n → OnPage s x (va + BitVec.ofNat 64 (8 * i)) (pa + 8 * i) ∧ isHost (pa + 8 * i) = false) :
    ∃ u o', chanRead t 0 o va n acq = .ok (u, o', wordsAt s pa n) ∧ Like s u x := by
  induction n with
  | zero => exact ⟨t, o, rfl, hs⟩
  | succ n ih =>
    obtain ⟨v, o1, ht, hl⟩ := ih fun i hi => hp i (by omega)
    obtain ⟨u, hu, hlu⟩ := copy_reads (hp n (by omega)).1 hl
    have hpo : u.poison = [] := by rw [← hb, ← hlu.1]
    have hlo : u.log = [] := by rw [← hlog, ← hlu.1]
    have hme : u.mem = s.mem := by rw [← hlu.1]
    have hbad : readBad u (pa + 8 * n) 8 = (u, none) := by
      unfold readBad
      rw [(hp n (by omega)).2]
      simp [poisonedIn, firstIn, hpo]
    have hpick : ∀ lo as, pickCut u lo as = (u, u.writes) := by intro lo as; unfold pickCut; rw [hlo]; rfl
    have hbytes : ∀ m a, bytesAt u m a 8 = (List.range 8).map (fun j => cellGet s.mem (a + j)) := by
      intro m a
      unfold bytesAt byteAt
      rw [hlo, hme]
      rfl
    unfold chanRead at ht ⊢
    rw [List.range_succ, List.foldl_append, ht]
    simp only [List.foldl_cons, List.foldl_nil, hu, hbad, agentRead, hpick]
    have e : wordsAt s pa n ++ bytesAt u u.writes (pa + 8 * n) 8 = wordsAt s pa (n + 1) := by
      rw [hbytes, wordsAt, wordsAt, List.range_succ (n := n), List.flatMap_append, List.flatMap_cons, List.flatMap_nil, List.append_nil]
    exact ⟨u, _, by rw [e], hlu⟩

/-- The entry that maps the ring's page, and that it maps a record's first words. -/
def ringEntry : TlbEntry := ⟨0, 3, 0x2000, 0x3F_0C1F, 0x12_0000⟩
abbrev Mapped (s : State) (n : Nat) : Prop :=
  ∀ i, i < n → let va := bound.recordVa + BitVec.ofNat 64 (8 * i)
    va.extractLsb' 48 16 = 0 ∧ (match walk s 0x10_0000 (va + 65536) with | .error _ => true | .ok _ => false) = true ∧
    ringEntry.vpage = tagOf va 3 ∧ tableOf ringEntry.entry + va.toNat % 2 ^ 16 = 0x3F_0100 + 8 * i ∧ paOk s (0x3F_0100 + 8 * i) = true ∧
    (match walk s 0x10_0000 va with | .ok w => decide (w.leaf = ⟨0x3F_0100 + 8 * i, 0x3F_0C1F, 0x12_0000⟩) && !w.big | .error _ => false) = true
abbrev Started (s : State) : Prop :=
  (let now := BitVec.ofNat 64 (bytesVal (cellsGet s.mem ringEntry.at_ 8)); now ||| (ringEntry.entry ||| 0x400) = now) ∧ (getSlot s 0).ctx = 0 ∧
    ctxL1 s 0 = 0x10_0000

theorem ring_on_page {s : State} {n : Nat} (h : Mapped s n) (hs : Started s) :
    ∀ i, i < n → OnPage s ringEntry (bound.recordVa + BitVec.ofNat 64 (8 * i)) (0x3F_0100 + 8 * i) ∧ isHost (0x3F_0100 + 8 * i) = false := by
  intro i hi
  obtain ⟨h1, h2, h3, h4, h5, h6⟩ := h i hi
  refine ⟨⟨h1, ?_, h2, rfl, h3, rfl, h4, by decide, h5, hs.1, hs.2.1, hs.2.2⟩, ?_⟩
  · cases h : walk s 0x10_0000 (bound.recordVa + BitVec.ofNat 64 (8 * i)) with
    | error f => rw [h] at h6; cases h6
    | ok w =>
      rw [h] at h6
      obtain ⟨leaf, big, e1, e2⟩ := w
      simp only [Bool.and_eq_true, decide_eq_true_eq, Bool.not_eq_true'] at h6
      obtain ⟨rfl, rfl⟩ := h6
      exact ⟨e1, e2, rfl⟩
  · have : tableOf ringEntry.entry + (bound.recordVa + BitVec.ofNat 64 (8 * i)).toNat % 2 ^ 16 < 0x3F_0000 + 2 ^ 16 :=
      Nat.add_lt_add_of_le_of_lt (by decide) (Nat.mod_lt _ (by decide))
    rw [h4] at this
    have low : 0x3F_0000 + 2 ^ 16 ≤ hostBase := by decide
    unfold isHost
    rw [decide_eq_false (by omega), Bool.false_and]

/-- A record is read, its control word first. -/
theorem record_reads (r : List (Nat × Nat)) (h : Mapped (chained bound r) 8) (hs : Started (chained bound r)) (hp : (chained bound r).poison = [])
    (hl : (chained bound r).log = []) (ht : (chained bound r).cores[(0 : Fin 96)].tlbs[(3 : EngId)] = []) :
    ∃ s1 o1 s2 o2, chanRead (chained bound r) 0 bound.order bound.recordVa 1 true = .ok (s1, o1, wordsAt (chained bound r) 0x3F_0100 1) ∧
      chanRead s1 0 o1 (bound.recordVa + 8) 7 false = .ok (s2, o2, wordsAt (chained bound r) 0x3F_0108 7) ∧ Like (chained bound r) s2 ringEntry := by
  have like : Like (chained bound r) (chained bound r) ringEntry := ⟨rfl, fun e he => by rw [ht] at he; cases he⟩
  have page := ring_on_page h hs
  obtain ⟨s1, o1, h1, l1⟩ := chan_reads 1 bound.order true like hp hl fun i hi => page i (by omega)
  obtain ⟨s2, o2, h2, l2⟩ := chan_reads (va := bound.recordVa + 8) (pa := 0x3F_0108) 7 o1 false l1 hp hl fun i hi => by
    have e : bound.recordVa + 8 + BitVec.ofNat 64 (8 * i) = bound.recordVa + BitVec.ofNat 64 (8 * (i + 1)) := by
      rw [Nat.mul_add, BitVec.ofNat_add, BitVec.add_assoc, BitVec.add_comm (8 : Word)]; rfl
    rw [e, show 0x3F_0108 + 8 * i = 0x3F_0100 + 8 * (i + 1) by ring]
    exact page (i + 1) (by omega)
  exact ⟨s1, o1, s2, o2, h1, h2, l2⟩

/-- The words of a record, read back. -/
def recordIn (s : State) : ChainRec :=
  let w := wordAt (wordsAt s 0x3F_0100 1 ++ wordsAt s 0x3F_0108 7)
  ⟨w 0, w 1, w 2, w 3, w 4, w 5, w 6, w 7⟩

/-- A channel whose record is copied. -/
def copied : Channel := { bound with rcd := some ⟨1, 0x4000, 0x2000_0200, 0x2000_0201, 1, 1, 0, 0⟩, done := 1 }

theorem witness_LaunchEventsFollowTheRules_chain :
    -- no record yet
    (ChannelRuns (chained bound []) 0 bound ∧ ∃ s1 o ctl, chanRead (chained bound []) 0 bound.order bound.recordVa 1 true = .ok (s1, o, ctl) ∧
      (wordAt ctl 0).getLsbD 0 = false) ∧
    -- a record that passes its checks, and one that does not
    (ChannelRuns (chained bound goodRecord) 0 bound ∧ ∃ s1 o ctl s2 o2 rest,
      chanRead (chained bound goodRecord) 0 bound.order bound.recordVa 1 true = .ok (s1, o, ctl) ∧ (wordAt ctl 0).getLsbD 0 = true ∧
      chanRead s1 0 o (bound.recordVa + 8) 7 false = .ok (s2, o2, rest) ∧
      (let w := wordAt (ctl ++ rest); recordOk s2 ⟨w 0, w 1, w 2, w 3, w 4, w 5, w 6, w 7⟩ = true) ∧ (getSlot s2 0).detctl = false) ∧
    (ChannelRuns (chained bound badRecord) 0 bound ∧ ∃ s1 o ctl s2 o2 rest,
      chanRead (chained bound badRecord) 0 bound.order bound.recordVa 1 true = .ok (s1, o, ctl) ∧ (wordAt ctl 0).getLsbD 0 = true ∧
      chanRead s1 0 o (bound.recordVa + 8) 7 false = .ok (s2, o2, rest) ∧
      (let w := wordAt (ctl ++ rest); recordOk s2 ⟨w 0, w 1, w 2, w 3, w 4, w 5, w 6, w 7⟩ = false) ∧
      ∀ j, (getSlot (chained bound badRecord) 0).job = some j → j.card.pnode = none) ∧
    -- a record that is copied
    (ChannelRuns (chained copied goodRecord) 0 copied ∧ ∃ s1 f, streamTranslate (chained copied goodRecord) 0 3 copied.recordVa .write true = .ok (s1, f) ∧
      lands s1 0 = true ∧ MemoryCanonical s1) := by
  refine ⟨⟨by unfold ChannelRuns; decide +kernel, ?_⟩, ⟨by unfold ChannelRuns; decide +kernel, ?_⟩, ⟨by unfold ChannelRuns; decide +kernel, ?_⟩,
    ⟨by unfold ChannelRuns; decide +kernel, ?_⟩⟩
  · obtain ⟨s1, o1, -, -, h1, -, -⟩ := record_reads [] (by decide +kernel) (by decide +kernel) (by decide +kernel) (by decide +kernel) rfl
    exact ⟨s1, o1, _, h1, by decide +kernel⟩
  · obtain ⟨s1, o1, s2, o2, h1, h2, l⟩ := record_reads goodRecord (by decide +kernel) (by decide +kernel) (by decide +kernel) (by decide +kernel) rfl
    have e : ∀ s, recordOk s (recordIn (chained bound goodRecord)) = true := by
      have : recordIn (chained bound goodRecord) = ⟨1, 0x4000, 0x2000_0200, 0x2000_0201, 1, 1, 0, 0⟩ := by decide +kernel
      rw [this]
      exact fun s => rfl
    exact ⟨s1, o1, _, s2, o2, _, h1, by decide +kernel, h2, e s2, by
      have d : (getSlot (chained bound goodRecord) 0).detctl = false := by decide +kernel
      rw [← l.1] at d
      exact d⟩
  · obtain ⟨s1, o1, s2, o2, h1, h2, l⟩ := record_reads badRecord (by decide +kernel) (by decide +kernel) (by decide +kernel) (by decide +kernel) rfl
    have e : ∀ s, recordOk s (recordIn (chained bound badRecord)) = false := by
      have : recordIn (chained bound badRecord) = ⟨1, 0x4000, 0, 0, 1, 0, 0, 0⟩ := by decide +kernel
      rw [this]
      exact fun s => rfl
    refine ⟨s1, o1, _, s2, o2, _, h1, by decide +kernel, h2, e s2, fun j hj => ?_⟩
    have : ((getSlot (chained bound badRecord) 0).job.map (fun j => j.card.pnode.isNone)) = some true := by decide +kernel
    rw [hj] at this
    simpa using this
  · refine ⟨_, _, ok_get _ (base, ⟨0, 0, 0⟩) (by decide +kernel), by decide +kernel, by unfold MemoryCanonical; decide +kernel⟩

/-! The effects of launches: operands in the slot's own scratchpad. -/

/-- A slot whose own scratchpad is of 16 KiB, with no poison in it. -/
structure Pad (s : State) : Prop where
  target : spTarget s 0 7 = some 0
  size   : spSize (getSlot s 0) = 16384
  clean  : (getSlot s 0).spPoison = []

theorem Pad.place {s : State} (h : Pad s) {a : Nat} (lo : 0x1C000000 ≤ a) (hi : a < 0x1C004000) : spAt s 0 a = some (0, a - 0x1C000000) := by
  unfold spAt
  rw [if_neg (by omega), show a / 2 ^ 26 = 7 by omega, h.target]
  simp only [show a % 2 ^ 26 = a - 0x1C000000 by omega, h.size]
  rw [if_pos (by omega)]

theorem Pad.unpoisoned {s : State} (h : Pad s) {a : Nat} (lo : 0x1C000000 ≤ a) (hi : a < 0x1C004000) : spBad s 0 a = false := by
  unfold spBad
  rw [h.place lo hi]
  show (getSlot s 0).spPoison.contains _ = false
  rw [h.clean]
  rfl

/-- Rows within the scratchpad. -/
abbrev Inside (rs : ByteRows) : Prop := ∀ r ∈ rs, 0 < r.2 ∧ 0x1C000000 ≤ r.1 ∧ r.1 + r.2 ≤ 0x1C004000

theorem Pad.rows {s : State} (h : Pad s) {rs : ByteRows} (hr : Inside rs) : OwnRows s 0 rs := by
  intro r m
  obtain ⟨p, lo, hi⟩ := hr r m
  refine ⟨p, r.1 - 0x1C000000, fun j hj => ?_⟩
  rw [h.place (by omega) (by omega), Nat.sub_add_comm lo]

theorem Pad.readable {s : State} (h : Pad s) {a : Nat} (lo : 0x1C000000 ≤ a) (hi : a < 0x1C004000) : Readable s 0 a :=
  ⟨⟨_, h.place lo hi⟩, h.unpoisoned lo hi⟩

theorem Pad.clean_rows {s : State} (h : Pad s) {rs : ByteRows} (hr : Inside rs) : ∀ a ∈ rs, ∀ j < a.2, spBad s 0 (a.1 + j) = false := by
  intro r m j hj
  obtain ⟨p, lo, hi⟩ := hr r m
  exact h.unpoisoned (by omega) (by omega)

theorem Pad.apart {s : State} (h : Pad s) {a b : Nat × Nat} (ha : Inside [a]) (hb : Inside [b]) (d : a.1 + a.2 ≤ b.1 ∨ b.1 + b.2 ≤ a.1) :
    RowsApart s 0 a b := by
  obtain ⟨_, la, ha⟩ := ha a (List.mem_singleton_self a)
  obtain ⟨_, lb, hb⟩ := hb b (List.mem_singleton_self b)
  intro i j hi hj e
  rw [h.place (by omega) (by omega), h.place (by omega) (by omega)] at e
  simp only [Option.some.injEq, Prod.mk.injEq, true_and] at e
  omega

/-- Rows of which each lies apart from the ones after it. -/
abbrev Spread (rs : ByteRows) : Prop := rs.Pairwise (fun a b => a.1 + a.2 ≤ b.1 ∨ b.1 + b.2 ≤ a.1)

theorem Pad.pairwise {s : State} (h : Pad s) {rs : ByteRows} (hr : Inside rs) (d : Spread rs) : rs.Pairwise (RowsApart s 0) :=
  List.Pairwise.imp_of_mem (fun ha hb e => h.apart (fun r m => hr r (List.mem_singleton.mp m ▸ ha)) (fun r m => hr r (List.mem_singleton.mp m ▸ hb)) e) d

theorem pad_queue (p : Fin 4) (l : List Launch) : Pad (queueOf p l) :=
  ⟨rfl, by unfold spSize; rw [show (getSlot (queueOf p l) 0).partw = 0x01010101 from rfl]; decide, rfl⟩

/-- The hypotheses of VectorEffect on a launch: its words have a row, with operands of the slot's own, apart from what they write. -/
structure VectorReady (s : State) (l : Launch) (r : VectorRow) : Prop where
  row    : vectorRow (spGet s 0) l = some r
  reads  : OwnRows s 0 r.reads
  clean  : ∀ a ∈ r.reads, ∀ j < a.2, spBad s 0 (a.1 + j) = false
  legal  : r.legal
  rows   : OwnRows s 0 (r.writes.flatMap Output.rows)
  apart  : ∀ a ∈ r.reads, ∀ b ∈ r.writes.flatMap Output.rows, RowsApart s 0 a b ∨ (a.2 = b.2 ∧ spAt s 0 a.1 = spAt s 0 b.1)
  others : (r.writes.flatMap Output.rows).Pairwise (RowsApart s 0)

theorem ready {s : State} (h : Pad s) {l : Launch} {r : VectorRow} (hr : vectorRow (spGet s 0) l = some r) (legal : r.legal)
    (reads : Inside r.reads) (rows : Inside (r.writes.flatMap Output.rows)) (spread : Spread (r.writes.flatMap Output.rows))
    (apart : ∀ a ∈ r.reads, ∀ b ∈ r.writes.flatMap Output.rows, a.1 + a.2 ≤ b.1 ∨ b.1 + b.2 ≤ a.1) : VectorReady s l r :=
  ⟨hr, h.rows reads, h.clean_rows reads, legal, h.rows rows,
    fun a ha b hb => .inl (h.apart (fun r m => reads r (List.mem_singleton.mp m ▸ ha)) (fun r m => rows r (List.mem_singleton.mp m ▸ hb)) (apart a ha b hb)),
    h.pairwise rows spread⟩

def pa1 : Word := spa + 0x1000
def pa2 : Word := spa + 0x2000
def pa3 : Word := spa + 0x3000
/-- Launches of the vector words, of one element, of the last formats, or of one block. -/
def vectorLaunches : List Launch :=
  ([(.vadd 5, [0x4000, 1, spa, pa1, pa2]), (.vsub 4, [0x4000, 0x10000001, spa, pa1, 7]), (.vmul 6, [0x4000, 0x08000002, spa, pa1, pa2]),
    (.vmax 5, [0x4000, 1, spa, pa1, pa2]), (.vmin 4, [0x4000, 1, spa, pa1, pa2]), (.vfma 5, [0x4000, 1, spa, pa1, pa2, pa3]),
    (.vabs 5, [0x4000, 1, spa, pa1]), (.vcmp 5, [0x4000, 9, spa, pa1, pa2]), (.vsel 6, [0x4000, 1, spa, pa3, pa1, pa2]),
    (.vcvt 5, [0x4000, 0x6_0000_0001, spa, pa1]), (.vrcp 5, [0x4000, 1, spa, pa1]), (.vrsq 4, [0x4000, 1, spa, pa1]), (.vexp2 5, [0x4000, 1, spa, pa1]),
    (.vlog2 4, [0x4000, 1, spa, pa1]), (.vred 4, [0x4000, 1, spa, pa1]), (.viota 6, [0x4000, 1, spa, 5])] : List (Instr × List Word)).map
    (fun q => launch q.1 q.2 true)
def vectorLaunches2 : List Launch :=
  ([(.vand 0, [0x4000, 1, spa, pa1, pa2]), (.vor 6, [0x4000, 1, spa, pa1, pa2]), (.vxor 3, [0x4000, 1, spa, pa1, pa2]), (.vshl 2, [0x4000, 1, spa, pa1, pa2]),
    (.vshr 6, [0x4000, 1, spa, pa1, pa2]), (.vmov 3, [0x4000, 1, spa, pa1]), (.vrnd, [0x4000, 1, spa]),
    (.vsmax false 5, [0x4000, spa, pa1, 0x1_0000_0002, 8, 0x3F80_0000]), (.vsmax true 4, [0x4000, spa, pa1, pa2, 0x1_0000_0002, 0x1_0000_0008, 0]),
    (.vtopk, [0x4000, spa, pa1, 0x1_0000_0001]), (.vargmax, [0x4000, spa, pa1, 1]), (.vscan 5, [0x4000, 2, spa, pa1]),
    (.vquant 2, [0x4000, 32, spa, pa2, pa1]), (.vdeq 5, [0x4000, 32, spa, pa1, pa2])] : List (Instr × List Word)).map (fun q => launch q.1 q.2 true)
/-- VTMASK of one node, which is legal, and of two, of which the second has no parent before it. -/
def maskOf (n : Word) : Launch := launch .vtmask [0x4000, spa, pa1, n, 1] true

theorem witness_LaunchesHaveTheirEffect_vector : (∀ l ∈ vectorLaunches, ∃ r, VectorReady (queueOf 1 []) l r) := by
  intro l hl
  simp only [vectorLaunches, List.map_cons, List.map_nil, List.mem_cons, List.not_mem_nil, or_false] at hl
  rcases hl with rfl | rfl | rfl | rfl | rfl | rfl | rfl | rfl | rfl | rfl | rfl | rfl | rfl | rfl | rfl | rfl <;>
    exact ⟨_, ready (pad_queue 1 []) rfl trivial (by decide) (by decide) (by decide) (by decide)⟩

theorem witness_LaunchesHaveTheirEffect_vector2 : (∀ l ∈ vectorLaunches2, ∃ r, VectorReady (queueOf 1 []) l r) := by
  intro l hl
  simp only [vectorLaunches2, List.map_cons, List.map_nil, List.mem_cons, List.not_mem_nil, or_false] at hl
  rcases hl with rfl | rfl | rfl | rfl | rfl | rfl | rfl | rfl | rfl | rfl | rfl | rfl | rfl | rfl <;>
    exact ⟨_, ready (pad_queue 1 []) rfl trivial (by decide) (by decide) (by decide) (by decide)⟩

theorem witness_LaunchesHaveTheirEffect_mask :
    (∃ r, VectorReady (queueOf 1 []) (maskOf 0x101) r) ∧
    ∃ r, vectorRow (spGet (modSlot (queueOf 1 []) 0 (fun x => { x with scratch := [(0x1001, 1)] })) 0) (maskOf 0x102) = some r ∧ ¬ r.legal := by
  refine ⟨⟨_, ready (pad_queue 1 []) rfl (fun i h1 h2 => ?_) (by decide) (by decide) (by decide) (by decide)⟩, _, rfl, fun h => ?_⟩
  · have : i < 1 := h2
    omega
  · exact absurd (h 1 (by decide) (by decide)) (by decide)

theorem other_slot (s : State) (f : Slot → Slot) {k : SlotId} (h : k ≠ 0) : getSlot (modSlot s 0 f) k = getSlot s k :=
  Vector.getElem_set_ne (by omega) k.isLt fun e => h (Fin.ext e.symm)

theorem queue_storage (p : Fin 4) (l : List Launch) : StorageCanonical (queueOf p l) := by
  intro k
  by_cases hk : k = 0
  · subst hk
    show Memory.wf ([] : Cells 8) = true ∧ Memory.wf ([] : Cells 8) = true
    decide
  · have e1 : (tensors []).slots = (pad []).slots := rfl
    have e2 : (engine p { running [] with launches := l }).slots =
        (modSlot (tensors []) 0 (fun x => { x with engs := x.engs.set p { running [] with launches := l } })).slots := rfl
    have h1 : getSlot (queueOf p l) k = getSlot (engine p { running [] with launches := l }) k := other_slot _ _ hk
    have h2 : getSlot (engine p { running [] with launches := l }) k = getSlot (tensors []) k := by
      unfold getSlot
      rw [e2]
      exact other_slot (tensors []) _ hk
    have h3 : getSlot (tensors []) k = getSlot (pad []) k := by
      unfold getSlot
      rw [e1]
    rw [h1, h2, h3]
    exact storage_canonical (fun x => regs [] { x with partw := 0x01010101, granules := 0x01010101 }) (by decide) k

/-- A descriptor of a tile of 384 bytes a row at the scratchpad's start. -/
def rowsAt : Word × Word := (0x180_1C000000, 0)

theorem descriptor_rows {i b : Nat} (hi : i < 32) : 0x1C000000 ≤ descriptorByte rowsAt.1 rowsAt.2 0 i b ∧ descriptorByte rowsAt.1 rowsAt.2 0 i b < 0x1C004000 := by
  unfold descriptorByte
  simp only [show rowsAt.1.toNat = 0x180_1C000000 from rfl, show rowsAt.2.toNat = 0 from rfl]
  omega

theorem witness_LaunchesHaveTheirEffect_matrix :
    let s := queueOf 0 []
    StorageCanonical s ∧
    -- MLD and MST of one tile
    (rowsAt.1.toNat < 2 ^ 48 ∧ rowsAt.2.toNat < 2 ^ 35 ∧ (∀ t i b, t < (31 : Word).toNat / 2 ^ 5 % 2 ^ 5 + 1 → i < 32 → b < 384 → Readable s 0 (descriptorByte rowsAt.1 rowsAt.2 t i b)) ∧
      (getSlot s 0).tilePoison = []) ∧
    -- the accumulator words
    ((getSlot s 0).accPoison = [] ∧ OwnRows s 0 [(spa.toNat, 8200)] ∧ (∀ j < 8200, Readable s 0 (spa.toNat + j)) ∧
      OwnRows s 0 (pitched spa 32 0x80 (32 * codeSize 5)) ∧ (pitched spa 32 0x80 (32 * codeSize 5)).Pairwise (RowsApart s 0) ∧
      OwnRows s 0 [(spa.toNat, 64)] ∧ OwnRows s 0 [(spa.toNat, 8)]) ∧
    -- MMA from registers, and from scratchpad with scales; INT8 and FP8 mixed, and BF16
    ((0x31 : Word).toNat % 2 ^ 4 ≤ 3 ∧ (0x31 : Word).toNat / 2 ^ 4 % 2 ^ 4 ≤ 3 ∧ (0x44 : Word).toNat % 2 ^ 4 = 4 ∧ (0x44 : Word).toNat / 2 ^ 4 % 2 ^ 4 = 4 ∧
      (∀ i j, i < 32 → j < 384 → tileAt 3 i j ∉ (getSlot s 0).tilePoison) ∧
      (∀ i j, i < 32 → j < 384 → Readable s 0 (descriptorByte rowsAt.1 rowsAt.2 0 i j)) ∧
      ∀ i g j, i < 32 → g < 12 → j < 3 → Readable s 0 (0x1C003000 + 3 * (12 * i + g) + j)) := by
  have h := pad_queue 0 []
  refine ⟨queue_storage 0 [], ⟨by decide, by decide, fun t i b ht hi _ => ?_, rfl⟩,
    ⟨rfl, h.rows (by decide), fun j hj => ?_, h.rows (by decide), h.pairwise (by decide) (by decide), h.rows (by decide), h.rows (by decide)⟩,
    by decide, by decide, by decide, by decide, fun i j _ _ m => (List.not_mem_nil m), fun i j hi _ => ?_, fun i g j hi hg hj => ?_⟩
  · have : t = 0 := by
      have e : (31 : Word).toNat / 2 ^ 5 % 2 ^ 5 + 1 = 1 := rfl
      omega
    subst this
    exact h.readable (descriptor_rows hi).1 (descriptor_rows hi).2
  · have e : spa.toNat = 0x1C000000 := rfl
    exact h.readable (by omega) (by omega)
  · exact h.readable (descriptor_rows hi).1 (descriptor_rows hi).2
  · exact h.readable (by omega) (by omega)

/-- Launches of the factorisation words, at their first and their last step. -/
def factorLaunches : List (Launch × Bool × Bool × List Word) :=
  [(launch (.flu true) [0x4000, 0x10_0000_0004, spa] true, false, false, []), (launch (.fchol false) [0x4000, 0x4_0000_0001, spa] true, false, false, []),
    (launch (.fqr true) [0x4000, 0x20_0000_4001, spa, pa1] true, true, false, [pa1]),
    (launch (.ftrsl false) [0x4000, 0x0010_0010_0204_0004, spa, pa2] true, false, true, [pa2]),
    ({ launch (.ftrsu true) [0x4000, 0x0010_0010_0304_0004, spa, pa2] true with prog := 3 }, false, true, [pa2]),
    ({ launch (.fapplyq false) [0x4000, 0x0010_0010_0004_0804, spa, pa1, pa2] true with prog := 3 }, true, true, [pa1, pa2])]
/-- The arrays of such a launch. -/
def arraysOf (q : Launch × Bool × Bool × List Word) : ByteRows :=
  let w := q.1.vals.getD 1 0
  let n := w.toNat % 2 ^ 7
  let m := if q.2.1 then w.toNat / 2 ^ 8 % 2 ^ 7 else n
  pitched spa m (w.toNat / 2 ^ 32 % 2 ^ 16) (4 * n) ++ (if q.2.1 then [(pa1.toNat, 4 * n)] else []) ++
    (if q.2.2.1 then pitched pa2 m (w.toNat / 2 ^ 48) (4 * (w.toNat / 2 ^ 16 % 2 ^ 7)) else [])

theorem witness_LaunchesHaveTheirEffect_factor :
    ∀ q ∈ factorLaunches, let w := q.1.vals.getD 1 0
      q.1.vals = 0x4000 :: w :: spa :: q.2.2.2 ∧ q.1.ended = false ∧ 1 ≤ w.toNat % 2 ^ 7 ∧ w.toNat % 2 ^ 7 ≤ 64 ∧ q.1.prog < w.toNat % 2 ^ 7 ∧
      (q.2.1 = true → w.toNat % 2 ^ 7 ≤ w.toNat / 2 ^ 8 % 2 ^ 7 ∧ w.toNat / 2 ^ 8 % 2 ^ 7 ≤ 64) ∧ w.toNat / 2 ^ 16 % 2 ^ 7 ≤ 64 ∧
      OwnRows (queueOf 0 []) 0 (arraysOf q) ∧ (arraysOf q).Pairwise (RowsApart (queueOf 0 []) 0) ∧
      ∀ r ∈ arraysOf q, ∀ j < r.2, spBad (queueOf 0 []) 0 (r.1 + j) = false := by
  intro q hq
  have h := pad_queue 0 []
  have c : ∀ q ∈ factorLaunches, let w := q.1.vals.getD 1 0
      (q.1.vals = 0x4000 :: w :: spa :: q.2.2.2 ∧ q.1.ended = false ∧ 1 ≤ w.toNat % 2 ^ 7 ∧ w.toNat % 2 ^ 7 ≤ 64 ∧ q.1.prog < w.toNat % 2 ^ 7 ∧
      (q.2.1 = true → w.toNat % 2 ^ 7 ≤ w.toNat / 2 ^ 8 % 2 ^ 7 ∧ w.toNat / 2 ^ 8 % 2 ^ 7 ≤ 64) ∧ w.toNat / 2 ^ 16 % 2 ^ 7 ≤ 64) ∧
      Inside (arraysOf q) ∧ Spread (arraysOf q) := by decide
  obtain ⟨⟨c1, c2, c3, c4, c5, c6, c7⟩, c8, c9⟩ := c q hq
  exact ⟨c1, c2, c3, c4, c5, c6, c7, h.rows c8, h.pairwise c8 c9, h.clean_rows c8⟩

/-- A tree at a page of die 0, whose root's last word is broken. -/
def treed : State := words (queueOf 3 []) [(0x3F_0218, 0x20000_00000000)]
def treeWalk : Launch := launch .xknn [0x4000, pa1, spa, 0x2000_0200, 0x2000_0300, 0x10_0001_0001] true
/-- The root, read. -/
def rootRead : Walking × Words32 := (travRead 0 (treed, treeWalk.order) 0x2000_0200 32).toOption.getD ((treed, treeWalk.order), [])

theorem pad_treed : Pad treed := ⟨rfl, by unfold spSize; rw [show (getSlot treed 0).partw = 0x01010101 from rfl]; decide, rfl⟩
theorem pad_read : Pad rootRead.1.1 := ⟨by decide +kernel, by decide +kernel, by decide +kernel⟩
theorem root_read : travRead 0 (treed, treeWalk.order) (0x2000_0200 + .ofNat 64 (32 * 0)) 32 = .ok rootRead :=
  ok_get (travRead 0 (treed, treeWalk.order) 0x2000_0200 32) ((treed, treeWalk.order), []) (by decide +kernel)

/-- One query, whose walk ends at its root. -/
theorem witness_LaunchesHaveTheirEffect_traversal :
    OwnRows treed 0 [(spa.toNat, 32 * 1)] ∧ (∀ j < 32 * 1, spBad treed 0 (spa.toNat + j) = false) ∧
    (let slot (i : Nat) : Nat := littleEndian 4 (fun b => spGet treed 0 (spa.toNat + 32 * 0 + 4 * i + b))
     WalkStep 0 .xknn 0x2000_0200 0x2000_0300 slot 1 ⟨(treed, treeWalk.order), [0], ⟨[], false, false, false, false⟩⟩
      ⟨rootRead.1, [], ⟨[], false, false, true, true⟩⟩) ∧ OwnRows rootRead.1.1 0 [(pa1.toNat + 0x10 * 0, 8)] := by
  have e : spa.toNat = 0x1C000000 := rfl
  have b : 2 ^ 17 ≤ rootRead.2.getD 7 0 := by decide +kernel
  refine ⟨pad_treed.rows (by decide), fun j hj => pad_treed.unpoisoned (by omega) (by omega), ⟨0, [], rootRead.2, rootRead.1, rfl, root_read, ?_⟩,
    pad_read.rows (by decide)⟩
  exact ⟨fun _ => rfl, fun n => absurd (.inl b) n, fun n => absurd (.inl b) n, fun n => absurd (.inl b) n⟩

/-- A translation of the traversal stream. -/
abbrev treePage (s : State) : Except FCode (State × Leaf) := streamTranslate s 0 4 0x2000_0200 .read true
def onTree (s : State) : State × Leaf := (treePage s).toOption.getD (base, ⟨0, 0, 0⟩)
def stainedTree : State := { treed with poison := [0x3F_021F] }

/-- A tree that no page holds, a node that one does, and a node with a poisoned byte. -/
theorem witness_LaunchesHaveTheirEffect_reads :
    (∃ f, streamTranslate treed 0 4 0x6000_0000 .read true = .error f) ∧
    (∃ e, travRead 0 (treed, treeWalk.order) (0x6000_0000 + .ofNat 64 (32 * 0)) 32 = .error e) ∧
    (treePage treed = .ok (onTree treed) ∧ (getSlot treed 0).deterministic = false ∧ isHost (onTree treed).2.pa = false ∧ (onTree treed).1.poison = [] ∧
      (onTree treed).1.log = []) ∧
    (treePage stainedTree = .ok (onTree stainedTree) ∧ (onTree stainedTree).2.pa + 31 ∈ (onTree stainedTree).1.poison ∧
      ∀ i < 31, (onTree stainedTree).2.pa + i ∉ (onTree stainedTree).1.poison) := by
  refine ⟨⟨_, error_get _ (0, 0) (by decide +kernel)⟩, ⟨_, error_get _ ((treed, treeWalk.order), 0, 0) (by decide +kernel)⟩,
    ⟨ok_get _ _ (by decide +kernel), by decide +kernel, by decide +kernel, by decide +kernel, by decide +kernel⟩,
    ok_get _ _ (by decide +kernel), by decide +kernel, by decide +kernel⟩

theorem witness_LaunchEventsFollowTheRules_places :
    -- a plan of each copy word
    (∀ q ∈ [(Instr.cpy1d true true, [(0x4000 : Word), spa, spa, 1]), (.cpy2d true false, [0x4000, spa, 0, 0x1_0000_0001, 0]),
      (.cpyt true, [0x4000, 0x05_0001, 1, spa, 32]), (.cpyt false, [0x4000, 0x05_0001, 1, spa, 32]), (.cpytb 0 false, [0x4000, 0x05_0001, 1, spa, 0x20_0000_0001]),
      (.cpytb 0 true, [0x4000, 0x05_0001, 1, spa, 0x20_0000_0001]), (.cpyg true true, [0x4000, spa, spa, spa, 0x1_0000_0001, 0]),
      (.cpys true true, [0x4000, spa, spa, spa, 0x1_0000_0001, 0])], (copyPlan (queueOf 2 []) 0 q.1 q.2 [0]).toBool = true) ∧
    (tileNamed (queueOf 2 []) 0 0x05_0001 1).toBool = true ∧
    -- a byte of memory that translates, one that does not, and one of scratchpad
    (∃ s1 f, streamTranslate (queueOf 2 []) 0 3 0x2000_0000 .read true = .ok (s1, f) ∧ f.pa < 2 ^ 43 ∧ f.pa ∉ s1.poison) ∧
    (∃ f, translateAs (queueOf 2 []) (coreOf 0) 3 0 (ctxL1 (queueOf 2 []) 0) 0x6000_0000 .read = .error f) ∧
    (spBad (queueOf 2 []) 0 spa.toNat = false ∧ spAt (queueOf 2 []) 0 spa.toNat ≠ none) := by
  refine ⟨by decide +kernel, by decide +kernel, ⟨_, _, ok_get _ (base, ⟨0, 0, 0⟩) (by decide +kernel), by decide +kernel, by decide +kernel⟩,
    ⟨_, error_get _ (0, 0) (by decide +kernel)⟩, by decide +kernel⟩

/-- A launch that faults while its stream is held for another. -/
theorem witness_LaunchEventsFollowTheRules_parked :
    let l := launch (.vmov 0) [0x4000, 1, spa, spa] true
    let s := modSlot (queueOf 1 [l]) 0 (fun x => { x with spPoison := [0], engs := x.engs.set 1 { x.engs[(1 : Fin 4)] with held := true } })
    MayEnd s 0 1 0 l ∧ (getEng s 0 1).held = true ∧ ∃ s1 fl l1 f, launchEffect s 0 1 l = .fault s1 fl l1 f := by
  refine ⟨⟨by decide +kernel, by decide +kernel, by decide +kernel, by decide +kernel, ?_⟩, by decide +kernel, effect_fault _ (by decide +kernel)⟩
  intro st h
  cases h

/-! Commands. -/

/-- The base with a context 5 that runs no job beside context 0, and node 3, without contexts, below the root. -/
def twoContexts : State :=
  { base with contexts := base.contexts ++ [Context.new 5 0 false none 0x10_0000 0x200_0000 0 0], regions := (3, { Region.root with parent := 0 }) :: base.regions }
/-- With words in memory from 0x70_0000 on. -/
def block (s : State) (l : List Nat) : State := words s (l.zipIdx.map fun p => (0x70_0000 + 8 * p.2, p.1))
/-- Block words of a node that inherits all but its parent, its role and its share of a plank. -/
def node (n parent role pls : Nat) : List Nat :=
  [n + parent * 2 ^ 16 + 0xFF00_00FF_0000_0000 + role * 2 ^ 48, 2 ^ 64 - 1, 0xFFFF_FFFF + pls * 2 ^ 32, 2 ^ 64 - 1, 2 ^ 64 - 1] ++ List.replicate 11 0
/-- The base with its context on node 2, a node of role 2 beside node 1 of role 1. -/
def roles : State :=
  { base with contexts := [Context.new 0 2 true none 0x10_0000 0 0 0],
              regions := [(1, { Region.root with parent := 0, role := 1 }), (2, { Region.root with parent := 0, role := 2 }), (0, Region.root)] }

/-- A queue's entry that is being completed. -/
def ringed : State := { queue0 with agenda := [], curCmd := some 0 }

theorem witness_CommandsFollowTheRules_completion :
    base.curCmd = none ∧ ∃ g, readRing { ringed with curCmd := none, cmdWait := none } 0 = some g ∧ ringed.curCmd = some 0 ∧ g.irq = false ∧
      MemoryCanonical ringed ∧ (∀ a ∈ [g.entry g.head + 8, g.header + 16, g.header + 32], paOk ringed a = true) ∧
      (g.entry g.head + 16 ≤ g.header ∨ g.header + 64 ≤ g.entry g.head) :=
  ⟨rfl, ⟨0x40_0000, 0x41_0000, 2, false, 0, 1⟩, by decide +kernel, by decide +kernel, by decide +kernel, by unfold MemoryCanonical; decide +kernel,
    by decide +kernel, by decide +kernel⟩

theorem witness_CommandsFollowTheRules_contexts :
    -- CREATE_CONTEXT: a context that exists, one that is being invalidated, one too many, a save area that is misaligned, and two that are created
    (findCtx base 0 ≠ none ∧ feature base 3 = true) ∧ (findCtx base 1 = none ∧ (1 : Ctx) ∈ ({ base with invalidating := [1] } : State).invalidating) ∧
    (256 ≤ ({ base with contexts := List.replicate 256 (Context.new 0 0 true none 0 0 0 0) } : State).contexts.length) ∧
    (base.contexts.length < 256 ∧ (1 : Ctx) ∉ base.invalidating ∧ findRegion base 0 ≠ none ∧ hasChild base 0 = false ∧ (0x1000 : Word).toNat % 8192 ≠ 0) ∧
    ((0x40_0000 : Word).toNat % 8192 = 0 ∧ isLpddr base (0x40_0000 : Word).toNat = true ∧ isLpddr base ((0x40_0000 : Word).toNat + 0x17_FFFF) = true) ∧
    (findCtx roles 1 = none ∧ roles.contexts.length < 256 ∧ findRegion roles 1 ≠ none ∧ hasChild roles 1 = false ∧ partnerOk roles 1 0 = true) ∧
    -- DESTROY_CONTEXT
    findCtx twoContexts 5 ≠ none ∧ ∀ m, ¬ RunsJobOf twoContexts m 5 := by
  refine ⟨by decide +kernel, by decide +kernel, by decide +kernel, by decide +kernel, by decide +kernel, by decide +kernel, by decide +kernel, fun m => ?_⟩
  have h : ∀ m, ((getSlot twoContexts m).job.all fun j => decide (j.ctx ≠ 5)) = true := by decide +kernel
  rintro ⟨j, hj, e⟩
  have := h m
  rw [hj] at this
  simp [e] at this

theorem some_get {α : Type} (x : Option α) (d : α) (h : x.isSome = true) : x = some (x.getD d) := by
  cases x with
  | none => cases h
  | some => rfl

/-- The bytes that a command finds at 0x70_0000. -/
abbrev found (s : State) (n : Nat) : Bytes := (physBytes s 0x70_0000 n).getD []

/-- Block words of the root, with the flags of a trace at 0x78_0000. -/
def flagged (flags : Nat) : List Nat :=
  [0xFFFF * 2 ^ 16 + 0xFF00_00FF_0000_0000 - 0xFC_0000_0000 + flags * 2 ^ 40, 2 ^ 64 - 1, 0xFFFF_FFFF + 100 * 2 ^ 32, 0x78_0000, 0x1000] ++ List.replicate 11 0

theorem witness_CommandsFollowTheRules_regions :
    ({ base with host := { base.host with rwOnce := 0xE } } : State).host.rwOnce.getLsbD 0 = false ∧
    -- a node whose block names another, one that a busy subtree keeps from changing, one that changes
    (∃ bs, physBytes (block base (node 1 0 1 0xFFFF)) 0x70_0000 128 = some bs ∧ bytesVal (bs.take 2) ≠ 0 ∧ MemoryCanonical (block base (node 1 0 1 0xFFFF))) ∧
    (∃ bs, physBytes (block base (node 0 0xFFFF 1 0xFFFF)) 0x70_0000 128 = some bs ∧ blockOk bs (regionOf bs) = true ∧ bytesVal (bs.take 2) = 0 ∧
      parentOk (block base (node 0 0xFFFF 1 0xFFFF)) 0 (regionOf bs) = true ∧ feature base 1 = true ∧ feature base 7 = true ∧
      quietChange (findRegion (block base (node 0 0xFFFF 1 0xFFFF)) 0) (regionOf bs) = true ∧
      subtreeBusy (block base (node 0 0xFFFF 1 0xFFFF)) 0 = true) ∧
    (let s := block { base with slots := State.reset.slots } (node 0 0xFFFF 1 100)
      ∃ bs, physBytes s 0x70_0000 128 = some bs ∧ blockOk bs (regionOf bs) = true ∧ bytesVal (bs.take 2) = 0 ∧ parentOk s 0 (regionOf bs) = true ∧
      s.host.rwOnce.getLsbD 0 = true ∧ MemoryCanonical s ∧ feature s 1 = true ∧ feature s 7 = true ∧
      subtreeBusy s 0 = false) ∧
    -- nodes that begin to record, and to replay
    (∀ q ∈ [((0x10 : Nat), 2), (0x40, 3)], let s := block { base with slots := State.reset.slots } (flagged q.1)
      (physBytes s 0x70_0000 128).isSome = true ∧ blockOk (found s 128) (regionOf (found s 128)) = true ∧ bytesVal ((found s 128).take 2) = 0 ∧
      parentOk s 0 (regionOf (found s 128)) = true ∧ subtreeBusy s 0 = false ∧ setsFlag s 0 q.2 = false ∧
      let new : State := { s with regions := tableSet s.regions 0 (regionOf (found s 128)) }
      setsFlag new 0 q.2 = true ∧ recordsAt new 0 = decide (q.2 = 2) ∧ paOk s (effTrbase new 0 + 8) = true) ∧
    -- a node that is deleted
    (twoContexts.host.rwOnce.getLsbD 0 = true ∧ findRegion twoContexts 3 ≠ none ∧ hasChild twoContexts 3 = false ∧ hasContext twoContexts 3 = false) := by
  unfold MemoryCanonical
  exact ⟨by decide +kernel, ⟨_, some_get _ [] (by decide +kernel), by decide +kernel⟩, ⟨_, some_get _ [] (by decide +kernel), by decide +kernel⟩,
    ⟨_, some_get _ [] (by decide +kernel), by decide +kernel⟩, by decide +kernel, by decide +kernel⟩

/-- A layout record in memory. -/
def recorded (l : Layout) : State := block (tensors []) (l.toList.map BitVec.toNat)
/-- The record that SET_LAYOUT takes from the bytes it finds. -/
def layoutIn (s : State) : Layout := Vector.ofFn (fun j : Fin 8 => wordAt (found s 64) j.val)

theorem witness_CommandsFollowTheRules_layouts :
    ∃ y, Live (tensors []) 0 y ∧
      (physBytes (recorded (tensor 0x50_0000)) 0x70_0000 64 = some (found (recorded (tensor 0x50_0000)) 64) ∧ layoutOk (layoutIn (recorded (tensor 0x50_0000))) = true ∧
        tableGet y.layouts 3 = none ∧ ∃ o, tableGet y.layouts 1 = some o ∧ Layout.gen (layoutIn (recorded (tensor 0x50_0000))) ≠ (Layout.gen o + 1) % 256) ∧
      (physBytes (recorded (Vector.replicate 8 0)) 0x70_0000 64 = some (found (recorded (Vector.replicate 8 0)) 64) ∧
        layoutOk (layoutIn (recorded (Vector.replicate 8 0))) = false) := by
  refine ⟨_, ⟨some_get _ (Context.new 0 0 true none 0 0 0 0) (by decide +kernel), by decide +kernel⟩,
    ⟨some_get _ [] (by decide +kernel), by decide +kernel, by decide +kernel, _, some_get _ (tensor 0) (by decide +kernel), by decide +kernel⟩,
    some_get _ [] (by decide +kernel), by decide +kernel⟩

/-- A pipeline of one stage on queue 0 with at most one slot, a pipeline of two such, and a plank of one window of the context in cluster 0. -/
def pipe1 : State := block base [1, 0x0100_0000]
def pipe2 : State := block base [2, 0x0100_0000, 0x0100_0000]
def plank1 : State := block base [1, 0x1_0000]
def plankPoor : State := { plank1 with regions := [(0, { Region.root with pls := 255 })] }
def plankSet : State := { plank1 with planks := [⟨0, [⟨0, true, 1⟩], 0, 0, [], 0, 0, [], none⟩] }
def stage : Stage := ⟨0, 1, 0, 1, 0⟩

theorem witness_CommandsFollowTheRules_pools :
    (∃ y, Live pipe1 0 y ∧
      (physBytes pipe1 0x70_0000 8 = some (found pipe1 8) ∧ physBytes pipe1 0x70_0008 8 = some ((physBytes pipe1 0x70_0008 8).getD []) ∧
        (wordAt (found pipe1 8) 0).toNat = 1 ∧ stageEntry (wordAt ((physBytes pipe1 0x70_0008 8).getD []) 0) = some stage ∧
        stageOf y 0 = none ∧ queued pipe1 0 0 = 0 ∧ ([stage].map Stage.mins).sum ≤ slotBudget pipe1 y)) ∧
    (physBytes pipe2 0x70_0000 8 = some (found pipe2 8) ∧ physBytes pipe2 0x70_0008 16 = some ((physBytes pipe2 0x70_0008 16).getD []) ∧
        (wordAt (found pipe2 8) 0).toNat = 2 ∧ (∀ j, j < 2 → stageEntry (wordAt ((physBytes pipe2 0x70_0008 16).getD []) j) = some stage) ∧
        ¬ ([stage, stage].map Stage.queue).Nodup) ∧
    (∀ s ∈ [plank1, plankPoor, plankSet], physBytes s 0x70_0000 8 = some (found s 8) ∧ (wordAt (found s 8) 0).toNat = 1 ∧
      physBytes s 0x70_0008 8 = some ((physBytes s 0x70_0008 8).getD []) ∧ windowEntry s (wordAt ((physBytes s 0x70_0008 8).getD []) 0) = some ⟨0, false, 1⟩ ∧
      dieLive s 0 = true) ∧
    sharesOk plankPoor [⟨0, false, 1⟩] = false ∧ sharesOk plank1 [⟨0, false, 1⟩] = true ∧ (∀ p ∈ plank1.planks, p.cluster ≠ 0) ∧
    sharesOk plankSet [⟨0, false, 1⟩] = true ∧ ∃ p ∈ plankSet.planks, p.cluster = 0 := by
  refine ⟨⟨_, ⟨some_get _ (Context.new 0 0 true none 0 0 0 0) (by decide +kernel), by decide +kernel⟩, by decide +kernel⟩, by decide +kernel, by decide +kernel,
    by decide +kernel, by decide +kernel, by decide +kernel, by decide +kernel, by decide +kernel⟩

/-- Slot 0 stopped with its record written at address 0, the record valid: control stream at 0x20_0008, tag register 5. -/
def halted (why : StopWhy) : State :=
  let s := modSlot base 0 (fun x => { x with stop := some ⟨why, none, false, true, none, false⟩ })
  words { s with contexts := s.contexts.map (fun y => { y with halted := decide (why = .halt) }) } [(0, 1), (40, 0x20_0008), (136, 5)]
/-- With a second context. -/
def halted2 : State := { halted .halt with contexts := (halted .halt).contexts ++ [Context.new 5 0 false none 0x10_0000 0x200_0000 0 0] }
def stopOf (s : State) : Stop := (getSlot s 0).stop.getD ⟨.halt, none, false, false, none, false⟩

theorem no_job_of {s : State} {c : Ctx} (h : ∀ m, ((getSlot s m).job.all fun j => decide (j.ctx ≠ c)) = true) (m : SlotId) : ¬ RunsJobOf s m c := by
  rintro ⟨j, hj, e⟩
  have := h m
  rw [hj] at this
  simp [e] at this

theorem job_of {s : State} {c : Ctx} {k : SlotId} (h : ((getSlot s k).job.any fun j => decide (j.ctx = c)) = true) : RunsJobOf s k c := by
  cases hj : (getSlot s k).job with
  | none => rw [hj] at h; cases h
  | some j => rw [hj] at h; exact ⟨j, hj, by simpa using h⟩

theorem live {s : State} {c : Ctx} (h : (findCtx s c).isSome = true) (hd : ((findCtx s c).getD (Context.new 0 0 true none 0 0 0 0)).dying = false) :
    ∃ y, Live s c y := ⟨_, some_get _ _ h, hd⟩

theorem witness_CommandsFollowTheRules_jobs :
    -- SUBMIT
    (let y : Context := Context.new 0 0 true none 0x10_0000 0 0 0;
      Live base 0 y ∧ (∃ e f, enterQueue (spawning 0x60_0000 0) y 0 0x60_0040 0 [] = .error e ∧ e = .fault f) ∧
      (∃ e, enterQueue { words (spawning 0x60_0000 0) [(0x60_0030, 0x3FC)] with host := { base.host with features := 0 } } y 0 0x60_0000 0 [] = .error e ∧
        decide (e = .feature) = true) ∧
      (∃ e, enterQueue (spawning 0x60_0000 256) y 0 0x60_0000 0 [] = .error e ∧ decide (e = .full) = true) ∧
      ∃ t m, enterQueue (spawning 0x60_0000 255) y 0 0x60_0000 0 [] = .ok (t, m)) ∧
    -- TLB_INVALIDATE
    base.lines = [] ∧ base.writeBacks = [] ∧
    -- RESUME
    (∃ y, Live base 0 y) ∧ Names 0 false 0 ∧ (getSlot base 0).stop = none ∧
    ((∃ y, Live halted2 5 y) ∧ Stopped halted2 0 (stopOf halted2) ∧ ¬ RunsJobOf halted2 0 5) ∧
    (Stopped (halted .fault) 0 (stopOf (halted .fault)) ∧ (stopOf (halted .fault)).why ≠ .ending ∧ RunsJobOf (halted .fault) 0 0 ∧
      draining (halted .fault) 0 = false ∧ MemoryCanonical (halted .fault)) ∧
    -- RESUME_ALL
    ((∃ y, Live base 0 y ∧ y.halted = false) ∧ ∃ y, Live (halted .halt) 0 y ∧ y.halted = true ∧
      ∀ m st, RunsJobOf (halted .halt) m 0 → (getSlot (halted .halt) m).stop = some st → st.why = .halt → Stopped (halted .halt) m st) ∧
    -- ABORT, ABORT_ALL
    ((∃ y, findCtx twoContexts 5 = some y) ∧ ¬ RunsJobOf twoContexts 0 5) ∧
    ((∃ y, findCtx base 0 = some y) ∧ base.curCmd = none ∧ RunsJobOf base 0 0 ∧ draining base 0 = false ∧ ∀ m, (getSlot base m).atStop = true) ∧
    -- RESET_PARTITION
    (dieLive { base with host := { base.host with features := 0xFE } } ((96 : SlotId).val / 48) = false ∧ Names 48 false 96) ∧
    (dieLive base ((0 : SlotId).val / 48) = true ∧ (getSlot base 0).job ≠ none) ∧ Names 0 true 1 ∧ (getSlot base 1).job = none := by
  refine ⟨⟨⟨by decide +kernel, by decide +kernel⟩, ?_, ?_, ?_, ⟨_, _, ok_get _ (base, 0) (by decide +kernel)⟩⟩, rfl, rfl, live (by decide +kernel) (by decide +kernel),
    by unfold Names; decide, by decide +kernel,
    ⟨live (by decide +kernel) (by decide +kernel), by unfold Stopped; decide +kernel, no_job_of (by decide +kernel) 0⟩,
    ⟨by unfold Stopped; decide +kernel, by decide +kernel, job_of (by decide +kernel), by decide +kernel, by unfold MemoryCanonical; decide +kernel⟩,
    ⟨⟨_, ⟨some_get _ (Context.new 0 0 true none 0 0 0 0) (by decide +kernel), by decide +kernel⟩, by decide +kernel⟩,
      _, ⟨some_get _ (Context.new 0 0 true none 0 0 0 0) (by decide +kernel), by decide +kernel⟩, by decide +kernel, fun m st _ hs _ => ?_⟩,
    ⟨⟨_, some_get _ (Context.new 0 0 true none 0 0 0 0) (by decide +kernel)⟩, no_job_of (by decide +kernel) 0⟩,
    ⟨⟨_, some_get _ (Context.new 0 0 true none 0 0 0 0) (by decide +kernel)⟩, rfl, job_of (by decide +kernel), by decide +kernel, by decide +kernel⟩,
    ⟨by decide +kernel, by unfold Names; decide⟩, by decide +kernel, by unfold Names; decide, by decide +kernel⟩
  · obtain ⟨e, he, hf⟩ := refusal_get (enterQueue (spawning 0x60_0000 0) (Context.new 0 0 true none 0x10_0000 0 0 0) 0 0x60_0040 0 [])
      (fun e => decide (e = .fault (0x05, 0x60_0040))) (by decide +kernel)
    exact ⟨e, _, he, of_decide_eq_true hf⟩
  · exact refusal_get _ _ (by decide +kernel)
  · exact refusal_get _ _ (by decide +kernel)
  · have h : ∀ m, ((getSlot (halted .halt) m).stop.all fun st => st.written && (recordWord (halted .halt) m 0).getLsbD 0) = true := by decide +kernel
    have := h m
    rw [hs] at this
    simp only [Option.all_some, Bool.and_eq_true] at this
    exact ⟨hs, this.1, this.2⟩

/-- A halted job in a module whose debug commands are open, and one whose control stream is over. -/
def opened : State := { halted .halt with host := { base.host with unlocked := true } }
def finished : State := modSlot opened 0 (fun x => { x with jend := true })
/-- The same with a page for a record that is poisoned. -/
def spoiled : State := { halted .fault with poison := [7] }
/-- What STEP runs first, of the control stream. -/
def stepping : State := setSlot opened 0 { ((getSlot opened 0).restored (recordWord opened 0)).stepFrom 0 with stop := none }

/-- A record that is good, and one whose eighth byte is not. -/
theorem witness_CommandsFollowTheRules_records :
    RecordClean (halted .fault) 0 ∧ RecordClean opened 0 ∧
    (Stopped spoiled 0 (stopOf spoiled) ∧ (stopOf spoiled).why ≠ .ending ∧ RunsJobOf spoiled 0 0 ∧ draining spoiled 0 = false ∧ saveAddr spoiled 0 + 7 ∈ spoiled.poison ∧
      (∀ m, m < 7 → saveAddr spoiled 0 + m ∉ spoiled.poison) ∧ ∀ j, (getSlot spoiled 0).job = some j → j.card.pnode = none) := by
  refine ⟨fun b _ _ => List.not_mem_nil, fun b _ _ => List.not_mem_nil,
    by unfold Stopped; decide +kernel, by decide +kernel, job_of (by decide +kernel), by decide +kernel, by decide +kernel, by decide +kernel, fun j hj => ?_⟩
  have : ((getSlot spoiled 0).job.map (fun j => j.card.pnode.isNone)) = some true := by decide +kernel
  rw [hj] at this
  simpa using this

/-- A load of context 0 on its way to host memory. -/
def waiting_ : State := at0 (fun x => { x with await := some (.hostRead 0x30_0000 0x800_0000_0000 8) })

theorem witness_CommandsFollowTheRules_invalidations :
    ∃ all byAsid byPage : Removal, [all, byAsid, byPage] = removalsOf 0x30_0000 (.tlbInvalidateAll 0x30_0000) (.tlbInvalidateAsid 0x30_0000) (.tlbInvalidatePage 0x30_0000) ∧
      ∀ p ∈ [all, byAsid, byPage], InFlight waiting_ p ∧ ¬ InFlight base p := by
  refine ⟨_, _, _, rfl, ?_⟩
  intro p hp
  have idle : ∀ k : SlotId, (getSlot base k).await = none := by decide +kernel
  have no : ¬ InFlight base p := by
    rintro ⟨k, va, pa, n, -, -, h | h⟩ <;> rw [idle k] at h <;> cases h
  refine ⟨⟨0, 0x30_0000, 0x800_0000_0000, 8, rfl, ?_, .inl rfl⟩, no⟩
  simp only [List.mem_cons, List.not_mem_nil, or_false] at hp
  rcases hp with rfl | rfl | rfl
  · trivial
  · decide +kernel
  · decide +kernel

theorem witness_CommandsFollowTheRules_debug :
    (∃ y, Live base 0 y) ∧ (Config.debugLock = true → ¬ DebugOpen base) ∧ DebugOpen opened ∧ (∃ y, Live opened 0 y) ∧
    ((∃ y, Live finished 0 y) ∧ DebugOpen finished ∧ finished.curCmd = none ∧ Stopped finished 0 (stopOf finished) ∧ (stopOf finished).why = .halt ∧ RunsJobOf finished 0 0 ∧
      streamOver (getSlot finished 0) 0 = true) ∧
    (opened.curCmd = none ∧ Stopped opened 0 (stopOf opened) ∧ (stopOf opened).why = .halt ∧ RunsJobOf opened 0 0 ∧
      streamOver (getSlot opened 0) 0 = false ∧ MayIssue stepping 0 0 ∧ ∃ t, Fetches { stepping with cur := ⟨0, 0⟩ } 0 0 t [0, 0, 0, 0, 0, 0, 0, 0]) := by
  refine ⟨live (by decide +kernel) (by decide +kernel), ?_, .inr rfl, live (by decide +kernel) (by decide +kernel),
    ⟨live (by decide +kernel) (by decide +kernel), .inr rfl, rfl, by unfold Stopped; decide +kernel, by decide +kernel, job_of (by decide +kernel), by decide +kernel⟩,
    rfl, by unfold Stopped; decide +kernel, by decide +kernel, job_of (by decide +kernel), by decide +kernel,
    may_issue (by decide +kernel) (by decide +kernel) (by decide +kernel) (by decide +kernel) (by decide +kernel),
    ⟨_, fetches _ _ _ (by decide +kernel) (by decide +kernel) (by decide +kernel) (by decide +kernel) (by decide +kernel) (by decide +kernel) (by decide +kernel)⟩⟩
  intro h
  rintro (h1 | h1)
  · rw [h] at h1; cases h1
  · exact absurd h1 (by decide +kernel)

/-! The host port, starts, supply and links. -/

/-- The base with host registers changed. -/
def hosted (f : HostRegs → HostRegs) : State := { base with host := f base.host }
/-- Context 0 has a queue of two entries at 0x41_0000, its header at 0x40_0000, with one entry in it. -/
def queue1 : State :=
  let s := words base [(0x40_0000, 0x41_0000), (0x40_0008, 1), (0x40_0018, 1)]
  { s with contexts := [Context.new 0 0 true none 0x10_0000 0 0 0x40_0000] }
def ring1 : Ring := ⟨0x40_0000, 0x41_0000, 2, false, 0, 1⟩
/-- A word of the control stream that waits for host memory. -/
def awaiting (a : Await) (i : Instr) : State := at0 (fun x => { x with await := some a, wait := some i })
/-- A frame of port 0 with one entry, and one that is answered at once. -/
def frame1 : T1Frame := ⟨false, 7, 1, 1, 1, none⟩
def frame2 : T1Frame := ⟨false, 8, 1, 0, 1, some [0x110]⟩

/-- An address of die 0 is behind no link. -/
theorem unstuck {s : State} {a : Nat} (h : homeOf a = 0) : ¬ Stuck s a := fun q => q.2.2.2 fun i h1 h2 => by
  rw [h] at h1 h2
  exact absurd h2 (Nat.not_lt.2 (Nat.zero_le i))

theorem witness_HostPortFollowsTheRules_waits :
    ({ base with paused := true } : State).paused = true ∧ base.paused = false ∧
    -- die 1 behind a link that is down: an address, and a queue
    Stuck base 0x10_0000_0000 ∧
    (let s := { words base [(0x10_0040_0000, 0x41_0000), (0x10_0040_0008, 1)] with contexts := [Context.new 0 0 true none 0x10_0000 0 0 0x10_0040_0000] }
      ∃ r, readRing s 1 = some r ∧ ¬ Linked s 0 (homeOf r.header)) := by
  refine ⟨rfl, rfl, ⟨by decide, by decide, by decide, fun h => ?_⟩, ⟨0x10_0040_0000, 0x41_0000, 2, false, 0, 0⟩, by decide +kernel, fun h => ?_⟩ <;>
    exact absurd (h 0 (by decide) (by decide)) (by decide +kernel)

theorem witness_HostPortFollowsTheRules_completions :
    -- no word waits for a read; the first does, with its bytes known; one waits for an atomic
    (MemoryCanonical base ∧ (∀ k, (getSlot base k).await = none) ∧ (2 ^ 43 ≤ 0x800_0000_0000 ∧ 0x800_0000_0000 + [1, 2].length ≤ 2 ^ 44) ∧
      ¬ (2 ^ 43 - 1 ≥ 2 ^ 43) ∧ 2 ^ 44 < 2 ^ 44 - 1 + [1, 2].length) ∧
    (let i : Instr := .ld g0 4 a0 0 0 0 false 0x800
      let s := awaiting (.hostRead 0x800 0x800_0000_0000 2) i
      First (Reads s 0x800_0000_0000 2) 0 ∧ First (fun k => ∃ m, Reads s 0x800_0000_0000 m k) 0 ∧ (getSlot s 0).wait = some i ∧ encode i ≠ none) ∧
    (let i : Instr := .aadd g0 4 a1 a2 3 0 0 1
      let s := awaiting (.hostAtomic 0x800 0x800_0000_0000 8) i
      First (fun k => ∃ va pa n, (getSlot s k).await = some (.hostAtomic va pa n)) 0 ∧ (getSlot s 0).wait = some i ∧ encode i ≠ none) := by
  unfold MemoryCanonical
  refine ⟨by decide +kernel, ⟨⟨⟨0x800, rfl⟩, fun j h => absurd h (Nat.not_lt_zero _)⟩, ⟨⟨2, 0x800, rfl⟩, fun j h => absurd h (Nat.not_lt_zero _)⟩, rfl, by decide +kernel⟩,
    ⟨⟨0x800, 0x800_0000_0000, 8, rfl⟩, fun j h => absurd h (Nat.not_lt_zero _)⟩, rfl, by decide +kernel⟩

theorem witness_HostPortFollowsTheRules_replies :
    -- the second frame is answered first; a frame whose commands have completed
    (let s : State := { queue1 with t1Frames := [frame1, frame2] };
      s.t1Frames = [frame1] ++ frame2 :: [] ∧ frameStatus s frame1 = none ∧ frameStatus s frame2 = some [0x110] ∧ readRing s frame1.queue = some ring1 ∧
      frame1.now = none) ∧
    (∀ g ∈ queue1.t1Frames, g.port = false → frameStatus queue1 g = none) := by
  refine ⟨by decide +kernel, fun g h => by cases h⟩

theorem witness_HostPortFollowsTheRules_registers :
    -- offsets of registers and of wide registers, and CTRL with GO and RST
    ((0x028 : BitVec 12).toNat ≠ 0x10 ∧ (∀ j, j < 6 → (0x028 : BitVec 12).toNat ≠ 0x140 + 8 * j) ∧ ∀ j, j < 12 → (0x028 : BitVec 12).toNat ≠ 0x240 + 8 * j) ∧
    ((0x168 : BitVec 12).toNat = 0x140 + 8 * 5 ∧ (0x298 : BitVec 12).toNat = 0x240 + 8 * 11 ∧ (0x170 : BitVec 12).toNat = 0x170 ∧
      (0x508 : BitVec 12).toNat = 0x508 ∧ (0x010 : BitVec 12).toNat = 0x10) ∧
    (∃ u, (if (3 : Word).getLsbD 0 then exec .ctrlGo (hosted fun h => { h with mode := 1 }) else .next base) = .next u) := by
  refine ⟨by decide, by decide, _, rfl⟩

theorem witness_HostPortFollowsTheRules_window :
    -- W2: inside and outside of LPDDR-6, and of the staging buffer
    (base.host.mode = 2 ∧ ¬ Stuck base 0x40_0000 ∧ isLpddr base 0x40_0000 = true ∧ isLpddr base (0x40_0000 + 3 - 1) = true ∧ isLpddr base (0x40_0000_0000) = false) ∧
    ((hosted fun h => { h with mode := 3 }).host.mode = 3 ∧ 2 ^ 22 - 4 + 4 ≤ 2 ^ 22 ∧ ¬ 2 ^ 22 - 4 + 5 ≤ 2 ^ 22 ∧
      Memory.wf (hosted fun h => { h with mode := 3 }).host.staging = true) ∧
    -- AtomicOps: aligned or not, on good bytes and on a poisoned one
    (0x40_0008 % 8 = 0 ∧ 0x40_0004 % 8 ≠ 0 ∧ (∀ j, j < 8 → 0x40_0008 + j ∉ base.poison) ∧ isLpddr base 0x40_0008 = true ∧
      0x40_0008 + 7 ∈ ({ base with poison := [0x40_000F] } : State).poison) ∧
    -- a tail within the ring, and too far
    (readRing queue1 1 = some ring1 ∧ MemoryCanonical queue1 ∧ Linked queue1 0 (homeOf ring1.header) ∧
      ¬ ring1.size < ((2 : Word).toNat % 2 ^ 32 + 2 ^ 32 - ring1.head) % 2 ^ 32 ∧ ring1.size < ((3 : Word).toNat % 2 ^ 32 + 2 ^ 32 - ring1.head) % 2 ^ 32 ∧
      readRing queue1 5 = none) := by
  unfold MemoryCanonical
  refine ⟨⟨by decide, unstuck (by decide), by decide, by decide, by decide⟩, by decide +kernel, by decide +kernel,
    ⟨by decide +kernel, by decide +kernel, fun i h1 h2 => absurd h2 (Nat.not_lt_zero i), by decide +kernel⟩⟩

theorem witness_HostPortFollowsTheRules_frames :
    -- a frame of another kind; one that is not protected; one that is replayed; to no queue; to a queue without room; to one with room
    (some (1 : BitVec 16) ≠ some queue1.host.etype ∧ queue1.host.mode = 2 ∧ feature queue1 6 = true) ∧
    (∃ l, ({ queue1 with t1Seq := #v[some 9, none] } : State).t1Seq[(0 : Fin 2)] = some l ∧ (9 : BitVec 32).toNat ≤ l.toNat) ∧
    (¬ ∃ l, queue1.t1Seq[(0 : Fin 2)] = some l ∧ (9 : BitVec 32).toNat ≤ l.toNat) ∧
    (readRing queue1 5 = none ∧ readRing queue1 1 = some ring1 ∧ ring1.size < ring1.count + 2 ∧ ring1.count + 1 ≤ ring1.size ∧
      (∀ e ∈ [List.replicate 8 (0 : Word)], e.length = 8) ∧ (ring1.ring + 64 * ring1.size ≤ ring1.header ∨ ring1.header + 32 ≤ ring1.ring)) := by
  refine ⟨by decide +kernel, ⟨9, by decide⟩, ?_, by decide +kernel⟩
  rintro ⟨l, h, -⟩
  cases h

/-- A job of slot 0 stopped for a supply pause, its record not yet written, and written. -/
def paused (written : Bool) : State :=
  words { modSlot base 0 (fun x => { x with stop := some ⟨.pause, none, false, written, none, false⟩ }) with paused := true } [(0, 1), (40, 0x20_0008), (136, 5)]

theorem witness_StartsAndSupplyFollowTheRules_starts :
    -- a start under way, one that has failed, and a module that is up, in negotiation and in recovery
    (State.reset.host.starting = true ∧ State.reset.host.retry = false ∧ (hosted fun h => { h with retry := true }).host.retry = true ∧
      State.reset.agenda = [] ∧ base.host.starting = false ∧ base.host.retry = false ∧ base.host.mode = 2 ∧ base.paused = false ∧ (paused true).paused = true ∧
      (hosted fun h => { h with mode := 1 }).host.mode = 1 ∧ (hosted fun h => { h with mode := 3 }).host.mode = 3 ∧ MemoryCanonical base) ∧
    -- a step that fails; one that a warm start skips, which does not; the last, with and without an alarm before
    (Fails { State.reset.host with step := 4 } ⟨some 4, false, 0, 0⟩ ∧ ¬ Fails { State.reset.host with step := 4, warm := true } ⟨some 4, false, 0, 0⟩ ∧
      (∀ n : BitVec 8, n ≠ 2 → ¬ Fails { State.reset.host with step := n } ⟨none, true, 0, 0⟩) ∧
      State.reset.host.alatch = false ∧ (hosted fun h => { h with alatch := true }).host.alatch = true) ∧
    -- the third start that fails, and the one before
    (3 ≤ ((2 : BitVec 8) + 1).toNat ∧ ((1 : BitVec 8) + 1).toNat < 3) := by
  unfold MemoryCanonical
  refine ⟨by decide +kernel, ⟨.inl (by decide), ?_, fun n hn => ?_, by decide, by decide⟩, by decide⟩
  · rintro (⟨-, -, h⟩ | ⟨h, -⟩)
    · exact h ⟨rfl, rfl⟩
    · exact absurd h (by decide)
  · rintro (⟨h, -⟩ | ⟨h, -⟩)
    · cases h
    · exact hn h

theorem witness_StartsAndSupplyFollowTheRules :
    -- a supply pause: a slot with a job that runs, and one without; the recovery of a job whose record is written, or not
    ((getSlot base 0).stop = none ∧ (∃ j, (getSlot base 0).job = some j ∧ j.started = true) ∧ (getSlot base 1).job = none) ∧
    (∀ w, (getSlot (paused w) 0).stop = some ⟨.pause, none, false, w, none, false⟩ ∧ (getSlot (paused w) 1).stop = none ∧ MemoryCanonical (paused w) ∧
      RecordClean (paused w) 0 ∧ ∀ m : SlotId, m ≠ 0 → ∀ st, (getSlot (paused w) m).stop = some st → st.why ≠ .pause) ∧
    -- a record with a poisoned byte
    (saveAddr { paused true with poison := [8191] } 0 + 8191 ∈ ({ paused true with poison := [8191] } : State).poison ∧
      (∀ m, m < 8191 → saveAddr { paused true with poison := [8191] } 0 + m ∉ ({ paused true with poison := [8191] } : State).poison) ∧
      ∀ j, (getSlot (paused true) 0).job = some j → j.card.pnode = none) ∧
    -- links up and down, and one that takes no part
    ((hosted fun h => { h with linkUp := 1 }).host.linkUp.getLsbD 0 = true ∧ (hosted fun h => { h with linkUp := 1 }).host.linkUp.getLsbD 1 = false ∧
      feature (hosted fun h => { h with features := 0xFE }) 0 = false) ∧
    -- an alarm's source; the counts after which an alarm follows
    (1 ≤ (4 : BitVec 8).toNat ∧ (4 : BitVec 8).toNat ≤ 4 ∧ ¬ (1 ≤ (5 : BitVec 8).toNat ∧ (5 : BitVec 8).toNat ≤ 4)) ∧
    ((hosted fun h => { h with badResponses := 4 }).host.badResponses = 4 ∧ base.host.badResponses ≠ 4) ∧
    (hosted fun h => { h with mode := 3, badImages := 2 }).host.badImages = 2 ∧ base.host.badImages ≠ 2 := by
  unfold MemoryCanonical
  have s0 : saveAddr { paused true with poison := [8191] } 0 = 0 := by decide +kernel
  refine ⟨⟨by decide +kernel, Option.isSome_iff_exists.mp (by decide +kernel) |>.imp fun j h => ⟨h, ?_⟩, by decide +kernel⟩, fun w => ?_,
    ⟨by rw [s0]; decide, fun m hm h => ?_, fun j hj => ?_⟩, by decide +kernel, by decide, by decide +kernel⟩
  · have : ((getSlot base 0).job.all Job.started) = true := by decide +kernel
    rw [h] at this
    exact this
  · have h : ∀ m : SlotId, m ≠ 0 → (getSlot (paused w) m).stop = none := by cases w <;> decide +kernel
    refine ⟨by cases w <;> decide +kernel, h 1 (by decide), by cases w <;> decide +kernel, fun b _ _ => List.not_mem_nil, fun m hm st hs => ?_⟩
    rw [h m hm] at hs
    cases hs
  · rw [s0, Nat.zero_add] at h
    exact absurd (List.mem_singleton.mp h) (by omega)
  · have : ((getSlot (paused true) 0).job.map (fun j => j.card.pnode.isNone)) = some true := by decide +kernel
    rw [hj] at this
    simpa using this

/-! Scheduler and other events. -/

/-- Job n of queue q of context 0; the card is that of the base's job. -/
def jobOf (q n : Nat) : Job := { oneJob with queue := q, seq := n }
/-- The context of a state, by its number 0. -/
def ctx0 (s : State) : Context := (findCtx s 0).getD (Context.new 0 0 true none 0 0 0 0)
/-- The context has tensors; jobs stand in its queues. -/
def queuedJobs (js : List Job) : State := { tensors [] with jobs := js }
/-- A job that waits for a tile, written so far or not, or of an old generation, or of no tensor. -/
def waitsFor (t : TileName) : Job := { jobOf 1 2 with waits := [t] }
def readied : State := { queuedJobs [waitsFor tile1] with ready := [⟨0, 0, tile1, [], [(0x30_0000, 1)]⟩] }

/-- What the tiles of `readied` are. -/
theorem readied_tiles : Written (ctx0 readied) tile1 ∧ Ready readied (ctx0 readied) 0 tile1 ∧
    ¬ Ready readied (ctx0 readied) 0 { tile1 with coords := [0, 0, 0, 0] } ∧
    ¬ Written (ctx0 readied) { tile1 with gen := 4 } ∧ ¬ Written (ctx0 readied) { tile1 with handle := 9 } := by
  have l1 : tableGet (ctx0 readied).layouts 1 = some (tensor 0x50_0000) := by decide +kernel
  have l9 : tableGet (ctx0 readied).layouts 9 = none := by decide +kernel
  refine ⟨⟨tensor 0x50_0000, by decide +kernel⟩, .inl ⟨_, List.mem_singleton.mpr rfl, rfl, rfl⟩, ?_, ?_, ?_⟩
  · rintro (⟨e, he, -, h⟩ | ⟨r, hr, h⟩)
    · cases List.mem_singleton.mp he
      exact absurd h (by decide +kernel)
    · cases l1.symm.trans hr
      exact absurd h (by decide +kernel)
  · rintro ⟨r, hr, -, h⟩
    cases l1.symm.trans hr
    exact absurd h (by decide +kernel)
  · rintro ⟨r, hr, -⟩
    cases l9.symm.trans hr

/-- A job with no other before it in its queue may be admitted. -/
theorem first_may {s : State} {j : Job} (hs : served s j.ctx = true) (hf : ((liveJobs s j.ctx).all fun k => !(k.queue == j.queue && decide (k.seq < j.seq))) = true)
    (ha : j.after = []) : MayBeAdmitted s j := by
  refine ⟨hs, fun k hk hq hl => ?_, fun n hn => by rw [ha] at hn; cases hn⟩
  have := List.all_eq_true.mp hf k hk
  simp [hq, hl] at this

theorem witness_SchedulerAndEventsFollowTheRules_Passes :
    -- the first of its queue; one behind it
    MayBeAdmitted (queuedJobs [jobOf 1 2]) (jobOf 1 2) ∧ Passes (queuedJobs [jobOf 1 2]) (jobOf 1 2) none ∧
    (hoodAdmits (queuedJobs [jobOf 1 2, jobOf 1 3]) (ctx0 (queuedJobs [])) (jobOf 1 3) = true ∧
      ¬ MayBeAdmitted (queuedJobs [jobOf 1 2, jobOf 1 3]) (jobOf 1 3)) ∧
    -- a tile of an old generation, of no tensor, and one that is ready
    (∀ t, ¬ Written (ctx0 readied) t → ∃ f, Passes { readied with jobs := [waitsFor t] } (waitsFor t) (some f)) ∧
    Passes readied (waitsFor tile1) none := by
  have tiles := readied_tiles
  have may : MayBeAdmitted (queuedJobs [jobOf 1 2]) (jobOf 1 2) := first_may (by decide +kernel) (by decide +kernel) rfl
  refine ⟨may, ⟨_, some_get _ (ctx0 base) (by decide +kernel), may, .inl ⟨fun _ h => absurd h List.not_mem_nil, fun _ h => absurd h List.not_mem_nil, rfl⟩⟩,
    ⟨by decide +kernel, fun h => ?_⟩, fun t ht => ?_, ctx0 readied, by decide +kernel, first_may (by decide +kernel) (by decide +kernel) rfl,
    .inl ⟨fun t h => ?_, fun t h => ?_, rfl⟩⟩
  · have := (h.2.1 (jobOf 1 2) (by decide +kernel) rfl (by decide)).1
    cases this
  · exact ⟨_, ctx0 readied, by rfl, first_may (by rfl) (by rfl) rfl, .inr ⟨[], t, [], rfl, fun _ h => absurd h List.not_mem_nil, ht, rfl⟩⟩
  · cases List.mem_singleton.mp h; exact tiles.1
  · cases List.mem_singleton.mp h; exact tiles.2.1

/-- Job 2 of queue 1 stands alone in its context's queues, whose node has flags, and a trace at 0x30_0000 of n bytes: words of it are given. -/
def traced (flags : BitVec 8) (n : Word) (l : List (Nat × Nat)) : State :=
  { words (queuedJobs [jobOf 1 2]) l with regions := [(0, { Region.root with flags := flags, trbase := 0x30_0000, trsize := n })] }
/-- A trace that names the job for slot k, with a CSUM; one that names job 1 of queue 0, which has left it; and one at its end. -/
def names (k sum : Nat) : List (Nat × Nat) := [(0x30_0000, 1), (0x30_0040, 2 + 2 ^ 60), (0x30_0048, k / 2 + k % 2 * 2 ^ 7 + sum * 2 ^ 32)]
def namesGone : State :=
  let s := traced 0x7F 96 [(0x30_0000, 1), (0x30_0040, 1)]
  { modSlot s 0 (fun x => { x with job := none }) with contexts := s.contexts.map fun y => { y with nextSeq := 3 } }

/-- One trace node. -/
theorem traced_nodes : recordNodes (traced 0xDF 96 []) 0 = [0] ∧ (∀ l, replayNodes (traced 0x7F 96 l) 0 = [0]) ∧
    recordNodes (traced 0xDF 64 []) 0 = [0] := ⟨by decide +kernel, fun _ => by rfl, by decide +kernel⟩

theorem witness_SchedulerAndEventsFollowTheRules_Traces :
    -- a trace with room for an entry, and without
    (64 + 16 * ((tableGet (traced 0xDF 96 []).traceNo 0).getD 0 + 1) ≤ effTrsize (traced 0xDF 96 []) 0 ∧
      effTrsize (traced 0xDF 64 []) 0 < 64 + 16 * ((tableGet (traced 0xDF 64 []).traceNo 0).getD 0 + 1) ∧
      MemoryCanonical (traced 0xDF 64 []) ∧ paOk (traced 0xDF 64 []) (effTrbase (traced 0xDF 64 []) 0) = true) ∧
    -- it names the job for slot 5; another CSUM; a slot that is none
    NamesFor (traced 0x7F 96 (names 5 0)) 0 (jobOf 1 2) 5 ∧
    (Diverges (traced 0x7F 96 (names 5 1)) 0 (jobOf 1 2) ∧ Diverges (traced 0x7F 96 (names 254 0)) 0 (jobOf 1 2)) ∧
    -- it is at its end; it names a job that has left its queue; it names one that is yet to come
    Ends (traced 0x7F 96 []) 0 (jobOf 1 2) ∧ Ends namesGone 0 (jobOf 1 2) ∧
    HoldsBack (traced 0x7F 96 [(0x30_0000, 1), (0x30_0040, 9)]) 0 (jobOf 1 2) ∧
    (∃ j ∈ (traced 0x7F 96 (names 5 0)).jobs, j.admitted = false ∧ MayLeave (traced 0x7F 96 (names 5 0)) [] j) := by
  refine ⟨by unfold MemoryCanonical; decide +kernel, by unfold NamesFor NamedBy CanTake; decide +kernel, ?_, .inl (by decide +kernel), .inr ⟨by unfold NamedBy; decide +kernel, .inr ⟨by
    unfold NamedBy; decide +kernel, _, some_get _ (ctx0 base) (by decide +kernel), by decide +kernel⟩⟩, ⟨?_, by unfold NamedBy; decide +kernel⟩,
    jobOf 1 2, by decide +kernel, rfl, ⟨none, _, some_get _ (ctx0 base) (by decide +kernel), first_may (by decide +kernel) (by decide +kernel) rfl,
      .inl ⟨fun _ h => absurd h List.not_mem_nil, fun _ h => absurd h List.not_mem_nil, rfl⟩⟩, fun n hn h => ?_, fun h => ?_⟩
  · unfold Diverges NamesFor NamedBy CanTake; decide +kernel
  · rintro (h | ⟨-, ⟨m, hm, hn, -⟩ | ⟨-, y, hy, -, hl, -⟩⟩)
    · exact absurd h (by decide +kernel)
    · cases List.mem_singleton.mp hm
      exact absurd hn (by unfold NamedBy; decide +kernel)
    · have : ((findCtx (traced 0x7F 96 [(0x30_0000, 1), (0x30_0040, 9)]) (.ofNat 12 (traceWord (traced 0x7F 96 [(0x30_0000, 1), (0x30_0040, 9)]) 0 0 / 2 ^ 48))).all
        fun y => decide (y.nextSeq ≤ 9)) = true := by decide +kernel
      rw [hy] at this
      exact absurd (of_decide_eq_true this) (Nat.not_le.2 hl)
  · have : n = 0 := List.mem_singleton.mp (traced_nodes.2.1 _ ▸ hn)
    subst this
    exact h.2 (by unfold NamedBy; decide +kernel)
  · obtain ⟨-, n, -, hn⟩ := h
    cases hn

/-- A provisional job whose hood word names no sequence. -/
def homeless : Job := { jobOf 1 2 with card := { fetchCard with flags := 0 } }

theorem witness_SchedulerAndEventsFollowTheRules_Admission :
    (∀ j ∈ (tensors []).jobs, j.admitted = false → ¬ MayLeave (tensors []) [] j) ∧
    -- one may leave, and is admitted, or dropped
    (∀ j ∈ ([jobOf 1 2, homeless] : List Job), j ∈ (queuedJobs [j]).jobs ∧ j.admitted = false ∧ MayLeave (queuedJobs [j]) [] j ∧
      findCtx (queuedJobs [j]) j.ctx = some (ctx0 (queuedJobs [j]))) ∧
    hoodAdmits (queuedJobs []) (ctx0 (queuedJobs [])) (jobOf 1 2) = true ∧ hoodAdmits (queuedJobs []) (ctx0 (queuedJobs [])) homeless = false ∧
    -- a tile that is ready, and its edge
    (∃ e ∈ readied.ready, e.ctx = (waitsFor tile1).ctx ∧ e.tile ∈ (waitsFor tile1).waits ∧ e.edge ≠ []) := by
  have none0 : replayNodes (queuedJobs []) 0 = [] := by decide +kernel
  refine ⟨fun j hj => absurd hj List.not_mem_nil, fun j hj => ?_, by decide +kernel, by decide +kernel, _, List.mem_singleton.mpr rfl, by decide⟩
  have c : findCtx (queuedJobs [j]) 0 = some (ctx0 (queuedJobs [j])) := some_get _ (ctx0 base) (by rfl)
  have h0 : ∀ n, n ∉ replayNodes (queuedJobs [j]) 0 := fun n hn => by
    have : replayNodes (queuedJobs [j]) 0 = [] := none0
    rw [this] at hn; cases hn
  simp only [List.mem_cons, List.not_mem_nil, or_false] at hj
  rcases hj with rfl | rfl <;>
    exact ⟨List.mem_singleton.mpr rfl, rfl, ⟨⟨none, _, c, first_may (by decide +kernel) (by decide +kernel) rfl,
      .inl ⟨fun _ h => absurd h List.not_mem_nil, fun _ h => absurd h List.not_mem_nil, rfl⟩⟩, fun n hn => absurd hn (h0 n), fun h => h.1.elim fun n hn => h0 n hn.1⟩, c⟩

/-- The admitted job, with partition widths that fit. -/
def placed : Job := { jobOf 0 2 with admitted := true }
/-- Slot 2 holds the context's residue, and no job; every other slot has one. -/
def placing : State :=
  let s := queuedJobs [placed]
  modSlot { s with slots := Vector.replicate 192 (getSlot s 0) } 2 (fun x => { x with resident := some 0, job := none })
/-- All slots have a job. -/
def crowded : State :=
  let s := queuedJobs [placed]
  { s with slots := Vector.replicate 192 (getSlot s 0) }

/-- A slot with a job takes no other. -/
theorem taken {s : State} {j : Job} {k : SlotId} (h : (getSlot s k).job.isSome = true) : ¬ FitsIn s j k := fun hf => by
  rw [hf.1] at h; cases h

theorem witness_SchedulerAndEventsFollowTheRules_Placement :
    (placed ∈ placing.jobs ∧ placed.admitted = true ∧ served placing 0 = true ∧ FitsIn placing placed 2 ∧
      (∀ m, FitsIn placing placed m → m = 2 ∨ Ahead placing placed 2 m) ∧ placed.traceSlot = []) ∧
    (∀ i ∈ placing.jobs, i ≠ placed → False) ∧
    -- nothing fits
    (placed ∈ crowded.jobs ∧ ∀ m, ¬ FitsIn crowded placed m) ∧
    -- a plank with room, and without; stages and budgets
    (HasRoom ⟨0, [⟨0, true, 5000⟩], 0, 0, [], 0, 0, [], none⟩ 0 placed ∧ ¬ HasRoom ⟨0, [⟨0, true, 1⟩], 0, 0, [], 0, 0, [], none⟩ 5 placed) ∧
    -- a class for a slot's state, and a preferred die
    ([placing, base].map (classOf · placed 2) = [1, 2] ∧ OnHome placing { placed with foot := [⟨0x30_0000, 8, 0⟩] } 2) := by
  have others : ∀ m : SlotId, m ≠ 2 → (getSlot placing m).job.isSome = true := by decide +kernel
  refine ⟨⟨by decide +kernel, rfl, by decide +kernel, ?_, fun m hm => .inl ?_, rfl⟩, fun i hi h => h (List.mem_singleton.mp hi), ⟨by decide +kernel, fun m => ?_⟩,
    ⟨?_, ?_⟩, by decide +kernel, ?_⟩
  · refine ⟨by decide +kernel, by decide +kernel, by decide +kernel, ⟨_, some_get _ (ctx0 base) (by decide +kernel), by decide +kernel, fun p i st h => ?_⟩,
      fun p h => ?_, fun m hm => absurd hm List.not_mem_nil⟩
    · have : stageOf ((findCtx placing placed.ctx).getD (ctx0 base)) placed.queue = none := by decide +kernel
      rw [this] at h; cases h
    · have : placing.planks = [] := by decide +kernel
      rw [this] at h; cases h
  · exact Decidable.by_contra fun h => taken (others m h) hm
  · exact taken ((by decide +kernel : ∀ m : SlotId, (getSlot crowded m).job.isSome = true) m)
  · exact ⟨⟨0, true, 5000⟩, ⟨rfl, fun v hv h => by cases List.mem_singleton.mp hv; cases h⟩, by decide +kernel⟩
  · rintro ⟨w, ⟨hw, -⟩, h, -⟩
    cases hw
    exact absurd h (by decide)
  · exact ⟨_, _, _, rfl, ok_get _ ⟨⟨0, 0, 0⟩, false, none, none⟩ (by decide +kernel), by decide +kernel⟩

/-- Slot 0 with a job that has not started, with a value carried in s5; and one that faults at its start. -/
def unstarted (f : Option (BitVec 8 × Word)) : State :=
  at0 (fun x => { x with job := some { placed with carried := [⟨5, 77, false, false⟩], startFault := f } })

theorem witness_SchedulerAndEventsFollowTheRules_Start :
    (∃ j, (getSlot (unstarted none) 0).job = some j ∧ j.started = false ∧ served (unstarted none) j.ctx = true ∧ j.startFault = none ∧ ∃ c ∈ j.carried, c.reg ≠ 0 ∧
      ∀ d ∈ j.carried, d.reg = c.reg → d = c) ∧
    (∃ y, findCtx (unstarted none) 0 = some y) ∧
    (∃ j, (getSlot (unstarted (some (0x0A, 1))) 0).job = some j ∧ j.started = false ∧ served (unstarted (some (0x0A, 1))) j.ctx = true ∧ j.startFault = some (0x0A, 1)) ∧
    ∃ j, (getSlot base 0).job = some j ∧ j.started = true :=
  ⟨⟨{ placed with carried := [⟨5, 77, false, false⟩], startFault := none }, by decide +kernel⟩, ⟨_, some_get _ (ctx0 base) (by decide +kernel)⟩,
    ⟨{ placed with carried := [⟨5, 77, false, false⟩], startFault := some (0x0A, 1) }, by decide +kernel⟩,
    _, some_get _ placed (by decide +kernel), by decide +kernel⟩

/-- Slot 0 whose control stream has executed JEND. -/
def ended : State := at0 (fun x => { x with jend := true })

theorem witness_SchedulerAndEventsFollowTheRules_Retire :
    (∃ j y, (getSlot base 0).job = some j ∧ findCtx base j.ctx = some y ∧ (getSlot base 0).jend = false) ∧
    (∃ j y, (getSlot ended 0).job = some j ∧ findCtx ended j.ctx = some y ∧ paOk ended y.status = true ∧ paOk ended (y.status + 8) = true ∧ j.started = true) ∧
    ended.paused = false ∧ (let x := getSlot ended 0; x.stop = none ∧ x.jend = true ∧ x.await = none ∧
      (∀ e : Fin 4, ((x.engs[e]).started = true → (x.engs[e]).arrived = true) ∧ (x.engs[e]).launches = []) ∧
      (∀ c : Fin 2, ¬ Busy x.chans[c] ∧ (x.chans[c]).halt = none) ∧ x.watch = 0) ∧ MemoryCanonical ended := by
  unfold Busy MemoryCanonical
  exact ⟨⟨_, _, some_get _ placed (by decide +kernel), some_get _ (ctx0 base) (by decide +kernel), by decide +kernel⟩,
    ⟨_, _, some_get _ placed (by decide +kernel), some_get _ (ctx0 base) (by decide +kernel), by decide +kernel⟩, by decide +kernel⟩

/-- Context 0 with a pipeline of queues 0 and 1, each with n slots allotted, jobs queued in queue 1 alone; at its 4096th cycle. -/
def stageOn (q n : Nat) : Stage := ⟨q, 1, 0, 200, n⟩
def piped (n m : Nat) : State :=
  { queuedJobs [jobOf 1 2] with contexts := (tensors []).contexts.map fun y => { y with pipes := [[stageOn 0 n, stageOn 1 m]] } }

theorem witness_SchedulerAndEventsFollowTheRules_Allocator :
    ({ piped 1 0 with dcc := 1 } : State).dcc.toNat % 4096 ≠ 0 ∧ (piped 1 0).dcc.toNat % 4096 = 0 ∧ (piped 1 0).paused = false ∧
    (∃ y, (piped 1 0).contexts[0]? = some y ∧ y.pipes = [[stageOn 0 1, stageOn 1 0]]) ∧
    -- a stage takes, with and without a slot to spare; nothing is queued
    (∀ above : Stage → Stage → Bool, (∀ z, above z z = false) →
      Picked [stageOn 0 1, stageOn 1 0] (fun z => z.allot < z.maxs ∧ 0 < queued (piped 1 0) 0 z.queue) above 1 ∧
      Given [stageOn 0 192, stageOn 1 0] (fun z => z.mins < z.allot ∧ runningOf (piped 192 0) 0 z.queue < z.allot) above 0) ∧
    ([stageOn 0 1, stageOn 1 0].map Stage.allot).sum < slotBudget (piped 1 0) (ctx0 (piped 1 0)) ∧
    slotBudget (piped 192 0) (ctx0 (piped 192 0)) ≤ ([stageOn 0 192, stageOn 1 0].map Stage.allot).sum ∧
    (∀ z ∈ [stageOn 0 1, stageOn 1 0], ¬ (z.allot < z.maxs ∧ 0 < queued (tensors []) 0 z.queue)) := by
  refine ⟨by decide +kernel, by decide +kernel, by decide +kernel, ⟨_, some_get _ (ctx0 base) (by decide +kernel), by decide +kernel⟩, fun above ha => ⟨?_, ?_⟩,
    by decide +kernel, by decide +kernel, by decide +kernel⟩
  · refine ⟨stageOn 1 0, rfl, by decide +kernel, fun j z hj hz => ?_⟩
    match j with
    | 0 => cases hj; exact absurd hz (by decide +kernel)
    | 1 => cases hj; exact ⟨ha _, fun h => absurd h (by decide)⟩
    | j + 2 => cases hj
  · refine ⟨stageOn 0 192, rfl, by decide +kernel, fun j z hj hz => ?_⟩
    match j with
    | 0 => cases hj; exact ⟨ha _, fun h => absurd h (by decide)⟩
    | 1 => cases hj; exact absurd hz (by decide +kernel)
    | j + 2 => cases hj

/-- A plank in cluster 1 whose only window, open or of the context, runs since cycle 0; what replaces it. -/
def plankOf (o : Bool) (next : Option (List Window)) : Plank := ⟨1, [⟨0, o, 100⟩], 0, 0, [], 0, 0, [], next⟩
def planked (p : Plank) (now : Word) : State := { base with planks := [p], dcc := now }

theorem witness_SchedulerAndEventsFollowTheRules_Plank :
    (∀ p now, p ∈ (planked p now).planks ∧ ∀ q ∈ (planked p now).planks, q.cluster = p.cluster → q = p) ∧
    (∀ o next, (plankOf o next).windows[(plankOf o next).cur]? = some ⟨0, o, 100⟩) ∧ base.paused = false ∧
    -- its time has passed; it has not, and a job of it runs; its context is gone; its budget is spent
    WindowEnded (planked (plankOf true none) 100) (plankOf true none) ∧
    (∀ o next, ¬ WindowEnded (planked { plankOf o next with jobs := [(0, 1)] } 5) { plankOf o next with jobs := [(0, 1)] }) ∧
    WindowVoid base { plankOf false none with windows := [⟨9, false, 100⟩] } ∧ WindowVoid base { plankOf true none with openDebt := 100 } ∧
    ¬ WindowVoid base (plankOf true none) ∧
    -- what follows it
    (∀ next ∈ [none, some [], some [⟨0, true, 5⟩]], (plankOf true next).next = next) := by
  refine ⟨fun p now => ⟨List.mem_singleton.mpr rfl, fun q hq _ => List.mem_singleton.mp hq⟩, fun o next => rfl, by decide +kernel, ?_, fun o next h => ?_, ?_, ?_, ?_, fun _ _ => rfl⟩
  · refine ⟨fun m j h => List.not_mem_nil, .inr (.inl fun w hw => ?_)⟩
    cases hw; decide
  · have : ∃ j, (getSlot (planked { plankOf o next with jobs := [(0, 1)] } 5) 0).job = some j ∧ j.ctx = 0 ∧ j.seq = 1 := by
      exact ⟨_, some_get (getSlot base 0).job placed (by decide +kernel), by decide +kernel⟩
    obtain ⟨j, hj, h1, h2⟩ := this
    exact h.1 0 j hj (List.mem_singleton.mpr (by rw [h1, h2]))
  · intro w hw; cases hw; exact .inl ⟨rfl, by decide +kernel⟩
  · intro w hw; cases hw; exact .inr (by decide)
  · intro h
    rcases h ⟨0, true, 100⟩ rfl with h | h
    · cases h.1
    · exact absurd h (by decide)

/-- The control stream of slot 0 waits in TAGWAITANY for a tag that is set, with its watch at n, of a limit of 5. -/
def watched (n : Nat) : State :=
  at0 (fun x => { regs [1] x with wait := some (.tagwaitany g0 4 a1), tags := 1, watch := n, job := x.job.map fun j => { j with limit := 5 } })

theorem witness_SchedulerAndEventsFollowTheRules_Stream :
    (∃ j, (getSlot (watched 5) 0).job = some j ∧ j.started = true ∧ (getSlot (watched 5) 0).stop = none ∧ (getSlot (watched 5) 0).watch ≤ j.limit ∧
      j.limit < (getSlot (watched 6) 0).watch) ∧ base.paused = false ∧
    NotProvisional { watched 6 with cur := ⟨0, 0⟩ } ∧ (getSlot (watched 6) 0).jend = false ∧
    -- streams at a waiting word, at another, and where nothing is taken again
    WaitsAt (watched 0) 0 0 (some (.tagwaitany g0 4 a1)) ∧ MayRetest (watched 0) 0 0 ∧ encode (.tagwaitany g0 4 a1) ≠ none ∧
    WaitsAt base 0 0 none ∧ ¬ MayRetest ended 0 0 ∧
    (getSlot base 1).job = none := by
  have job : ∀ n, ∃ j, (getSlot (watched n) 0).job = some j ∧ j.started = true ∧ j.limit = 5 := fun n => by
    refine ⟨_, some_get _ placed (by rfl), by rfl, by rfl⟩
  obtain ⟨j, hj, h1, h2⟩ := job 5
  obtain ⟨i, hi, h3, h4⟩ := job 0
  refine ⟨⟨j, hj, h1, by rfl, by rw [h2]; decide +kernel, by rw [h2]; decide +kernel⟩, by rfl, fun j hj => ?_, by rfl,
    ⟨fun _ => by rfl, fun p h => by cases h⟩, ⟨by rfl, ⟨i, hi, h3⟩, by rfl, fun _ => by decide +kernel, fun p h => by cases h⟩, by decide +kernel,
    ⟨fun _ => by decide +kernel, fun p h => by cases h⟩, fun h => ?_, by decide +kernel⟩
  · have h : ((curSlot { watched 6 with cur := ⟨0, 0⟩ }).job.all fun j => j.card.pnode.isNone) = true := by decide +kernel
    rw [hj] at h
    simpa using h
  · have := (h.2.2.2.1 rfl).1
    exact absurd this (by decide +kernel)

/-- A fault of engine stream 1, and of a channel. -/
def fault1 : FaultInfo := ⟨0x07, 3, 2, 0x30_0000, 0, none, none⟩
/-- Slot 0 with a fault pending in stream e, its handler enabled or not, in one or not. -/
def pending (e : Fin 4) (vec : Word) (hnd over_ : Bool) : State :=
  at0 (fun x => { x with engs := x.engs.set e { EngStream.reset with started := true, pending := some fault1 }, trapVec := vec, hnd := hnd, jend := over_ })

theorem witness_SchedulerAndEventsFollowTheRules_Handler :
    (getSlot base 0).nextPending = none ∧
    (∀ e : Fin 4, (getSlot (pending e 0x20_0001 false false) 0).nextPending = some fault1 ∧ HandlerReady (getSlot (pending e 0x20_0001 false false) 0) ∧
      ((getSlot (pending e 0 false false) 0).engs[e]).pending = some fault1 ∧ (∀ i : Fin 4, i.val < e.val → ((getSlot (pending e 0 false false) 0).engs[i]).pending = none) ∧
      ∀ c : Fin 2, ((getSlot (pending e 0 false false) 0).chans[c]).pending = none) ∧
    (∀ hnd over_ en : Bool, let x := getSlot (pending 2 (if en then 0x20_0001 else 0) hnd over_) 0
      x.nextPending = some fault1 ∧ x.stop = none ∧ x.await = none ∧ x.job ≠ none) := by
  unfold HandlerReady
  exact ⟨by decide +kernel, by decide +kernel, by decide +kernel⟩

def overrun : FaultInfo := ⟨0x12, 1000, 0, 0x20_0000, 0, none, none⟩
/-- Slot 0 on its way to a stop point, for a reason; and with a started launch, so that it is not there yet. -/
def stopping (why : StopWhy) (f : Option FaultInfo) : State :=
  at0 (fun x => { x with stop := some ⟨why, f, false, false, none, decide (f = some overrun)⟩ })
def notYet : State :=
  modSlot (stopping .halt none) 0 (fun x => { x with engs := x.engs.set 1 { running [] with launches := [launch (.vmov 0) [0x4000, 1, spa, spa] true] } })
/-- The same with a poisoned byte in its record, of a job that is provisional or not. -/
def recordSpoilt (n : Option Nat) : State :=
  let s := modSlot (stopping .halt none) 0 (fun x => { x with job := x.job.map fun j => if n = none then j else { j with card := { j.card with flags := 0x28 } } })
  { s with poison := [saveAddr s 0 + 5] }

theorem witness_SchedulerAndEventsFollowTheRules_Stop :
    (getSlot base 1).job = none ∧ (getSlot base 0).stop = none ∧ (getSlot notYet 0).atStop = false ∧
    (∀ w ∈ [(StopWhy.ending, none), (.halt, none), (.pause, none), (.fault, some fault1), (.fault, some overrun)],
      (∃ j, (getSlot (stopping w.1 w.2) 0).job = some j ∧ j.seq < 2 ^ 48) ∧
      (getSlot (stopping w.1 w.2) 0).stop = some ⟨w.1, w.2, false, false, none, decide (w.2 = some overrun)⟩ ∧
      (getSlot (stopping w.1 w.2) 0).atStop = true ∧ runningFactor (getEng (stopping w.1 w.2) 0 0) = none ∧ RecordClean (stopping w.1 w.2) 0 ∧
      MemoryCanonical (stopping w.1 w.2) ∧ draining (stopping w.1 w.2) 0 = false) ∧
    -- a record with a poisoned byte, of a job that is provisional or not
    (∀ n ∈ [none, some 5], (∃ j, (getSlot (recordSpoilt n) 0).job = some j ∧ j.card.pnode = n) ∧ saveAddr (recordSpoilt n) 0 + 5 ∈ (recordSpoilt n).poison ∧
      (∀ m, m < 5 → saveAddr (recordSpoilt n) 0 + m ∉ (recordSpoilt n).poison)) := by
  unfold MemoryCanonical
  refine ⟨by decide +kernel, by decide +kernel, by decide +kernel, fun w hw => ?_, fun n hn => ?_⟩
  · have clean : ∀ b, saveAddr (stopping w.1 w.2) 0 ≤ b → b < saveAddr (stopping w.1 w.2) 0 + 8192 → b ∉ (stopping w.1 w.2).poison :=
      fun b _ _ => List.not_mem_nil
    simp only [List.mem_cons, List.not_mem_nil, or_false] at hw
    rcases hw with rfl | rfl | rfl | rfl | rfl <;>
      exact ⟨⟨_, some_get _ placed (by decide +kernel), by decide +kernel⟩, by decide +kernel, by decide +kernel, by decide +kernel, clean,
        by decide +kernel, by decide +kernel⟩
  · simp only [List.mem_cons, List.not_mem_nil, or_false] at hn
    rcases hn with rfl | rfl <;>
      exact ⟨⟨_, some_get _ placed (by decide +kernel), by decide +kernel⟩, by decide +kernel, by decide +kernel⟩

/-- A segment overrun in slot 0, in the fault domain of node 0; and with a job of the domain in slot 1 that is at no stop point. -/
def domain : State := { stopping .fault (some overrun) with regions := [(0, { Region.root with flags := 0xFD })] }
def domainRuns : State := modSlot domain 1 (fun _ => getSlot notYet 0)

theorem inside_of {s : State} {k : SlotId} {n : Nat} (h : ((getSlot s k).job.any fun i => inSubtree s i.ctx n) = true) :
    ∃ i, (getSlot s k).job = some i ∧ inSubtree s i.ctx n = true := by
  cases hj : (getSlot s k).job with
  | none => rw [hj] at h; cases h
  | some i => rw [hj] at h; exact ⟨i, rfl, h⟩

theorem witness_SchedulerAndEventsFollowTheRules_Drain :
    (∀ s ∈ [domain, domainRuns], (∃ j, (getSlot s 0).job = some j ∧ j.seq < 2 ^ 48) ∧ (getSlot s 0).stop = some ⟨.fault, some overrun, false, false, none, true⟩ ∧
      domainOf s (getSlot s 0).ctx = some 0 ∧ ∃ i, (getSlot s 0).job = some i ∧ inSubtree s i.ctx 0 = true) ∧
    (∀ m, (getSlot domain m).atStop = true) ∧
    ((∃ i, (getSlot domainRuns 1).job = some i ∧ inSubtree domainRuns i.ctx 0 = true) ∧ (getSlot domainRuns 1).atStop = false) := by
  refine ⟨fun s hs => ?_, by decide +kernel, inside_of (by decide +kernel), by decide +kernel⟩
  simp only [List.mem_cons, List.not_mem_nil, or_false] at hs
  rcases hs with rfl | rfl <;>
    exact ⟨⟨_, some_get _ placed (by decide +kernel), by decide +kernel⟩, by decide +kernel, by decide +kernel, inside_of (by decide +kernel)⟩

/-- An entry waits for a fault queue of 16 entries at 0x50_0000, or of an unusable size, that is full or not. -/
def faulted (size : Word) (tail : Word) : State :=
  { base with fqWait := [(3, 4)], host := { base.host with fqbase := 0x50_0000, fqsize := size, fqhead := 0xFFFF_FFFF, fqtail := tail } }

theorem witness_SchedulerAndEventsFollowTheRules_FaultQueue :
    base.fqWait = [] ∧ (∀ n, 4 ≤ n → n ≤ 16 → (faulted 24 0).host.fqsize.toNat ≠ 2 ^ n) ∧ (faulted 16 0).host.fqsize.toNat = 2 ^ 4 ∧
    2 ^ 4 ≤ ((faulted 16 15).host.fqtail - (faulted 16 15).host.fqhead).toNat % 2 ^ 32 ∧
    (let h := (faulted 16 0).host; (h.fqtail - h.fqhead).toNat % 2 ^ 32 < 2 ^ 4 ∧ paOk (faulted 16 0) (h.fqbase.toNat + h.fqtail.toNat % h.fqsize.toNat * 16) = true ∧
      paOk (faulted 16 0) (h.fqbase.toNat + h.fqtail.toNat % h.fqsize.toNat * 16 + 8) = true) ∧ MemoryCanonical (faulted 16 0) := by
  refine ⟨by decide +kernel, ?_, by decide +kernel, by decide +kernel, by decide +kernel, by unfold MemoryCanonical; decide +kernel⟩
  have h : ∀ n, n < 17 → (faulted 24 0).host.fqsize.toNat ≠ 2 ^ n := by decide +kernel
  exact fun n _ hn => h n (by omega)

/-- A readiness entry, and a core whose first TLB and whose walk cache hold a page. -/
def struck : State :=
  { readied with lines := [line1], cores := base.cores.set 0 ⟨[], Vector.replicate 5 [⟨0, 3, 0x20, 0x20_001F, 0x11_0000⟩], [⟨0, 1, 0x20, 0x20_0001, 0x11_0000⟩], []⟩ }
/-- Slot 0 with a byte in the holding buffer of its channel 0, and one of its copy stream's launch. -/
def holding : Slot :=
  { getSlot base 0 with chans := (getSlot base 0).chans.set 0 { (getSlot base 0).chans[(0 : Fin 2)] with buffer := some (7, false) }
                        engs := (getSlot base 0).engs.set 2 { running [] with launches := [{ launch (.cpyfill true) [0x4000, spa, 0, 1] true with buffer := some (8, false) }] } }

theorem witness_SchedulerAndEventsFollowTheRules_SoftError :
    (∀ c e, (∀ n, SoftTarget.memory 0 n ∉ ([.icache c, .tlb c e, .walkCache c] : List SoftTarget))) ∧
    (isLpddr base 0x40_0000 && isLpddr base (0x40_0000 + 8 - 1)) = true ∧ 0 + 8 ≤ spSize (getSlot (pad []) 0) ∧
    0 + 8 ≤ pwCkg (getSlot (snapshot []) 0).granules * 16384 ∧ struck.lines = [] ++ line1 :: [] ∧ struck.ready = [] ++ ⟨0, 0, tile1, [], [(0x30_0000, 1)]⟩ :: [] ∧
    ((struck.cores[(0 : Fin 96)]).tlbs)[(2 : EngId)] ≠ [] ∧ (struck.cores[(0 : Fin 96)]).walks ≠ [] ∧
    0 + 8 ≤ pwRfg (0x0101_0101 : Word) * 16384 ∧ 0 + 8 ≤ pwAcg (0x0101_0101 : Word) * 2048 ∧
    ((holding.chans[(0 : Fin 2)]).buffer = some (7, false) ∧ (holding.engs[(2 : Fin 4)]).launches[0]?.bind Launch.buffer = some (8, false)) :=
  ⟨fun c e n => by simp, by decide +kernel, by decide +kernel, by decide +kernel, rfl, rfl, by decide +kernel, by decide +kernel, by decide, by decide, by decide +kernel⟩

/-- A write of die 1 that die 0 does not see yet, and one that must wait for it. -/
def write1 : Write := ⟨3, ⟨48, 0, 0, 1⟩, [(0x40_0000, 5)], #v[0, 0, 0, 0], [], none, [1]⟩
def write2 : Write := ⟨4, ⟨48, 0, 0, 1⟩, [(0x40_0000, 6)], #v[4, 4, 4, 4], [], none, [1]⟩
/-- A release of slot 0's control stream to all. -/
def rel0 : Release := ⟨⟨0, 0, 0, 1⟩, 11, Known.empty⟩
/-- A tile on its way to memory, and one on its way to the cache. -/
def away : State := { tensors [] with log := [write1, write2], writes := 5, host := { base.host with linkUp := 1 }, writeBacks := [⟨0, tile1, 0, [(0x50_0020, 9)]⟩], fills := [⟨0, tile1, 1⟩, ⟨0, { tile1 with handle := 9 }, 1⟩] }
/-- A request in slot 0's die unit, its word waiting; and an RDYSET at another die. -/
def asked (i : Instr) (u : UnitKind) (l : List Word) : State :=
  { modSlot (pad l) 0 (fun x => { x with await := some (.unit 0 u), wait := some i }) with requests := [⟨0, u, 0, i, l, Order.empty⟩] }
def replied (r : UnitReply) : State := modSlot (asked (.txvocabClose g0 4 a2 a1) .text [0, 0]) 0 (fun x => { x with reply := some r })
def setting (a : Word) (t : TileName) : State :=
  { modSlot (tensors [a, 1]) 0 (fun x => { x with await := some (.rdyset 4), wait := some (.rdyset g0 4 a1 a2) }) with remoteReady := [⟨1, 0, 0, a, t, 0, rel0, [(0x30_0000, 1)]⟩] }
/-- The state in which the request of `asked` runs. -/
def taking (s : State) : State := { s with requests := [] }

theorem witness_SchedulerAndEventsFollowTheRules_Arrival :
    -- remote writes: one that may arrive, and one that waits for it
    ((away.log.filter (fun w => !w.dies.contains 0))[0]? = some write1 ∧ (away.log.filter (fun w => !w.dies.contains 0))[1]? = some write2 ∧
      ((∀ z ∈ away.log, z.id = write1.id ∨ (0 : Die) ∈ z.dies ∨ write1.clock[dieOf z.by_.slot] ≤ z.id) ∧ Linked away (dieOf write1.by_.slot) 0) ∧
      ¬ (∀ z ∈ away.log, z.id = write2.id ∨ (0 : Die) ∈ z.dies ∨ write2.clock[dieOf z.by_.slot] ≤ z.id) ∧
      (away.log.filter (fun w => !w.dies.contains 0))[2]? = none) ∧
    -- a line of a tile that goes, one that comes, and one of no tensor
    (away.writeBacks = [] ++ ⟨0, tile1, 0, [(0x50_0020, 9)]⟩ :: [] ∧ MemoryCanonical away ∧ ([((0x50_0020 : Nat), (9 : Byte))].map Prod.fst).Nodup) ∧
    (away.fills[0]? = some ⟨0, tile1, 1⟩ ∧ findLayout away 0 1 = some (tensor 0x50_0000) ∧ tileDevice away 0 (tensor 0x50_0000) tile1.coords 1 = false ∧ (tensor 0x50_0000).gen = tile1.gen ∧
      (∃ t l, fillTile { away with fills := away.fills.eraseIdx 0 } 0 (tensor 0x50_0000) tile1 1 = .line t l ∧ (fun _ _ => true) t l = true) ∧
      findLayout away 0 9 = none) ∧
    -- requests, and their replies
    (takeRequest (asked (.txvocabClose g0 4 a2 a1) .text [0, 0]) 0 .text = some (⟨0, .text, 0, .txvocabClose g0 4 a2 a1, [0, 0], Order.empty⟩,
        taking (asked (.txvocabClose g0 4 a2 a1) .text [0, 0])) ∧
      (∃ t v, runUnit (taking (asked (.txvocabClose g0 4 a2 a1) .text [0, 0])) 0 0 Order.empty (serveRequest ⟨0, .text, 0, .txvocabClose g0 4 a2 a1, [0, 0], Order.empty⟩) = .value t v ∧
        (fun _ _ => true) t v = true) ∧
      (getSlot (taking (asked (.txvocabClose g0 4 a2 a1) .text [0, 0])) 0).reply = none ∧
      (∃ t f, runUnit (taking (asked (.smpstart g0 4 a1) .sampling [0x6000_0000])) 0 0 Order.empty (serveRequest ⟨0, .sampling, 0, .smpstart g0 4 a1, [0x6000_0000], Order.empty⟩) = .fault t f)) ∧
    (∀ r ∈ [UnitReply.value 7, .fault fault1], (getSlot (replied r) 0).await = some (.unit 0 .text) ∧ (getSlot (replied r) 0).reply = some r ∧
      (getSlot (replied r) 0).wait = some (.txvocabClose g0 4 a2 a1) ∧ unitFields (.txvocabClose g0 4 a2 a1) = some (4, [a2, a1])) ∧
    -- RDYSET of a tile, and of a generation that has passed
    ((setting 0x05_0001 tile1).remoteReady = [] ++ ⟨1, 0, 0, 0x05_0001, tile1, 0, rel0, [(0x30_0000, 1)]⟩ :: [] ∧ (getSlot (setting 0x05_0001 tile1) 0).await = some (.rdyset 4) ∧
      (getSlot (setting 0x05_0001 tile1) 0).ctx = 0 ∧ (getSlot (setting 0x05_0001 tile1) 0).wait = some (.rdyset g0 4 a1 a2) ∧
      (∃ t v, publish { setting 0x05_0001 tile1 with remoteReady := [] } 0 1 0 0x05_0001 tile1 rel0 [(0x30_0000, 1)] = .ok (t, v) ∧
        getSlot t 0 = getSlot (setting 0x05_0001 tile1) 0) ∧
      ∃ f, publish { setting 0x04_0001 { tile1 with gen := 4 } with remoteReady := [] } 0 1 0 0x04_0001 { tile1 with gen := 4 } rel0 [(0x30_0000, 1)] = .error f) := by
  refine ⟨⟨by decide +kernel, by decide +kernel, ⟨by decide +kernel, by unfold Linked; decide +kernel⟩, by decide +kernel, by decide +kernel⟩,
    ⟨rfl, by unfold MemoryCanonical; decide +kernel, by decide⟩,
    ⟨rfl, by decide +kernel, by decide +kernel, by decide +kernel, tiled_get _ _ (by decide +kernel), by decide +kernel⟩,
    ⟨rfl, served_get _ _ (by decide +kernel), by decide +kernel, served_fault _ (by decide +kernel)⟩, by decide +kernel,
    ⟨rfl, by decide +kernel, by decide +kernel, by decide +kernel, ⟨_, _, ok_get _ (base, 0) (by decide +kernel), by decide +kernel⟩, _, error_get _ (0, 0) (by decide +kernel)⟩⟩

/-! One-step tests: the expected values are those that the spec's notes work out. -/

/-- What the next state holds. -/
def after (o : Out) (p : State → Bool) : Bool := match o with | .next t => p t | _ => false
/-- s4 after a word of slot 0, with values in s1 onwards. -/
def gives (i : Instr) (l : List Word) (v : Word) : Bool := after (exec i (withRegs l)) (fun t => (getSlot t 0).readS 4 == v)

/-- 14_control_isa_notes, Division at its edges. -/
theorem test_div_rem :
    (gives (.div g0 4 a1 a2) [-7, 2] (-3) && gives (.rem g0 4 a1 a2) [-7, 2] (-1) && gives (.div g0 4 a1 a2) [7, -2] (-3) && gives (.rem g0 4 a1 a2) [7, -2] 1) = true := by
  decide
theorem test_div_edges :
    (gives (.div g0 4 a1 a2) [0x8000000000000000, -1] 0x8000000000000000 && gives (.rem g0 4 a1 a2) [0x8000000000000000, -1] 0 &&
    gives (.div g0 4 a1 a2) [-5, 0] (-1) && gives (.rem g0 4 a1 a2) [-5, 0] (-5)) = true := by decide
theorem test_divu_remu :
    (gives (.divu g0 4 a1 a2) [0x8000000000000000, -1] 0 && gives (.remu g0 4 a1 a2) [0x8000000000000000, -1] 0x8000000000000000) = true := by decide

/-- R165: BEXT with position 60 and length 8 gives a[63:60]. -/
theorem test_bext_cut_off : gives (.bext g0 4 a1 a2 a3) [0xA000000000000005, 60, 8] 0xA = true := by decide

/-- 14_control_isa_notes, Last use, then a read: `add s5, s1^, s2`, then `add s6, s1, s3`. -/
theorem test_last_use : after (exec (.add g0 5 a1 a2) (withRegs [2, 3, 4])) (fun t => (getSlot t 0).readS 5 == 5 && (getSlot t 0).isDead 1) = true := by decide
theorem test_dead_read :
    after (exec (.add g0 6 ⟨1, false⟩ a3) (at0 (fun x => { regs [2, 3, 4] x with dead := 2 }))) (fun t =>
      (getSlot t 0).readS 6 == 0 && ((getSlot t 0).stop.bind Stop.fault).map FaultInfo.code == some 0x03) = true := by decide

/-- 14_control_isa_notes, All 128 predicates. -/
theorem test_pget : after (exec (.pget g0 20 true) (at0 (fun x => { x with preds := 1 ||| 1 <<< 100 }))) (fun t => (getSlot t 0).readS 20 == 0x1000000000) = true := by decide
theorem test_pput :
    after (exec (.pput g0 false ⟨20, false⟩) (at0 (fun x => { x.writeS 20 0x1000000000 with preds := 1 ||| 1 <<< 100 }))) (fun t =>
      (getSlot t 0).preds == 1 ||| 1 <<< 36 ||| 1 <<< 100) = true := by decide

/-- 13_control_isa, Three encodings worked out: `fcvt.rs.f32.bf16 s20, s21`. -/
theorem test_fcvt_stochastic :
    after (exec (.fcvt g0 20 5 2 ⟨21, false⟩) (at0 (fun x => { x.writeS 21 0x3F800100 with ctr := 1 }))) (fun t =>
      (getSlot t 0).readS 20 == 0x3F80 && (getSlot t 0).ctr == 2 && (getSlot t 0).fflags == 1) = true := by decide

/-- 06_numbers_notes, RNG32 for three inputs; 15_system_isa, SigFold(0, 1). -/
theorem test_rng32 : rng32 0 0 = 0 ∧ rng32 0 1 = 0x688990C0 ∧ rng32 0 0x100000000 = 0x01FCE552 := by decide
theorem test_sigfold : sigFold 0 1 = 0x42F0E1EBA9EA3693 := by decide +kernel

/-- 06_numbers_notes, Ties at the top of the range: FP32 to E4M3 in a mode, saturating or not (flags OF 4, NX 1). -/
theorem test_e4m3_overflow :
    convertElem 5 0 0 false 0 0x43E80000 = (0x7E, 1) ∧ convertElem 5 0 4 false 0 0x43E80000 = (0x7F, 5) ∧ convertElem 5 0 4 true 0 0x43E80000 = (0x7E, 5) ∧
    convertElem 5 0 0 false 0 0x43E88000 = (0x7F, 5) ∧ convertElem 5 0 1 false 0 0x43E88000 = (0x7E, 1) ∧ convertElem 5 0 2 false 0 0xC3E88000 = (0x7F, 5) := by
  decide
theorem test_bf16_edge :
    convertElem 5 4 0 false 0 0x7F7F8000 = (0x7F80, 5) ∧ convertElem 5 4 1 false 0 0x7F7F8000 = (0x7F7F, 1) ∧ convertElem 5 4 3 false 0 0x7F7F8000 = (0x7F80, 5) ∧
    convertElem 5 4 0 false 0 0x7F7F7FFF = (0x7F7F, 1) := by decide
/-- 18_engine_isa_notes, lanes 1, 3, 6, 9, 10 and 11 of the stochastic VCVT (flags UF 2). -/
theorem test_bf16_stochastic :
    convertElem 5 4 5 false 0x6DE981E4 0x3FC08000 = (0x3FC1, 1) ∧ convertElem 5 4 5 false 0x171BF961 0xC0490FDB = (0xC04A, 1) ∧
    convertElem 5 4 5 false 0x30271FF2 0x7F7FFFFF = (0x7F80, 5) ∧ convertElem 5 4 5 false 0x25E752A1 0x0000C000 = (0x0001, 3) ∧
    convertElem 5 4 5 false 0x474162FA 0x42489D06 = (0x4249, 1) ∧ convertElem 5 4 5 false 0xC26ED039 0x42482FC6 = (0x4248, 1) := by decide

/-- 06_numbers_notes, A renormalisation, step by step. -/
theorem test_renormalise :
    (accStep ⟨[(0x3FFFFFFFFFF0, 0), (-5, 0)], 0, 0, false⟩ [(.fin 40 0, false), (.fin 0 0, false)]).1 = ⟨[(0x040000000002, 0), (0, 0)], 4, 1, false⟩ ∧
    (accStep ⟨[(0x040000000002, 0), (0, 0)], 4, 1, false⟩ [(.fin 7 0, false), (.fin 0 0, false)]).1 = ⟨[(0x040000000002, 0), (0, 0)], 4, 1, false⟩ := by decide
theorem test_renormalise_twice :
    (accStep ⟨[(0, 0)], 0, 0, false⟩ [(.fin (2 ^ 52 + 3) 0, false)]).1 = ⟨[(2 ^ 44, 0)], 8, 2, false⟩ := by decide

/-- Bytes of scratchpad in slot 0. -/
def padded (p : Fin 4) (l : Launch) (cs : List (Nat × Nat)) : State :=
  modSlot (queueOf p [l]) 0 (fun x => { x with scratch := cs.foldl (fun m c => cellsSet m (cellsAt c.1 (natBytes 4 c.2))) x.scratch })
/-- 32-bit words of scratchpad after a launch. -/
def padAfter (p : Fin 4) (l : Launch) (cs : List (Nat × Nat)) (at_ n : Nat) : List Nat :=
  match exec (.launchComplete 0 (engCode p) 0) (padded p l cs) with
  | .next t => (List.range n).map (fun j => bytesVal (cellsGet (getSlot t 0).scratch (at_ + 4 * j) 4))
  | _ => []

/-- 17_engine_isa, R248: N 4, parents (ignored, 0, 0, 1), L 3, pitch 1. -/
theorem test_vtmask : padAfter 1 (launch .vtmask [0x4000, spa + 0x40, spa, 0x304, 1] true) [(0, 0x01000000)] 0x40 1 = [0x5F2F1F0F] := by decide +kernel

/-- 20_matrix_isa_notes, LU with tied pivots: the factors, and PERM and GROW beside them. -/
theorem test_flu :
    padAfter 0 (launch (.flu false) [0x4000, 0x1000000004, spa] true)
      ([0x40000000, 0xBF000000, 0x3F800000, 0, 0x40800000, 0x40400000, 0x40400000, 0x3F800000, 0, 0x40000000, 0x3F000000, 0x3F800000,
        0xC0800000, 0x3F800000, 0x40000000, 0x40000000].zipIdx.map fun p => (4 * p.2, p.1)) 0 16 =
      [0x40800000, 0x40400000, 0x40400000, 0x3F800000, 0xBF800000, 0x40800000, 0x40A00000, 0x40400000, 0x00000000, 0x3F000000, 0xC0000000, 0xBF000000,
        0x3F000000, 0xBF000000, 0xBF800000, 0x3F000000] := by decide +kernel

/-- 18_engine_isa_notes, A k-nearest query with ties: the points in the order that the walk tests them. -/
theorem test_nearest :
    ([[0x3F800000, 0, 0, 17], [0, 0x40000000, 0, 5], [0x40400000, 0, 0, 2], [0, 0xBF800000, 0, 9], [0xC0000000, 0, 0, 30], [0, 0, 0x40A00000, 1]].foldl
      (Query.test ⟨.nearest, [0, 0, 0, 0x41200000], 3⟩) ⟨[], false, false, false, false⟩).entries = [(0x3F800000, 9), (0x3F800000, 17), (0x40800000, 5)] := by
  decide +kernel

/-- 06_numbers_notes, One dot product, four shapes: each step's sum as an integer of halves. -/
def steps (vs : List Int) : List (Int × Nat) := (vs.foldl (fun t v => (accStep t [(.fin v (-1), false)]).1) ⟨[(0, 0)], 0, 0, false⟩).elems
theorem test_dot_shapes :
    steps ([1, 1, 1, 1, 1, 1, 1, 1, 1, 1, 1] ++ [3]) = [(2, 0)] ∧ steps [8, 1, 1, 1, 3] = [(6, 0)] ∧ steps [10, 1, 3] = [(8, 0)] ∧ steps [14] = [(7, 0)] := by decide

/-- 14_control_isa_notes, Correct rounding of exp2 (flags UF 2, OF 4, NX 1). -/
theorem test_exp2 :
    fpExp2 fp32 0 0 0x3F000000 = (0x3FB504F3, 1) ∧ fpExp2 fp32 3 0 0x3F000000 = (0x3FB504F4, 1) ∧ fpExp2 fp32 0 0 0xBF800000 = (0x3F000000, 0) ∧
    fpExp2 fp32 0 0 0x43000000 = (0x7F800000, 5) ∧ fpExp2 fp32 1 0 0x43000000 = (0x7F7FFFFF, 5) ∧ fpExp2 fp32 0 0 0xC3150000 = (1, 0) ∧
    fpExp2 fp32 0 0 0xC3160000 = (0, 1) ∧ fpExp2 fp32 3 0 0xC3160000 = (1, 3) ∧ fpExp2 fp32 0 0 0xFF800000 = (0, 0) := by decide +kernel

/-- 30_system_notes, A cold start to the first command: STATE and the features that GO latches. The start is at step 3, after the checks of the image. -/
def report (f : Option Nat) : StartReport := ⟨f, true, 0, 0⟩
theorem test_cold_start :
    w0Read State.reset 8 = 0x100 ∧ after (exec (.coldStart (report none)) { State.reset with host := { HostRegs.reset with step := 3 } }) (fun t => w0Read t 8 == 0x901 && w0Read t 0x18 == 0xFF) = true ∧
    after (exec .ctrlGo (hosted fun h => { h with mode := 1, step := 9, foffer0 := 0xFF, faccept0 := 0x1BF })) (fun t =>
      w0Read t 8 == 0xA02 && t.host.features == 0xBF) = true := by decide +kernel
/-- 30_system_notes, A warm start after a host reset. -/
theorem test_warm_start : after (exec .ctrlRst base) (fun t => w0Read t 8 == 0x2000100) = true := by decide +kernel

/-- 28_faults_notes, A spin that can never end: the watchdog limit, and the entry of the drained domain. -/
def spinner (n : Nat) (stop : Option Stop) : State :=
  let j : Job := { jobOf 0 0x11 with ctx := 0x0A1, card := { fetchCard with cost := 4000 }, admitted := true, started := true, limit := 6000 }
  let s : State := { base with
    contexts := [Context.new 0x0A1 5 false none 0x10_0000 0x200_0000 0 0]
    regions := [(0, Region.root), (4, { Region.root with parent := 0, flags := 0xFD, ovr := 0x18 }), (5, { Region.root with parent := 4 })] }
  modSlot (modSlot s 0 (fun x => { x with job := none })) 16 (fun x => { x with resident := some 0x0A1, job := some j, watch := n, stop := stop })
theorem test_watchdog :
    (after (exec (.segmentOverrun 16) (spinner 6000 none)) (fun t => (getSlot t 16).stop == none) &&
    after (exec (.segmentOverrun 16) (spinner 6001 none)) (fun t => ((getSlot t 16).stop.bind Stop.fault).map (fun f => (f.code, f.val)) == some (0x12, 6001))) = true := by decide +kernel
theorem test_drain_entry :
    after (exec (.faultDomainDrain 16) (spinner 6001 (some ⟨.fault, some ⟨0x12, 6001, 0, 0x20_0000, 0, none, none⟩, false, false, none, true⟩))) (fun t =>
      t.fqWait == [(0x30A1000000000011, 0x812)] && (getSlot t 16).job == none) = true := by decide +kernel

end Sys2Proof.Tests
end

section
/-! PROOFS. The course of every control word: `exec` runs it through `control`, with the feature and the privilege of R4, R114,
R219 and R292 and with its own guard and sources; and what follows for the words that are refused. -/

namespace Sys2Proof.Proofs

open Sys2Proof.Machine Sys2Proof.Claim

/-- Whether the feature that a word belongs to is in force (R4). -/
def inForce (s : State) (i : Instr) : Bool := (needsFeature i).all (feature s)

theorem inForce_iff_accepted {s : State} {i : Instr} : inForce s i = true ↔ Accepted s i :=
  Option.all_eq_true _ _

/-- The words that have an encoding of 64 bits are the words that have a guard and source fields. -/
theorem isSome_operands (i : Instr) : (operands i).isSome = (encodeControl i).isSome := by
  cases i <;> rfl

theorem wordOf_of_encodeControl {i : Instr} {w : Word} (h : encodeControl i = some w) : wordOf i = w := by
  simp [wordOf, encode, h]

/-! The families of words that propagate poison or write predicates need no feature and no privilege. -/

theorem alu_eq_control (i : Instr) (g : Guard) (sd : Reg) (srcs : List Src) (f : Slot → Word) (s : State) :
    ∃ body : State → Res, alu i g sd srcs f s = control i true false g srcs body s :=
  ⟨_, rfl⟩

theorem alu1_eq_control (i : Instr) (g : Guard) (sd : Reg) (a : Src) (f : Word → Word) (s : State) :
    ∃ body : State → Res, alu1 i g sd a f s = control i true false g [a] body s :=
  alu_eq_control ..

theorem alu2_eq_control (i : Instr) (g : Guard) (sd : Reg) (a b : Src) (f : Word → Word → Word) (s : State) :
    ∃ body : State → Res, alu2 i g sd a b f s = control i true false g [a, b] body s :=
  alu_eq_control ..

theorem alu3_eq_control (i : Instr) (g : Guard) (sd : Reg) (a b c : Src) (f : Word → Word → Word → Word) (s : State) :
    ∃ body : State → Res, alu3 i g sd a b c f s = control i true false g [a, b, c] body s :=
  alu_eq_control ..

theorem floatWord_eq_control (i : Instr) (g : Guard) (sd : Reg) (rm : BitVec 3) (srcs : List Src)
    (f : BitVec 3 → BitVec 32 → Slot → Nat × BitVec 6) (s : State) :
    ∃ body : State → Res, floatWord i g sd rm srcs f s = control i true false g srcs body s :=
  ⟨_, rfl⟩

theorem predWord_eq_control (i : Instr) (g : Guard) (pd pa pb : Pred) (na nb : Bool) (f : Bool → Bool → Bool) (s : State) :
    ∃ body : State → Res, predWord i g pd pa pb na nb f s = control i true false g [] body s :=
  ⟨_, rfl⟩

/-- Every control word takes the one course of R141: its feature, its privilege, its guard, its dead sources, then its body. The
body may look at the state before the word. -/
theorem exec_eq_control {i : Instr} {g : Guard} {srcs : List Src} (h : operands i = some (g, srcs)) (s : State) :
    ∃ body : State → Res, exec i s = control i (inForce s i) (needsPrivilege i) g srcs body s := by
  cases i <;> cases h <;> dsimp only [exec]
  case movi | leapc => exact alu_eq_control ..
  case clz | ctz | popc | addi | andi | ori | xori | shli | shri | srai | muli | movhi | fclass => exact alu1_eq_control ..
  case add | sub | mul | mulh | mulhu | div | divu | rem | remu | and | or | xor | andn | shl | shr | sra | ror | min | max | minu
    | maxu => exact alu2_eq_control ..
  case bext | bins | madd => exact alu3_eq_control ..
  case fadd | fsub | fmul | ffma | fdiv | fsqrt | fmin | fmax | fcvt | fexp2 | flog2 => exact floatWord_eq_control ..
  case pand | por | pxor => exact predWord_eq_control ..
  -- the others are defined by `control`, by `plain`, or by an operation over one of them that names its privilege or feature
  all_goals exact ⟨_, rfl⟩

/-- A word that has an encoding takes the course of R141. -/
theorem exec_eq_control_of_encodeControl {i : Instr} {w : Word} (h : encodeControl i = some w) (s : State) :
    ∃ (g : Guard) (srcs : List Src) (body : State → Res),
      exec i s = control i (inForce s i) (needsPrivilege i) g srcs body s := by
  have hops : (operands i).isSome = true := by rw [isSome_operands, h]; rfl
  obtain ⟨⟨g, srcs⟩, hops⟩ := Option.isSome_iff_exists.mp hops
  exact ⟨g, srcs, exec_eq_control hops s⟩

/-- Settles O19: in the course of R141 the feature and the privilege are checked before the guard. -/
theorem refusedWordsFault : Obligations.RefusedWordsFault := by
  intro s i w hw
  obtain ⟨g, srcs, body, hcourse⟩ := exec_eq_control_of_encodeControl hw s
  rw [hcourse, ← wordOf_of_encodeControl hw]
  constructor
  · intro hrefused
    have hfeat : inForce s i = false := Bool.eq_false_iff.mpr (mt inForce_iff_accepted.mp hrefused)
    rw [hfeat, control_illegal]
  · intro hacc hpriv hctx
    rw [inForce_iff_accepted.mpr hacc, hpriv, control_unprivileged _ _ _ _ _ hctx]

end Sys2Proof.Proofs
end

section
/-! PROOFS. The state at power-on: memory that nothing has written reads zero, each slot is the one of `Slot.reset`, and no barrier
has an owner. -/

namespace Sys2Proof.Proofs

open Sys2Proof.Machine Sys2Proof.Claim

theorem getSlot_reset (k : SlotId) : getSlot State.reset k = Slot.reset :=
  Vector.getElem_replicate k.isLt

/-- With no write logged and no byte stored, every point of the coherence order of a byte reads zero. -/
theorem byteAt_reset (n a : Nat) : byteAt State.reset n a = 0 := rfl

theorem reset_cores (c : Fin 96) : State.reset.cores[c] = Core.reset :=
  Vector.getElem_replicate c.isLt

/-- No barrier is listed for any core, so each reads as one without an owner. -/
theorem getBarrier_reset (c : Fin 96) (i : Nat) : getBarrier State.reset c i = Barrier.reset := by
  rw [getBarrier, reset_cores]
  rfl

theorem slotReset_engs (e : Fin 4) : Slot.reset.engs[e] = EngStream.reset :=
  Vector.getElem_replicate e.isLt

theorem efltValue_slotReset (e : Fin 4) : efltValue Slot.reset.engs[e] = 0 := by
  rw [slotReset_engs]
  rfl

/-- Settles O34: each part is a field of `State.reset`, of `Slot.reset` or of `Barrier.reset`. -/
theorem resetStateHolds : Obligations.ResetStateHolds := by
  refine ⟨reset_wf, byteAt_reset, rfl, rfl, rfl, rfl, by decide, rfl, fun k => ?slots, fun c i => ?barriers⟩
  case slots =>
    rw [getSlot_reset]
    exact ⟨rfl, rfl, rfl, rfl, rfl, rfl, rfl, rfl, Slot.readP_zero _, rfl, rfl, rfl, rfl, rfl, rfl, rfl, efltValue_slotReset⟩
  case barriers =>
    rw [getBarrier_reset]
    rfl

end Sys2Proof.Proofs
end

section
/-! PROOFS. One rounding (R66, R68, R70): the multiple of a unit that `roundMag` gives, said over the real number that a mantissa,
an exponent and a sticky bit stand for. -/

namespace Sys2Proof.Proofs

open Sys2Proof.Machine Sys2Proof.Claim

/-- The magnitude M that m × 2^e and a sticky bit stand for, rounded to multiples of 2^u: the remainder that the sticky bit stands
for lies below the mantissa, and below half a unit where the unit is no coarser than the mantissa. -/
structure StandsFor (m : ℕ) (e : ℤ) (sticky : Bool) (u : ℤ) (M : ℝ) : Prop where
  exact : sticky = false → M = m * 2 ^ e
  above : sticky = true → m * 2 ^ e < M
  below : sticky = true → M < m * 2 ^ e + if e < u then 2 ^ e else 2 ^ u / 2

/-- The natural number k is the magnitude x rounded in a mode for a sign. -/
structure RoundsTo (mode : BitVec 3) (neg : Bool) (x : ℝ) (k : ℕ) (inexact : Bool) : Prop where
  near : |(k : ℝ) - x| < 1
  exact : inexact = false ↔ (k : ℝ) = x
  nearest : mode = 0 ∨ mode = 4 → |(k : ℝ) - x| ≤ 1 / 2
  even : mode = 0 → |(k : ℝ) - x| = 1 / 2 → k % 2 = 0
  away : mode = 4 → |(k : ℝ) - x| = 1 / 2 → x ≤ k
  toward : mode = 1 ∨ (mode = 2 ∧ neg = false) ∨ (mode = 3 ∧ neg = true) → (k : ℝ) ≤ x
  outward : (mode = 2 ∧ neg = true) ∨ (mode = 3 ∧ neg = false) → x ≤ k

/-- A number between k and k + 1 is rounded to one of them: what each mode asks of the choice. -/
theorem roundsTo_of_up {mode : BitVec 3} {neg inexact up : Bool} {x ρ : ℝ} {k : ℕ} (hx : x = k + ρ) (h0 : 0 ≤ ρ) (h1 : ρ < 1)
    (hie : inexact = true ↔ ρ ≠ 0) (hup : up = true → ρ ≠ 0)
    (hm0 : mode = 0 → (up = true ↔ 1 / 2 < ρ ∨ (ρ = 1 / 2 ∧ k % 2 = 1))) (hm4 : mode = 4 → (up = true ↔ 1 / 2 ≤ ρ))
    (htoward : mode = 1 ∨ (mode = 2 ∧ neg = false) ∨ (mode = 3 ∧ neg = true) → up = false)
    (houtward : (mode = 2 ∧ neg = true) ∨ (mode = 3 ∧ neg = false) → up = inexact) :
    RoundsTo mode neg x (if up then k + 1 else k) inexact := by
  subst hx
  cases up with
  | false =>
    have hd : (k : ℝ) - (k + ρ) = -ρ := by ring
    have hz : inexact = false ↔ ρ = 0 := by rw [← not_iff_not, Bool.not_eq_false, hie]
    refine ⟨?_, ?_, ?_, ?_, ?_, fun _ => ?_, fun h => ?_⟩ <;> simp only [Bool.false_eq_true, if_false]
    · rw [hd, abs_neg, abs_of_nonneg h0]; exact h1
    · rw [hz]; constructor <;> intro h <;> linarith
    · rw [hd, abs_neg, abs_of_nonneg h0]
      rintro (h | h)
      · exact not_lt.mp fun hlt => Bool.false_ne_true ((hm0 h).mpr (.inl hlt))
      · exact (not_le.mp fun hle => Bool.false_ne_true ((hm4 h).mpr hle)).le
    · rw [hd, abs_neg, abs_of_nonneg h0]
      intro h heq
      by_contra hodd
      exact Bool.false_ne_true ((hm0 h).mpr (.inr ⟨heq, by omega⟩))
    · rw [hd, abs_neg, abs_of_nonneg h0]
      intro h heq
      exact absurd ((hm4 h).mpr heq.ge) Bool.false_ne_true
    · linarith
    · have hρ : ρ = 0 := hz.mp (houtward h).symm
      linarith
  | true =>
    have hd : ((k + 1 : ℕ) : ℝ) - (k + ρ) = 1 - ρ := by push_cast; ring
    have hpos : 0 < ρ := lt_of_le_of_ne h0 (hup rfl).symm
    refine ⟨?_, ?_, ?_, ?_, ?_, fun h => ?_, fun _ => ?_⟩ <;> simp only [if_true]
    · rw [hd, abs_of_pos (by linarith)]; linarith
    · rw [hie.mpr hpos.ne']
      refine ⟨fun h => absurd h (by decide), fun h => ?_⟩
      push_cast at h
      linarith
    · rw [hd, abs_of_pos (by linarith)]
      rintro (h | h)
      · rcases (hm0 h).mp rfl with h' | ⟨h', -⟩ <;> linarith
      · linarith [(hm4 h).mp rfl]
    · rw [hd, abs_of_pos (by linarith)]
      intro h heq
      rcases (hm0 h).mp rfl with h' | ⟨-, h'⟩
      · linarith
      · omega
    · intro _ _
      push_cast
      linarith
    · exact absurd (htoward h) (by decide)
    · push_cast
      linarith

/-- The mantissa that `roundMag` splits: m in units of 2^u where the unit is the finer one. -/
def scaledMag (m : ℕ) (e u : ℤ) : ℕ := if e > u then m * pow2 (e - u) else m

/-- What a mantissa and a sticky bit stand for, in units of 2^u: the quotient, the remainder, and a fraction of its last place. -/
theorem StandsFor.split {m : ℕ} {e u : ℤ} {sticky : Bool} {M : ℝ} (h : StandsFor m e sticky u M) :
    ∃ δ : ℝ, 0 ≤ δ ∧ δ < 1 ∧ (δ = 0 ↔ sticky = false) ∧ ((u - e).toNat = 0 → δ < 1 / 2) ∧
      M / 2 ^ u = (scaledMag m e u / 2 ^ (u - e).toNat : ℕ) + ((scaledMag m e u % 2 ^ (u - e).toNat : ℕ) + δ) / 2 ^ (u - e).toNat := by
  have hsplit : ((scaledMag m e u : ℕ) : ℝ) = (scaledMag m e u / 2 ^ (u - e).toNat : ℕ) * 2 ^ (u - e).toNat
      + (scaledMag m e u % 2 ^ (u - e).toNat : ℕ) := by
    exact_mod_cast (Nat.div_add_mod' (scaledMag m e u) (2 ^ (u - e).toNat)).symm
  have hδ : ∀ δ : ℝ, M / 2 ^ u = (scaledMag m e u + δ) / 2 ^ (u - e).toNat →
      M / 2 ^ u = (scaledMag m e u / 2 ^ (u - e).toNat : ℕ) + ((scaledMag m e u % 2 ^ (u - e).toNat : ℕ) + δ) / 2 ^ (u - e).toNat := by
    intro δ hM
    rw [hM, hsplit]
    field_simp
    ring
  have he : (0 : ℝ) < 2 ^ e := by positivity
  have hu : (0 : ℝ) < 2 ^ u := by positivity
  rcases lt_or_ge e u with hlt | hge
  case inl =>
    have hm : scaledMag m e u = m := if_neg (by omega)
    have hpow : (2 : ℝ) ^ u = 2 ^ e * 2 ^ (u - e).toNat := by
      rw [← zpow_natCast, Int.toNat_of_nonneg (by omega), ← zpow_add₀ two_ne_zero]
      congr 1; ring
    refine ⟨M / 2 ^ e - m, ?_, ?_, ?_, fun h0 => absurd h0 (by omega), hδ _ ?_⟩
    · rw [sub_nonneg, le_div_iff₀ he]
      cases sticky with
      | false => exact (h.exact rfl).ge
      | true => exact (h.above rfl).le
    · rw [sub_lt_iff_lt_add, div_lt_iff₀ he]
      cases sticky with
      | false => rw [h.exact rfl]; nlinarith
      | true => have := h.below rfl; rw [if_pos hlt] at this; linarith
    · rw [sub_eq_zero, div_eq_iff he.ne']
      cases sticky with
      | false => simp [h.exact rfl]
      | true => simpa using (h.above rfl).ne'
    · rw [hm, hpow]; field_simp; ring
  case inr =>
    have hz : (u - e).toNat = 0 := by omega
    have hm : ((scaledMag m e u : ℕ) : ℝ) = m * 2 ^ e / 2 ^ u := by
      rcases eq_or_lt_of_le hge with rfl | hgt
      · rw [scaledMag, if_neg (lt_irrefl _)]; field_simp
      · rw [scaledMag, if_pos hgt, pow2]
        push_cast
        rw [← zpow_natCast, Int.toNat_of_nonneg (by omega), zpow_sub₀ two_ne_zero, mul_div_assoc]
    have hhalf : sticky = true → M < m * 2 ^ e + 2 ^ u / 2 := fun hs => by
      have := h.below hs
      rwa [if_neg (by omega)] at this
    have hlt : (M - m * 2 ^ e) / 2 ^ u < 1 / 2 := by
      rw [div_lt_iff₀ hu]
      cases sticky with
      | false => rw [h.exact rfl]; linarith
      | true => linarith [hhalf rfl]
    refine ⟨(M - m * 2 ^ e) / 2 ^ u, ?_, by linarith, ?_, fun _ => hlt, hδ _ ?_⟩
    · apply div_nonneg _ hu.le
      cases sticky with
      | false => rw [h.exact rfl, sub_self]
      | true => linarith [h.above rfl]
    · rw [div_eq_zero_iff, or_iff_left hu.ne', sub_eq_zero]
      cases sticky with
      | false => simp [h.exact rfl]
      | true => simpa using (h.above rfl).ne'
    · rw [hz, hm, pow_zero, div_one]; ring

theorem mode_cases (m : BitVec 3) : m = 0 ∨ m = 1 ∨ m = 2 ∨ m = 3 ∨ m = 4 ∨ m = 5 ∨ m = 6 ∨ m = 7 := by
  revert m; decide

/-- Half of a power of two above one, as the remainder is compared with it. -/
theorem half_add_half {sh : ℕ} (h : 1 ≤ sh) : 2 ^ sh / 2 + 2 ^ sh / 2 = 2 ^ sh := by
  obtain ⟨n, rfl⟩ := Nat.exists_eq_add_of_le' h
  rw [pow_succ, Nat.mul_div_cancel _ two_pos]
  ring

/-- A remainder with its fraction compared with half a unit. -/
theorem frac_compare {sh rem : ℕ} {δ : ℝ} (h0 : 0 ≤ δ) (h1 : δ < 1) (hz : sh = 0 → δ < 1 / 2) (hrem : rem < 2 ^ sh) :
    (1 / 2 < (rem + δ) / 2 ^ sh ↔ 1 ≤ sh ∧ (2 ^ sh / 2 < rem ∨ (rem = 2 ^ sh / 2 ∧ δ ≠ 0))) ∧
    ((rem + δ) / 2 ^ sh = 1 / 2 ↔ 1 ≤ sh ∧ rem = 2 ^ sh / 2 ∧ δ = 0) := by
  have hp : (0 : ℝ) < 2 ^ sh := by positivity
  rw [lt_div_iff₀ hp, div_eq_iff hp.ne']
  rcases Nat.eq_zero_or_pos sh with rfl | hs
  case inl =>
    obtain rfl : rem = 0 := by omega
    have := hz rfl
    constructor <;> constructor <;> intro h
    · norm_num at h; linarith
    · exact absurd h.1 (by decide)
    · norm_num at h; linarith
    · exact absurd h.1 (by decide)
  case inr =>
    have hh : (2 : ℝ) ^ sh = 2 * (2 ^ sh / 2 : ℕ) := by
      have := half_add_half hs
      rw [two_mul]
      exact_mod_cast this.symm
    generalize 2 ^ sh / 2 = half at hh
    rw [hh]
    rcases lt_trichotomy rem half with hlt | rfl | hgt
    · have hc : (rem : ℝ) + 1 ≤ half := by exact_mod_cast hlt
      constructor <;> constructor <;> intro h
      · linarith
      · omega
      · linarith
      · omega
    · constructor <;> constructor <;> intro h
      · exact ⟨hs, .inr ⟨rfl, fun h0 => by rw [h0] at h; linarith⟩⟩
      · obtain ⟨-, h | ⟨-, h⟩⟩ := h
        · omega
        · have := lt_of_le_of_ne h0 (Ne.symm h)
          linarith
      · exact ⟨hs, rfl, by linarith⟩
      · obtain ⟨-, -, h⟩ := h
        rw [h]; ring
    · have hc : (half : ℝ) + 1 ≤ rem := by exact_mod_cast hgt
      constructor <;> constructor <;> intro h
      · exact ⟨hs, .inl hgt⟩
      · linarith
      · linarith
      · omega

/-- R66, R70: `roundMag` gives the magnitude rounded in the mode. -/
theorem roundMag_roundsTo {mode : BitVec 3} {neg sticky : Bool} {m d : ℕ} {e u : ℤ} {r : BitVec 32} {M : ℝ}
    (h : StandsFor m e sticky u M) :
    RoundsTo mode neg (M / 2 ^ u) (roundMag mode neg m e sticky u r d).1 (roundMag mode neg m e sticky u r d).2 := by
  obtain ⟨δ, h0, h1, hδ, hz, hM⟩ := h.split
  have hrem : scaledMag m e u % 2 ^ (u - e).toNat < 2 ^ (u - e).toNat := Nat.mod_lt _ (by positivity)
  obtain ⟨hgt, heq⟩ := frac_compare h0 h1 hz hrem
  have hsticky : δ ≠ 0 ↔ sticky = true := by rw [ne_eq, hδ, Bool.not_eq_false]
  have hmag : scaledMag m e u = if e > u then m * pow2 (e - u) else m := rfl
  simp only [roundMag]
  rw [← hmag]
  generalize scaledMag m e u % 2 ^ (u - e).toNat = rem at *
  generalize scaledMag m e u / 2 ^ (u - e).toNat = k at *
  generalize (u - e).toNat = sh at *
  have hp : (0 : ℝ) < 2 ^ sh := by positivity
  have hρ0 : ((rem : ℝ) + δ) / 2 ^ sh ≠ 0 ↔ rem ≠ 0 ∨ δ ≠ 0 := by
    have hr : (0 : ℝ) ≤ rem := rem.cast_nonneg
    rw [ne_eq, div_eq_zero_iff, or_iff_left hp.ne', add_eq_zero_iff_of_nonneg hr h0, Nat.cast_eq_zero, not_and_or]
  have hρ1 : ((rem : ℝ) + δ) / 2 ^ sh < 1 := by
    rw [div_lt_one hp]
    have : (rem : ℝ) + 1 ≤ 2 ^ sh := by exact_mod_cast hrem
    linarith
  refine roundsTo_of_up hM (by positivity) hρ1 ?_ ?_ ?_ ?_ ?_ ?_
  · rw [hρ0, hsticky]; simp
  · have hhalf : 1 ≤ sh → 2 ^ sh / 2 ≤ rem → rem ≠ 0 := fun hs hle => by have := half_add_half hs; omega
    rw [hρ0, hsticky]
    intro hup
    by_contra hno
    obtain ⟨rfl, rfl⟩ : rem = 0 ∧ sticky = false := by simpa using hno
    rcases mode_cases mode with rfl | rfl | rfl | rfl | rfl | rfl | rfl | rfl
    case inl =>
      obtain ⟨hs, hz, -⟩ : 1 ≤ sh ∧ 0 = 2 ^ sh / 2 ∧ k % 2 = 1 := by simpa using hup
      exact hhalf hs hz.ge rfl
    case inr.inr.inr.inr.inl =>
      obtain ⟨hs, hle⟩ : 1 ≤ sh ∧ 2 ^ sh / 2 = 0 := by simpa using hup
      exact hhalf hs hle.le rfl
    case inr.inr.inr.inr.inr.inl =>
      have : r.toNat % 2 ^ min d 16 < 2 ^ min d 16 := Nat.mod_lt _ (by positivity)
      simp [Nat.div_eq_of_lt this] at hup
    all_goals simp at hup
  · rintro rfl
    have hδ' : δ = 0 ↔ ¬ sticky = true := by rw [hδ, Bool.not_eq_true]
    rw [hgt, heq, hsticky, hδ']
    by_cases hs : sticky = true <;> simp [hs]
    omega
  · rintro rfl
    have hle : 1 / 2 ≤ ((rem : ℝ) + δ) / 2 ^ sh ↔ 1 ≤ sh ∧ 2 ^ sh / 2 ≤ rem := by
      rw [le_iff_lt_or_eq, eq_comm, hgt, heq]
      by_cases hs : δ = 0 <;> simp [hs] <;> omega
    simpa using hle.symm
  · rintro (rfl | ⟨rfl, rfl⟩ | ⟨rfl, rfl⟩) <;> simp
  · rintro (⟨rfl, rfl⟩ | ⟨rfl, rfl⟩) <;> simp
end Sys2Proof.Proofs
end

section
/-! PROOFS. The values of a format (R58 to R61): what `fdec` reads from an encoding, and the encoding of a rounded value. -/

namespace Sys2Proof.Proofs

open Sys2Proof.Machine Sys2Proof.Claim

/-- The machine's record of a format. -/
def machineFmt (F : Fmt) : FpFmt := ⟨F.x, F.f, F.bias, F.inf⟩

/-- A format with an exponent field of two bits or more and a fraction. -/
structure Proper (F : Fmt) : Prop where
  exponent : 2 ≤ F.x
  fraction : 1 ≤ F.f

/-- The factor of a sign. -/
def signum (neg : Bool) : ℚ := if neg then -1 else 1

/-- The exponent of the last fraction bit of a subnormal number. -/
def least (F : Fmt) : ℤ := 1 - F.bias - F.f

@[simp] theorem machineFmt_x (F : Fmt) : (machineFmt F).x = F.x := rfl
@[simp] theorem machineFmt_f (F : Fmt) : (machineFmt F).f = F.f := rfl
@[simp] theorem machineFmt_bias (F : Fmt) : (machineFmt F).bias = F.bias := rfl
@[simp] theorem machineFmt_inf (F : Fmt) : (machineFmt F).inf = F.inf := rfl
@[simp] theorem signum_true : signum true = -1 := rfl
@[simp] theorem signum_false : signum false = 1 := rfl

theorem fsign_eq (F : Fmt) (neg : Bool) : fsign (machineFmt F) neg = neg.toNat * 2 ^ (F.x + F.f) := by
  cases neg <;> simp [fsign]

/-- The fields of an encoding put together from a sign, an exponent field and a fraction. -/
theorem fields_of_encoding {F : Fmt} {neg : Bool} {E c : ℕ} (hE : E < 2 ^ F.x) (hc : c < 2 ^ F.f) :
    let v := fsign (machineFmt F) neg + E * 2 ^ F.f + c
    v / 2 ^ (F.x + F.f) = neg.toNat ∧ v / 2 ^ F.f % 2 ^ F.x = E ∧ v % 2 ^ F.f = c ∧ v < 2 ^ (1 + F.x + F.f) := by
  intro v
  have hv : v = 2 ^ F.f * (neg.toNat * 2 ^ F.x + E) + c := by
    simp only [v, fsign_eq, pow_add]; ring
  have hdiv : v / 2 ^ F.f = 2 ^ F.x * neg.toNat + E := by
    rw [hv, Nat.mul_add_div (by positivity), Nat.div_eq_of_lt hc]; ring
  have htop : v / 2 ^ (F.x + F.f) = neg.toNat := by
    rw [add_comm, pow_add, ← Nat.div_div_eq_div_mul, hdiv, Nat.mul_add_div (by positivity), Nat.div_eq_of_lt hE, add_zero]
  refine ⟨htop, ?_, ?_, ?_⟩
  · rw [hdiv, Nat.mul_add_mod, Nat.mod_eq_of_lt hE]
  · rw [hv, Nat.mul_add_mod, Nat.mod_eq_of_lt hc]
  · rw [add_assoc, add_comm 1, pow_succ', ← Nat.div_lt_iff_lt_mul (by positivity), htop]
    have := neg.toNat_le
    omega

/-- An encoding that `fdec` reads as a number, with the value of the format (R58, R61). -/
structure Parts (F : Fmt) (v : ℕ) (neg : Bool) (m : ℕ) (e : ℤ) : Prop where
  read   : fdec (machineFmt F) v = .fin neg m e
  sign   : neg = decide (v / 2 ^ (F.x + F.f) % 2 = 1)
  bound  : m < 2 ^ (F.f + 1)
  low    : least F ≤ e
  normal : m < 2 ^ F.f → e = least F
  value  : F.value v = some (signum neg * m * 2 ^ e)

/-- An encoding with every exponent bit set that stands for no number. -/
def Special (F : Fmt) (v : ℕ) : Prop :=
  v / 2 ^ F.f % 2 ^ F.x = 2 ^ F.x - 1 ∧ (F.inf = true ∨ v % 2 ^ F.f = 2 ^ F.f - 1)

theorem value_eq_none {F : Fmt} {v : ℕ} : F.value v = none ↔ Special F v := by
  simp only [Fmt.value, Special]
  split <;> simp_all

/-- `fdec` of a format of the statements, over its own fields. -/
theorem fdec_machineFmt (F : Fmt) (v : ℕ) : fdec (machineFmt F) v =
    if F.inf = true ∧ v / 2 ^ F.f % 2 ^ F.x = 2 ^ F.x - 1 then
      if v % 2 ^ F.f = 0 then .inf (decide (v / 2 ^ (F.x + F.f) % 2 = 1))
      else .nan (decide (F.f ≠ 2 ∧ v % 2 ^ F.f < 2 ^ (F.f - 1)))
    else if F.inf = false ∧ v / 2 ^ F.f % 2 ^ F.x = 2 ^ F.x - 1 ∧ v % 2 ^ F.f = 2 ^ F.f - 1 then .nan false
    else if v / 2 ^ F.f % 2 ^ F.x = 0 then .fin (decide (v / 2 ^ (F.x + F.f) % 2 = 1)) (v % 2 ^ F.f) (least F)
    else .fin (decide (v / 2 ^ (F.x + F.f) % 2 = 1)) (2 ^ F.f + v % 2 ^ F.f) ((v / 2 ^ F.f % 2 ^ F.x : ℕ) - F.bias - F.f) := rfl

/-- Numbers are read by their exponent field: a subnormal one where it is zero. -/
theorem fdec_number {F : Fmt} {v : ℕ} (h : ¬ Special F v) : fdec (machineFmt F) v =
    if v / 2 ^ F.f % 2 ^ F.x = 0 then .fin (decide (v / 2 ^ (F.x + F.f) % 2 = 1)) (v % 2 ^ F.f) (least F)
    else .fin (decide (v / 2 ^ (F.x + F.f) % 2 = 1)) (2 ^ F.f + v % 2 ^ F.f) ((v / 2 ^ F.f % 2 ^ F.x : ℕ) - F.bias - F.f) := by
  rw [fdec_machineFmt, if_neg fun hs => h ⟨hs.2, .inl hs.1⟩, if_neg fun hs => h ⟨hs.2.1, .inr hs.2.2⟩]

/-- The value of a number, as a signed fraction times a power of two. -/
theorem value_number {F : Fmt} {v : ℕ} (h : ¬ Special F v) : F.value v = some (signum (decide (v / 2 ^ (F.x + F.f) % 2 = 1)) *
    if v / 2 ^ F.f % 2 ^ F.x = 0 then ((v % 2 ^ F.f : ℕ) : ℚ) * 2 ^ least F
    else ((2 ^ F.f + v % 2 ^ F.f : ℕ) : ℚ) * 2 ^ (((v / 2 ^ F.f % 2 ^ F.x : ℕ) : ℤ) - F.bias - F.f)) := by
  have hpow : (2 : ℚ) ^ F.f ≠ 0 := by positivity
  unfold Special at h
  simp only [Fmt.value, if_neg h, signum, decide_eq_true_eq, least]
  congr 2
  split
  · rw [zpow_sub₀ two_ne_zero _ (F.f : ℤ), zpow_natCast]
    field_simp
  · rw [zpow_sub₀ two_ne_zero _ (F.f : ℤ), zpow_natCast]
    push_cast
    field_simp

theorem parts_of_not_special {F : Fmt} {v : ℕ} (h : ¬ Special F v) : ∃ neg m e, Parts F v neg m e := by
  have hf : v % 2 ^ F.f < 2 ^ F.f := Nat.mod_lt _ (by positivity)
  have hread := fdec_number h
  have hvalue := value_number h
  have hsucc : 2 ^ (F.f + 1) = 2 ^ F.f + 2 ^ F.f := by ring
  by_cases he : v / 2 ^ F.f % 2 ^ F.x = 0
  · rw [if_pos he] at hread hvalue
    exact ⟨_, _, _, hread, rfl, by omega, le_rfl, fun _ => rfl, by rw [hvalue, mul_assoc]⟩
  · rw [if_neg he] at hread hvalue
    refine ⟨_, _, _, hread, rfl, by omega, ?_, fun hm => absurd hm (by omega), by rw [hvalue, mul_assoc]⟩
    unfold least
    omega

theorem parts_of_value {F : Fmt} {v : ℕ} {p : ℚ} (h : F.value v = some p) : ∃ neg m e, Parts F v neg m e ∧ p = signum neg * m * 2 ^ e := by
  have hs : ¬ Special F v := fun hs => by rw [value_eq_none.mpr hs] at h; cases h
  obtain ⟨neg, m, e, hp⟩ := parts_of_not_special hs
  exact ⟨neg, m, e, hp, Option.some.inj (h.symm.trans hp.value)⟩

/-- The fraction of a special encoding tells an infinity from a NaN (R59 to R61). -/
theorem fdec_special {F : Fmt} {v : ℕ} (h : Special F v) : fdec (machineFmt F) v =
    if F.inf = true ∧ v % 2 ^ F.f = 0 then .inf (decide (v / 2 ^ (F.x + F.f) % 2 = 1))
    else .nan (decide (F.inf = true ∧ F.f ≠ 2 ∧ v % 2 ^ F.f < 2 ^ (F.f - 1))) := by
  obtain ⟨he, hinf⟩ := h
  rw [fdec_machineFmt]
  cases hi : F.inf with
  | true => simp [he]
  | false => simp_all

/-- The encoding that a mantissa of f + 1 bits and an exponent in range have stands for their number. -/
theorem value_of_encoding {F : Fmt} (hF : Proper F) {neg : Bool} {k : ℕ} {u be : ℤ} (hk : k < 2 ^ (F.f + 1)) (hu : least F ≤ u)
    (hsub : k < 2 ^ F.f → u = least F) (hbe : be = if k < 2 ^ F.f then 0 else u + F.f + F.bias)
    (hfit : be < 2 ^ F.x - 1 ∨ (F.inf = false ∧ be = 2 ^ F.x - 1 ∧ k ≠ 2 ^ (F.f + 1) - 1)) :
    let v := fsign (machineFmt F) neg + be.toNat * 2 ^ F.f + (if k < 2 ^ F.f then k else k - 2 ^ F.f)
    F.value v = some (signum neg * k * 2 ^ u) ∧ v < 2 ^ (1 + F.x + F.f) ∧ v / 2 ^ (F.x + F.f) = neg.toNat ∧ v % 2 = k % 2 := by
  have hsucc : 2 ^ (F.f + 1) = 2 ^ F.f + 2 ^ F.f := by ring
  have hx : 4 ≤ 2 ^ F.x := Nat.pow_le_pow_right two_pos hF.exponent
  have hxz : (2 : ℤ) ^ F.x = (2 ^ F.x : ℕ) := by push_cast; rfl
  rw [hxz] at hfit
  have hleast : least F + F.f + F.bias = 1 := by unfold least; ring
  set c := if k < 2 ^ F.f then k else k - 2 ^ F.f with hcdef
  have hc : c < 2 ^ F.f := by rw [hcdef]; split <;> omega
  have hbe0 : 0 ≤ be := by rw [hbe]; split <;> omega
  have hE : be.toNat < 2 ^ F.x := by omega
  intro v
  obtain ⟨hsign, hexp, hfrac, hlt⟩ := fields_of_encoding (neg := neg) hE hc
  have hns : ¬ Special F v := by
    rintro ⟨h1, h2⟩
    rw [hexp] at h1
    rw [hfrac] at h2
    obtain hlow | ⟨hinf, htop, hne⟩ := hfit
    · omega
    · have hnorm : ¬ k < 2 ^ F.f := fun hs => by rw [if_pos hs] at hbe; omega
      rw [hcdef, if_neg hnorm, hinf] at h2
      rcases h2 with h2 | h2
      · cases h2
      · omega
  refine ⟨?_, hlt, hsign, ?_⟩
  · rw [value_number hns, hsign, hexp, hfrac, mul_assoc]
    have hneg : decide (neg.toNat % 2 = 1) = neg := by cases neg <;> rfl
    rw [hneg]
    congr 2
    by_cases hs : k < 2 ^ F.f
    · rw [if_pos hs] at hbe
      rw [hcdef, if_pos hs, hbe, hsub hs]
      rfl
    · rw [if_neg hs] at hbe
      rw [if_neg (by omega), hcdef, if_neg hs, Nat.add_sub_cancel' (not_lt.mp hs), Int.toNat_of_nonneg hbe0, hbe]
      congr 2
      ring
  · have heven : ∀ n, 2 ^ (n + F.f) % 2 = 0 := fun n => by
      rw [Nat.pow_mod, Nat.mod_self, zero_pow (by have := hF.fraction; omega), Nat.zero_mod]
    have hv : v = neg.toNat * 2 ^ (F.x + F.f) + be.toNat * 2 ^ F.f + c := by rw [← fsign_eq]
    have hf := heven 0
    rw [zero_add] at hf
    rw [hv, Nat.add_mod, Nat.add_mod (neg.toNat * _), Nat.mul_mod, heven, Nat.mul_mod be.toNat, hf, hcdef]
    split
    · simp
    · simp; omega

/-! The magnitudes of a format, and the one after the largest. -/

/-- A multiple of a power of two with no more than f + 1 bits, and none below the last bit of a subnormal number: a value of the
format, had its exponents no end. -/
def OnGrid (F : Fmt) (v : ℝ) : Prop := ∃ (c : ℕ) (E : ℤ), c < 2 ^ (F.f + 1) ∧ least F ≤ E ∧ v = c * 2 ^ E

theorem OnGrid.nonneg {F : Fmt} {v : ℝ} (h : OnGrid F v) : 0 ≤ v := by
  obtain ⟨c, E, -, -, rfl⟩ := h
  positivity

theorem abs_signum (neg : Bool) : |signum neg| = 1 := by cases neg <;> simp

theorem onGrid_value {F : Fmt} {v : ℕ} {p : ℚ} (h : F.value v = some p) : OnGrid F |(p : ℝ)| := by
  obtain ⟨neg, m, e, hp, rfl⟩ := parts_of_value h
  refine ⟨m, e, hp.bound, hp.low, ?_⟩
  rw [← Rat.cast_abs, abs_mul, abs_mul, abs_signum, one_mul, Nat.abs_cast, abs_of_pos (by positivity : (0 : ℚ) < 2 ^ e)]
  push_cast
  rfl

theorem onGrid_natCast {F : Fmt} (hleast : least F ≤ 0) {n : ℕ} (h : n < 2 ^ (F.f + 1)) : OnGrid F n :=
  ⟨n, 0, h, hleast, by simp⟩

theorem onGrid_zpow {F : Fmt} (hF : Proper F) {E : ℤ} (h : least F ≤ E) : OnGrid F (2 ^ E) :=
  ⟨1, E, Nat.one_lt_two_pow (by have := hF.fraction; omega), h, by simp⟩

theorem bias_pos {F : Fmt} (hF : Proper F) : 1 ≤ F.bias := by
  have : (2 : ℤ) ^ 1 ≤ 2 ^ (F.x - 1) := pow_le_pow_right₀ (by norm_num) (by have := hF.exponent; omega)
  unfold Fmt.bias
  omega

/-- The exponents run to twice the bias and one beyond. -/
theorem two_pow_x {F : Fmt} (hF : Proper F) : (2 : ℤ) ^ F.x = 2 * F.bias + 2 := by
  obtain ⟨n, hn⟩ := Nat.exists_eq_add_of_le' (le_trans (by norm_num : 1 ≤ 2) hF.exponent)
  unfold Fmt.bias
  rw [hn, Nat.add_sub_cancel, pow_succ]
  ring

/-- The mantissa of the magnitude after the largest finite one (R68). -/
def nextMantissa (F : Fmt) : ℕ := if F.inf then 2 ^ F.f else 2 ^ (F.f + 1) - 1

theorem next_eq (F : Fmt) : F.next = nextMantissa F * 2 ^ (F.bias + 1 - F.f) := by
  have hpow : (2 : ℚ) ^ F.f ≠ 0 := by positivity
  unfold Fmt.next nextMantissa
  rw [zpow_sub₀ two_ne_zero, zpow_natCast]
  cases F.inf with
  | true => simp; field_simp
  | false =>
    have : 1 ≤ 2 ^ (F.f + 1) := Nat.one_le_two_pow
    simp only [Bool.false_eq_true, if_false, Nat.cast_sub this]
    push_cast
    field_simp
    ring

theorem onGrid_next {F : Fmt} (hF : Proper F) : OnGrid F (F.next : ℝ) := by
  refine ⟨nextMantissa F, F.bias + 1 - F.f, ?_, ?_, ?_⟩
  · have : 2 ^ (F.f + 1) = 2 ^ F.f + 2 ^ F.f := by ring
    have : 0 < 2 ^ F.f := by positivity
    unfold nextMantissa
    split <;> omega
  · have := bias_pos hF
    unfold least
    omega
  · rw [next_eq]; push_cast; rfl

theorem next_pos (F : Fmt) : 0 < F.next := by
  have : 0 < nextMantissa F := by
    have : 2 ^ (F.f + 1) = 2 ^ F.f + 2 ^ F.f := by ring
    have : 0 < 2 ^ F.f := by positivity
    unfold nextMantissa
    split <;> omega
  rw [next_eq]
  positivity

/-- Between the neighbours that a magnitude of 2^L or more has among the multiples of its unit, the format has no other value: each is
such a multiple or lies below 2^L. -/
theorem OnGrid.multiple_or_small {F : Fmt} {V M : ℝ} {L u : ℤ} (h : OnGrid F V) (hu : u = max L (1 - F.bias) - F.f) (hM : 2 ^ L ≤ M) :
    (∃ n : ℕ, V = n * 2 ^ u) ∨ (V < (2 ^ F.f : ℕ) * 2 ^ u ∧ (2 ^ F.f : ℕ) * 2 ^ u ≤ M) := by
  obtain ⟨c, E, hc, hE, rfl⟩ := h
  rcases le_or_gt u E with hle | hgt
  · refine .inl ⟨c * 2 ^ (E - u).toNat, ?_⟩
    push_cast
    rw [mul_assoc, ← zpow_natCast, Int.toNat_of_nonneg (by omega), ← zpow_add₀ two_ne_zero, sub_add_cancel]
  · have hL : L = u + F.f := by unfold least at hE; omega
    refine .inr ⟨?_, ?_⟩
    · have hc' : (c : ℝ) < 2 ^ (F.f + 1) := by exact_mod_cast hc
      have hE' : (2 : ℝ) ^ E ≤ 2 ^ (u - 1) := zpow_le_zpow_right₀ one_le_two (by omega)
      calc (c : ℝ) * 2 ^ E < 2 ^ (F.f + 1) * 2 ^ E := by gcongr
        _ ≤ 2 ^ (F.f + 1) * 2 ^ (u - 1) := by gcongr
        _ = (2 ^ F.f : ℕ) * 2 ^ u := by rw [zpow_sub₀ two_ne_zero, pow_succ]; push_cast; field_simp
    · rw [hL, zpow_add₀ two_ne_zero, zpow_natCast] at hM
      push_cast
      linarith

end Sys2Proof.Proofs
end

section
/-! PROOFS. `roundFp` (R68, R70, R73, R75): a magnitude rounded among the values of a format, its encoding and its flags. -/

namespace Sys2Proof.Proofs

open Sys2Proof.Machine Sys2Proof.Claim

/-- Y is the magnitude M rounded in a mode for a sign among the magnitudes of a format that its exponent range does not end;
`even` says that Y is the even one of two neighbours. -/
structure RoundedMag (F : Fmt) (mode : BitVec 3) (neg : Bool) (M Y : ℝ) (even : Prop) : Prop where
  below : ∀ V, OnGrid F V → V ≤ M → V ≤ Y
  above : ∀ V, OnGrid F V → M ≤ V → Y ≤ V
  nearest : mode = 0 ∨ mode = 4 → ∀ V, OnGrid F V → |Y - M| ≤ |V - M|
  tie : mode = 0 → ∀ V, OnGrid F V → V ≠ Y → |V - M| = |Y - M| → even
  away : mode = 4 → ∀ V, OnGrid F V → |V - M| = |Y - M| → V ≤ Y
  toward : mode = 1 ∨ (mode = 2 ∧ neg = false) ∨ (mode = 3 ∧ neg = true) → Y ≤ M
  outward : (mode = 2 ∧ neg = true) ∨ (mode = 3 ∧ neg = false) → M ≤ Y

section
variable {mode : BitVec 3} {neg inexact : Bool} {x : ℝ} {k : ℕ}

theorem RoundsTo.below_natCast (h : RoundsTo mode neg x k inexact) {n : ℕ} (hn : n ≤ x) : n ≤ k := by
  have := (abs_lt.mp h.near).1
  have hlt : (n : ℝ) < (k + 1 : ℕ) := by push_cast; linarith
  exact Nat.lt_succ_iff.mp (by exact_mod_cast hlt)

theorem RoundsTo.above_natCast (h : RoundsTo mode neg x k inexact) {n : ℕ} (hn : x ≤ n) : k ≤ n := by
  have := (abs_lt.mp h.near).2
  have hlt : (k : ℝ) < (n + 1 : ℕ) := by push_cast; linarith
  exact Nat.lt_succ_iff.mp (by exact_mod_cast hlt)

/-- Two natural numbers that differ lie one apart or more, so their distances from x add up to one or more. -/
theorem one_le_dist_add_dist {n k : ℕ} (h : n ≠ k) (x : ℝ) : 1 ≤ |(n : ℝ) - x| + |(k : ℝ) - x| := by
  have h1 : (1 : ℝ) ≤ |(n : ℝ) - k| := by
    have : (1 : ℤ) ≤ |(n : ℤ) - k| := Int.one_le_abs (by omega)
    exact_mod_cast this
  calc (1 : ℝ) ≤ |(n : ℝ) - k| := h1
    _ = |((n : ℝ) - x) - (k - x)| := by ring_nf
    _ ≤ |(n : ℝ) - x| + |(k : ℝ) - x| := abs_sub _ _

theorem RoundsTo.nearest_natCast (h : RoundsTo mode neg x k inexact) (hm : mode = 0 ∨ mode = 4) (n : ℕ) :
    |(k : ℝ) - x| ≤ |(n : ℝ) - x| := by
  rcases eq_or_ne n k with rfl | hne
  · rfl
  · linarith [h.nearest hm, one_le_dist_add_dist hne x]

theorem RoundsTo.tie_natCast (h : RoundsTo mode neg x k inexact) (hm : mode = 0 ∨ mode = 4) {n : ℕ} (hne : n ≠ k)
    (heq : |(n : ℝ) - x| = |(k : ℝ) - x|) : |(k : ℝ) - x| = 1 / 2 := by
  linarith [h.nearest hm, one_le_dist_add_dist hne x]

theorem RoundsTo.away_natCast (h : RoundsTo mode neg x k inexact) (hm : mode = 4) {n : ℕ}
    (heq : |(n : ℝ) - x| = |(k : ℝ) - x|) : n ≤ k := by
  rcases eq_or_ne n k with rfl | hne
  · rfl
  · have hhalf := h.tie_natCast (.inr hm) hne heq
    have hx := h.away hm hhalf
    rw [hhalf] at heq
    rw [abs_of_nonneg (by linarith)] at hhalf
    have : (n : ℝ) ≤ k := by linarith [(abs_le.mp heq.le).2]
    exact_mod_cast this

end

/-- A multiple of the unit that a magnitude's size gives, rounded, is rounded among all values of the format. -/
theorem RoundsTo.roundedMag {F : Fmt} {mode : BitVec 3} {neg inexact : Bool} {M : ℝ} {k : ℕ} {L u : ℤ}
    (h : RoundsTo mode neg (M / 2 ^ u) k inexact) (hu : u = max L (1 - F.bias) - F.f) (hM : 2 ^ L ≤ M) :
    RoundedMag F mode neg M (k * 2 ^ u) (k % 2 = 0) := by
  have hp : (0 : ℝ) < 2 ^ u := by positivity
  have hcases : ∀ V, OnGrid F V → (∃ n : ℕ, V = n * 2 ^ u) ∨ (V < (2 ^ F.f : ℕ) * 2 ^ u ∧ (2 ^ F.f : ℕ) * 2 ^ u ≤ M) :=
    fun V hV => hV.multiple_or_small hu hM
  obtain ⟨x, rfl⟩ : ∃ x, M = x * 2 ^ u := ⟨M / 2 ^ u, by field_simp⟩
  rw [mul_div_cancel_right₀ _ hp.ne'] at h
  have hdist : ∀ y : ℝ, |y * 2 ^ u - x * 2 ^ u| = |y - x| * 2 ^ u := fun y => by rw [← sub_mul, abs_mul, abs_of_pos hp]
  -- a value below the smallest multiple that has f + 1 bits is beaten by that multiple
  have hsmall : ∀ V, V < ((2 ^ F.f : ℕ) : ℝ) * 2 ^ u → ((2 ^ F.f : ℕ) : ℝ) * 2 ^ u ≤ x * 2 ^ u →
      |((2 ^ F.f : ℕ) : ℝ) * 2 ^ u - x * 2 ^ u| < |V - x * 2 ^ u| := by
    intro V h1 h2
    rw [abs_of_nonpos (by linarith), abs_of_neg (by linarith)]
    linarith
  constructor
  case below =>
    intro V hV hle
    obtain ⟨n, rfl⟩ | ⟨h1, h2⟩ := hcases V hV
    · have := h.below_natCast (le_of_mul_le_mul_right hle hp)
      gcongr
    · have := h.below_natCast (le_of_mul_le_mul_right h2 hp)
      calc V ≤ (2 ^ F.f : ℕ) * 2 ^ u := h1.le
        _ ≤ k * 2 ^ u := by gcongr
  case above =>
    intro V hV hle
    obtain ⟨n, rfl⟩ | ⟨h1, h2⟩ := hcases V hV
    · have := h.above_natCast (le_of_mul_le_mul_right hle hp)
      gcongr
    · linarith
  case nearest =>
    intro hm V hV
    obtain ⟨n, rfl⟩ | ⟨h1, h2⟩ := hcases V hV
    · rw [hdist, hdist]
      have := h.nearest_natCast hm n
      gcongr
    · refine le_trans ?_ (hsmall V h1 h2).le
      rw [hdist, hdist]
      have := h.nearest_natCast hm (2 ^ F.f)
      gcongr
  case tie =>
    intro hm V hV hne heq
    obtain ⟨n, rfl⟩ | ⟨h1, h2⟩ := hcases V hV
    · rw [hdist, hdist] at heq
      have heq' := mul_right_cancel₀ hp.ne' heq
      exact h.even hm (h.tie_natCast (.inl hm) (fun hnk => hne (by rw [hnk])) heq')
    · have hlt := hsmall V h1 h2
      rw [heq, hdist, hdist] at hlt
      exact absurd (h.nearest_natCast (.inl hm) (2 ^ F.f)) (not_le.mpr (lt_of_mul_lt_mul_right hlt hp.le))
  case away =>
    intro hm V hV heq
    obtain ⟨n, rfl⟩ | ⟨h1, h2⟩ := hcases V hV
    · rw [hdist, hdist] at heq
      have := h.away_natCast hm (mul_right_cancel₀ hp.ne' heq)
      gcongr
    · have hlt := hsmall V h1 h2
      rw [heq, hdist, hdist] at hlt
      exact absurd (h.nearest_natCast (.inr hm) (2 ^ F.f)) (not_le.mpr (lt_of_mul_lt_mul_right hlt hp.le))
  case toward => exact fun hm => mul_le_mul_of_nonneg_right (h.toward hm) hp.le
  case outward => exact fun hm => mul_le_mul_of_nonneg_right (h.outward hm) hp.le

/-- The unit of `roundFp`. -/
def unitOf (F : Fmt) (m : ℕ) (e : ℤ) : ℤ := max (e + (m.log2 : ℤ)) (1 - F.bias) - (F.f : ℤ)

/-- The second half of `roundFp`: the encoding and the flags of a rounded mantissa in units of 2^u. -/
def encodeRounded (F : Fmt) (mode : BitVec 3) (sat neg : Bool) (k0 : ℕ) (inexact : Bool) (u : ℤ) : ℕ × BitVec 6 :=
  let carry := decide (k0 = 2 ^ (F.f + 1))
  let k := if carry then 2 ^ F.f else k0
  let u' := if carry then u + 1 else u
  let be : ℤ := if k < 2 ^ F.f then 0 else u' + (F.f : ℤ) + F.bias
  let big : Bool := if F.inf then decide (be ≥ 2 ^ F.x - 1)
    else decide (be > 2 ^ F.x - 1 ∨ (be = 2 ^ F.x - 1 ∧ k = 2 ^ (F.f + 1) - 1))
  if big then (overflowTo (machineFmt F) mode sat neg, fOF ||| fNX)
  else
    (fsign (machineFmt F) neg + be.toNat * 2 ^ F.f + (if k < 2 ^ F.f then k else k - 2 ^ F.f),
      if inexact then (if decide (be = 0) && decide (k ≠ 0) then fUF ||| fNX else fNX) else 0)

theorem roundFp_zero (t : FpFmt) (mode : BitVec 3) (sat neg : Bool) (e : ℤ) (sticky : Bool) (r : BitVec 32) (d : Option ℕ) :
    roundFp t mode sat neg 0 e sticky r d = (fsign t neg, 0) := rfl

theorem roundFp_eq (F : Fmt) (mode : BitVec 3) (sat neg : Bool) {m : ℕ} (hm : m ≠ 0) (e : ℤ) (sticky : Bool) (r : BitVec 32)
    (d : Option ℕ) : roundFp (machineFmt F) mode sat neg m e sticky r d =
      encodeRounded F mode sat neg (roundMag mode neg m e sticky (unitOf F m e) r (d.getD (unitOf F m e - e).toNat)).1
        (roundMag mode neg m e sticky (unitOf F m e) r (d.getD (unitOf F m e - e).toNat)).2 (unitOf F m e) := by
  rw [roundFp, if_neg hm]
  rfl

/-- What an overflow gives (R68, R75). -/
structure Overflows (F : Fmt) (mode : BitVec 3) (sat neg : Bool) (k : ℕ) (u : ℤ) (o : ℕ × BitVec 6) : Prop where
  result : o = (overflowTo (machineFmt F) mode sat neg, fOF ||| fNX)
  large : F.next ≤ k * 2 ^ u
  odd : (k : ℚ) * 2 ^ u = F.next → k % 2 = 0 → F.inf = true

/-- What a mantissa in range gives (R68, R73, R75). -/
structure Encodes (F : Fmt) (neg : Bool) (k : ℕ) (u : ℤ) (inexact : Bool) (o : ℕ × BitVec 6) : Prop where
  small : (k : ℚ) * 2 ^ u < F.next
  value : F.value o.1 = some (signum neg * (k * 2 ^ u))
  bits : o.1 < 2 ^ (1 + F.x + F.f)
  sign : o.1 / 2 ^ (F.x + F.f) = neg.toNat
  parity : o.1 % 2 = k % 2
  flags : o.2 = if inexact then (if (k : ℚ) * 2 ^ u < 2 ^ (1 - F.bias) ∧ k ≠ 0 then fUF ||| fNX else fNX) else 0

theorem two_pow_bias (F : Fmt) : (2 : ℚ) ^ F.f * 2 ^ least F = 2 ^ (1 - F.bias) := by
  unfold least
  rw [zpow_sub₀ two_ne_zero _ (F.f : ℤ), zpow_natCast]
  field_simp

/-- A mantissa without its top bit is that of a subnormal magnitude. -/
theorem subnormal_iff {F : Fmt} {k : ℕ} {u : ℤ} (hu : least F ≤ u) (hsub : k < 2 ^ F.f → u = least F) :
    (k : ℚ) * 2 ^ u < 2 ^ (1 - F.bias) ↔ k < 2 ^ F.f := by
  rw [← two_pow_bias]
  constructor
  · intro h
    by_contra hk
    have hk' : (2 : ℚ) ^ F.f ≤ k := by exact_mod_cast not_lt.mp hk
    have hu' : (2 : ℚ) ^ least F ≤ 2 ^ u := zpow_le_zpow_right₀ one_le_two hu
    exact absurd h (not_lt.mpr (by gcongr))
  · intro h
    have hk' : (k : ℚ) < 2 ^ F.f := by exact_mod_cast h
    rw [hsub h]
    gcongr

theorem two_pow_f_le_nextMantissa (F : Fmt) : 2 ^ F.f ≤ nextMantissa F := by
  have : 2 ^ (F.f + 1) = 2 ^ F.f + 2 ^ F.f := by ring
  have : 0 < 2 ^ F.f := by positivity
  unfold nextMantissa
  split <;> omega

/-- A mantissa in units that are not those of the magnitude after the largest stands for a smaller one. -/
theorem lt_next_of_unit {F : Fmt} {k : ℕ} {u : ℤ} (hk : k < 2 ^ (F.f + 1)) (hu : u ≤ F.bias - F.f) : (k : ℚ) * 2 ^ u < F.next := by
  have hk' : (k : ℚ) < 2 ^ (F.f + 1) := by exact_mod_cast hk
  have hu' : (2 : ℚ) ^ u ≤ 2 ^ (F.bias - F.f) := zpow_le_zpow_right₀ one_le_two hu
  have hn : (2 : ℚ) ^ F.f ≤ nextMantissa F := by exact_mod_cast two_pow_f_le_nextMantissa F
  calc (k : ℚ) * 2 ^ u < 2 ^ (F.f + 1) * 2 ^ u := by gcongr
    _ ≤ 2 ^ (F.f + 1) * 2 ^ (F.bias - F.f) := by gcongr
    _ = 2 ^ F.f * 2 ^ (F.bias + 1 - F.f) := by
      rw [add_sub_right_comm, zpow_add₀ two_ne_zero _ 1, pow_succ, zpow_one]; ring
    _ ≤ nextMantissa F * 2 ^ (F.bias + 1 - F.f) := by gcongr
    _ = F.next := (next_eq F).symm

/-- A mantissa of f + 1 bits in units beyond those of the magnitude after the largest stands for a larger one. -/
theorem next_lt_of_unit {F : Fmt} {k : ℕ} {u : ℤ} (hk : 2 ^ F.f ≤ k) (hu : F.bias + 1 - F.f < u) : F.next < (k : ℚ) * 2 ^ u := by
  have hk' : (2 : ℚ) ^ F.f ≤ k := by exact_mod_cast hk
  have hu' : (2 : ℚ) ^ (F.bias + 1 - F.f + 1) ≤ 2 ^ u := zpow_le_zpow_right₀ one_le_two (by omega)
  have hlt : nextMantissa F < 2 ^ (F.f + 1) := by
    have : 2 ^ (F.f + 1) = 2 ^ F.f + 2 ^ F.f := by ring
    have : 0 < 2 ^ F.f := by positivity
    unfold nextMantissa
    split <;> omega
  have hn : (nextMantissa F : ℚ) < 2 ^ (F.f + 1) := by exact_mod_cast hlt
  calc F.next = nextMantissa F * 2 ^ (F.bias + 1 - F.f) := next_eq F
    _ < 2 ^ (F.f + 1) * 2 ^ (F.bias + 1 - F.f) := by gcongr
    _ = 2 ^ F.f * 2 ^ (F.bias + 1 - F.f + 1) := by rw [zpow_add₀ two_ne_zero _ 1, pow_succ, zpow_one]; ring
    _ ≤ k * 2 ^ u := by gcongr

/-- Where the rounded mantissa has f + 1 bits or fewer, it overflows or is encoded as it is. -/
theorem encodeRounded_of_lt {F : Fmt} (hF : Proper F) (mode : BitVec 3) (sat neg inexact : Bool) {k : ℕ} {u : ℤ}
    (hk : k < 2 ^ (F.f + 1)) (hu : least F ≤ u) (hsub : k < 2 ^ F.f → u = least F) :
    Overflows F mode sat neg k u (encodeRounded F mode sat neg k inexact u) ∨
    Encodes F neg k u inexact (encodeRounded F mode sat neg k inexact u) := by
  have hx := two_pow_x hF
  have hbias := bias_pos hF
  have hleast : least F = 1 - F.bias - F.f := rfl
  have hsubnormal := subnormal_iff hu hsub
  set be : ℤ := if k < 2 ^ F.f then 0 else u + F.f + F.bias with hbe
  -- the exponent field is in range, or is the last one of a format without infinities and not its NaN
  by_cases hfit : be < 2 ^ F.x - 1 ∨ (F.inf = false ∧ be = 2 ^ F.x - 1 ∧ k ≠ 2 ^ (F.f + 1) - 1)
  · have hbig : (if F.inf then decide (be ≥ 2 ^ F.x - 1)
        else decide (be > 2 ^ F.x - 1 ∨ (be = 2 ^ F.x - 1 ∧ k = 2 ^ (F.f + 1) - 1))) = false := by
      cases hi : F.inf with
      | true =>
        have hlow : be < 2 ^ F.x - 1 := by simpa [hi] using hfit
        simp only [if_true, decide_eq_false_iff_not]
        omega
      | false =>
        have hlow : be < 2 ^ F.x - 1 ∨ (be = 2 ^ F.x - 1 ∧ k ≠ 2 ^ (F.f + 1) - 1) := by simpa [hi] using hfit
        simp only [Bool.false_eq_true, if_false, decide_eq_false_iff_not]
        omega
    have henc : encodeRounded F mode sat neg k inexact u =
        (fsign (machineFmt F) neg + be.toNat * 2 ^ F.f + (if k < 2 ^ F.f then k else k - 2 ^ F.f),
          if inexact then (if decide (be = 0) && decide (k ≠ 0) then fUF ||| fNX else fNX) else 0) := by
      simp only [encodeRounded, hk.ne, decide_false, Bool.false_eq_true, if_false, ← hbe, hbig]
    obtain ⟨hvalue, hbits, hsign, hparity⟩ := value_of_encoding hF (neg := neg) hk hu hsub hbe hfit
    rw [henc]
    refine .inr ⟨?_, by rw [hvalue, mul_assoc], hbits, hsign, hparity, ?_⟩
    · rcases le_or_gt u (F.bias - F.f) with hle | hgt
      · exact lt_next_of_unit hk hle
      · have hnorm : ¬ k < 2 ^ F.f := fun hs => by have := hsub hs; omega
        rw [if_neg hnorm] at hbe
        obtain hlow | ⟨hi, htop, hne⟩ := hfit
        · omega
        · have hn : nextMantissa F = 2 ^ (F.f + 1) - 1 := by rw [nextMantissa, hi]; rfl
          have hlt : (k : ℚ) < nextMantissa F := by rw [hn]; exact_mod_cast (by omega : k < 2 ^ (F.f + 1) - 1)
          have hu' : u = F.bias + 1 - F.f := by omega
          rw [next_eq, hu']
          gcongr
    · have hzero : be = 0 ↔ k < 2 ^ F.f := by
        rw [hbe]
        split <;> simp_all
        omega
      simp only [hsubnormal, ← hzero, Bool.and_eq_true, decide_eq_true_eq]
  · have htop : 2 ^ F.x - 1 ≤ be := by omega
    have hnorm : ¬ k < 2 ^ F.f := fun hs => by rw [if_pos hs] at hbe; omega
    rw [if_neg hnorm] at hbe
    have hbig : (if F.inf then decide (be ≥ 2 ^ F.x - 1)
        else decide (be > 2 ^ F.x - 1 ∨ (be = 2 ^ F.x - 1 ∧ k = 2 ^ (F.f + 1) - 1))) = true := by
      cases hi : F.inf with
      | true => simpa using htop
      | false =>
        have hhigh : be = 2 ^ F.x - 1 → k = 2 ^ (F.f + 1) - 1 := fun he => by
          by_contra hne
          exact hfit (.inr ⟨hi, he, hne⟩)
        simp only [Bool.false_eq_true, if_false, decide_eq_true_eq]
        omega
    have henc : encodeRounded F mode sat neg k inexact u = (overflowTo (machineFmt F) mode sat neg, fOF ||| fNX) := by
      simp only [encodeRounded, hk.ne, decide_false, Bool.false_eq_true, if_false, hnorm, ← hbe, hbig, if_true]
    left
    rcases eq_or_lt_of_le htop with heq | hlt
    · have hu' : u = F.bias + 1 - F.f := by omega
      have hn : nextMantissa F ≤ k := by
        cases hi : F.inf with
        | true => simpa [nextMantissa, hi] using not_lt.mp hnorm
        | false =>
          have : k = 2 ^ (F.f + 1) - 1 := by
            by_contra hne
            exact hfit (.inr ⟨hi, heq.symm, hne⟩)
          simp [nextMantissa, hi, this]
      refine ⟨henc, ?_, fun hval heven => ?_⟩
      · have hn' : (nextMantissa F : ℚ) ≤ k := by exact_mod_cast hn
        rw [next_eq, hu']
        gcongr
      · by_contra hi
        have hi' : F.inf = false := by simpa using hi
        rw [next_eq, hu'] at hval
        have hk' : k = nextMantissa F := by exact_mod_cast mul_right_cancel₀ (by positivity) hval
        have : 2 ^ (F.f + 1) = 2 * 2 ^ F.f := by ring
        have : 0 < 2 ^ F.f := by positivity
        rw [nextMantissa, hi'] at hk'
        simp only [Bool.false_eq_true, if_false] at hk'
        omega
    · have hlt' := next_lt_of_unit (F := F) (u := u) (not_lt.mp hnorm) (by omega)
      exact ⟨henc, hlt'.le, fun hval => absurd hval hlt'.ne'⟩

/-- A carry out of the mantissa is one more in the exponent. -/
theorem encodeRounded_carry (F : Fmt) (mode : BitVec 3) (sat neg inexact : Bool) (u : ℤ) :
    encodeRounded F mode sat neg (2 ^ (F.f + 1)) inexact u = encodeRounded F mode sat neg (2 ^ F.f) inexact (u + 1) := by
  have hne : 2 ^ F.f ≠ 2 ^ (F.f + 1) := (Nat.pow_lt_pow_succ one_lt_two).ne
  simp only [encodeRounded, decide_true, if_true, hne, decide_false, Bool.false_eq_true, if_false]

theorem encodeRounded_spec {F : Fmt} (hF : Proper F) (mode : BitVec 3) (sat neg inexact : Bool) {k : ℕ} {u : ℤ}
    (hk : k ≤ 2 ^ (F.f + 1)) (hu : least F ≤ u) (hsub : k < 2 ^ F.f → u = least F) :
    Overflows F mode sat neg k u (encodeRounded F mode sat neg k inexact u) ∨
    Encodes F neg k u inexact (encodeRounded F mode sat neg k inexact u) := by
  rcases hk.lt_or_eq with hlt | rfl
  · exact encodeRounded_of_lt hF mode sat neg inexact hlt hu hsub
  · have hval : ((2 ^ (F.f + 1) : ℕ) : ℚ) * 2 ^ u = ((2 ^ F.f : ℕ) : ℚ) * 2 ^ (u + 1) := by
      rw [zpow_add₀ two_ne_zero, pow_succ, zpow_one]; push_cast; ring
    have heven : ∀ n, n ≠ 0 → 2 ^ n % 2 = 0 := fun n hn => by rw [Nat.pow_mod, Nat.mod_self, zero_pow hn, Nat.zero_mod]
    have hparity : 2 ^ (F.f + 1) % 2 = 2 ^ F.f % 2 := by
      rw [heven _ (by omega), heven _ (by have := hF.fraction; omega)]
    have hne : ∀ n, 2 ^ n ≠ 0 := fun n => by positivity
    rw [encodeRounded_carry]
    refine (encodeRounded_of_lt hF mode sat neg inexact (k := 2 ^ F.f) (u := u + 1) (Nat.pow_lt_pow_succ one_lt_two) (by omega)
      (fun h => absurd h (lt_irrefl _))).imp (fun h => ?_) (fun h => ?_)
    · exact ⟨h.result, by rw [hval]; exact h.large, by rw [hval, hparity]; exact h.odd⟩
    · refine ⟨by rw [hval]; exact h.small, by rw [hval]; exact h.value, h.bits, h.sign, by rw [hparity]; exact h.parity, ?_⟩
      rw [h.flags, hval]
      simp only [hne, ne_eq, not_false_eq_true, and_true]

/-- What a mantissa and a sticky bit stand for lies between consecutive powers of two. -/
theorem StandsFor.size {m : ℕ} {e u : ℤ} {sticky : Bool} {M : ℝ} (h : StandsFor m e sticky u M) (hm : m ≠ 0) :
    2 ^ (e + m.log2) ≤ M ∧ M ≤ 2 ^ (e + m.log2 + 1) := by
  have he : (0 : ℝ) < 2 ^ e := by positivity
  have hlo : (2 : ℝ) ^ m.log2 ≤ m := by exact_mod_cast Nat.log2_self_le hm
  have hhi : (m : ℝ) + 1 ≤ 2 ^ (m.log2 + 1) := by exact_mod_cast Nat.lt_log2_self
  have hmM : (m : ℝ) * 2 ^ e ≤ M := by
    cases sticky with
    | false => exact (h.exact rfl).ge
    | true => exact (h.above rfl).le
  have hMm : M ≤ (m + 1) * 2 ^ e := by
    cases sticky with
    | false => rw [h.exact rfl]; linarith
    | true =>
      have hb := h.below rfl
      split at hb
      case isTrue => linarith
      case isFalse hu =>
        have : (2 : ℝ) ^ u ≤ 2 ^ e := zpow_le_zpow_right₀ one_le_two (by omega)
        have : (0 : ℝ) < 2 ^ u := by positivity
        linarith
  rw [add_assoc, zpow_add₀ two_ne_zero, zpow_add₀ two_ne_zero e, zpow_natCast]
  have hcast : (2 : ℝ) ^ ((m.log2 : ℤ) + 1) = 2 ^ (m.log2 + 1) := by exact_mod_cast zpow_natCast (2 : ℝ) (m.log2 + 1)
  rw [hcast]
  constructor
  · calc (2 : ℝ) ^ e * 2 ^ m.log2 ≤ 2 ^ e * m := by gcongr
      _ ≤ M := by linarith
  · calc M ≤ (m + 1) * 2 ^ e := hMm
      _ ≤ 2 ^ (m.log2 + 1) * 2 ^ e := by gcongr
      _ = 2 ^ e * 2 ^ (m.log2 + 1) := mul_comm _ _

/-- The result o is the magnitude M rounded for a sign to a multiple of 2^u, and encoded or overflowed. -/
structure RoundsMag (F : Fmt) (mode : BitVec 3) (sat neg : Bool) (u : ℤ) (M : ℝ) (k : ℕ) (inexact : Bool) (o : ℕ × BitVec 6) : Prop where
  mag : RoundedMag F mode neg M (k * 2 ^ u) (k % 2 = 0)
  exact : inexact = false ↔ (k : ℝ) * 2 ^ u = M
  result : Overflows F mode sat neg k u o ∨ Encodes F neg k u inexact o

/-- `roundFp` rounds a magnitude that its mantissa is rounded like, where both have one unit. -/
theorem roundsMag_of_roundsTo {F : Fmt} (hF : Proper F) {mode : BitVec 3} {sat neg sticky : Bool} {m : ℕ} (hm : m ≠ 0) {e L : ℤ}
    {r : BitVec 32} {d : Option ℕ} {M : ℝ} (hunit : unitOf F m e = max L (1 - F.bias) - F.f) (hlo : 2 ^ L ≤ M) (hhi : M ≤ 2 ^ (L + 1))
    (hto : RoundsTo mode neg (M / 2 ^ unitOf F m e) (roundMag mode neg m e sticky (unitOf F m e) r (d.getD (unitOf F m e - e).toNat)).1
      (roundMag mode neg m e sticky (unitOf F m e) r (d.getD (unitOf F m e - e).toNat)).2) :
    RoundsMag F mode sat neg (unitOf F m e) M (roundMag mode neg m e sticky (unitOf F m e) r (d.getD (unitOf F m e - e).toNat)).1
      (roundMag mode neg m e sticky (unitOf F m e) r (d.getD (unitOf F m e - e).toNat)).2
      (roundFp (machineFmt F) mode sat neg m e sticky r d) := by
  have hmag := hto.roundedMag (F := F) hunit hlo
  rw [roundFp_eq F mode sat neg hm]
  generalize roundMag mode neg m e sticky (unitOf F m e) r (d.getD (unitOf F m e - e).toNat) = q at *
  generalize unitOf F m e = u at *
  have hleast : least F = 1 - F.bias - F.f := rfl
  have hp : (0 : ℝ) < 2 ^ u := by positivity
  have hpow : ∀ n : ℕ, ((2 ^ n : ℕ) : ℝ) * 2 ^ u = 2 ^ (u + n) := fun n => by
    rw [zpow_add₀ two_ne_zero, zpow_natCast]; push_cast; ring
  refine ⟨hmag, ?_, encodeRounded_spec hF mode sat neg q.2 ?_ (by omega) fun hs => ?_⟩
  · rw [hto.exact, eq_div_iff hp.ne']
  · have hle : (2 : ℝ) ^ (L + 1) ≤ 2 ^ (u + (F.f + 1 : ℕ)) := zpow_le_zpow_right₀ one_le_two (by push_cast; omega)
    have := hmag.above _ (onGrid_zpow hF (by push_cast; omega)) (hhi.trans hle)
    rw [← hpow] at this
    exact_mod_cast le_of_mul_le_mul_right this hp
  · by_contra hne
    have hu : L = u + F.f := by omega
    have := hmag.below _ (onGrid_zpow hF (by omega)) (hu ▸ hlo)
    rw [← hpow] at this
    have : 2 ^ F.f ≤ q.1 := by exact_mod_cast le_of_mul_le_mul_right this hp
    omega

/-- `roundFp` rounds the magnitude that it is given, and a sticky bit makes it inexact. -/
theorem roundFp_roundsMag {F : Fmt} (hF : Proper F) {mode : BitVec 3} {sat neg sticky : Bool} {m : ℕ} (hm : m ≠ 0) {e : ℤ} {r : BitVec 32}
    {d : Option ℕ} {M : ℝ} (hM : StandsFor m e sticky (unitOf F m e) M) :
    ∃ k inexact, RoundsMag F mode sat neg (unitOf F m e) M k inexact (roundFp (machineFmt F) mode sat neg m e sticky r d) ∧
      (sticky = true → inexact = true) := by
  obtain ⟨hlo, hhi⟩ := hM.size hm
  refine ⟨_, _, roundsMag_of_roundsTo hF hm rfl hlo hhi (roundMag_roundsTo hM), ?_⟩
  rintro rfl
  simp [roundMag]

end Sys2Proof.Proofs
end

section
/-! PROOFS. `Rounds` (R68, R73, R75): what `roundFp` gives is its number rounded once in each mode, flags and overflow included. -/

namespace Sys2Proof.Proofs

open Sys2Proof.Machine Sys2Proof.Claim

/-- Magnitudes rounded for a sign are numbers rounded. -/
theorem RoundedMag.nearest_of_sign {F : Fmt} {mode : BitVec 3} {neg : Bool} {M Y : ℝ} {even : Prop} (h : RoundedMag F mode neg M Y even)
    (hF : Proper F) (hM : 0 < M) (hY : 0 ≤ Y) {z : ℝ} (hz : z = signum neg * M) {y : ℚ} (hy : (y : ℝ) = signum neg * Y) :
    Nearest F mode z even y := by
  intro u hu
  have hgrid : OnGrid F |(u : ℝ)| := by
    obtain ⟨w, hw⟩ | hw := hu
    · exact onGrid_value hw
    · rw [← Rat.cast_abs, hw]; exact onGrid_next hF
  -- the candidate in the direction of the sign
  obtain ⟨W, hW⟩ : ∃ W : ℝ, (u : ℝ) = signum neg * W := ⟨signum neg * u, by cases neg <;> simp⟩
  have hs : |((signum neg : ℚ) : ℝ)| = 1 := by rw [← Rat.cast_abs, abs_signum, Rat.cast_one]
  have hdist : ∀ a b : ℝ, |(signum neg : ℝ) * a - signum neg * b| = |a - b| := fun a b => by rw [← mul_sub, abs_mul, hs, one_mul]
  have habs : ∀ a : ℝ, |(signum neg : ℝ) * a| = |a| := fun a => by rw [abs_mul, hs, one_mul]
  rw [hW, habs] at hgrid
  have hfar : |(|W|) - M| ≤ |W - M| := by
    have := abs_abs_sub_abs_le W M
    rwa [abs_of_pos hM] at this
  have hle : |W| ≤ M → |W| ≤ Y := h.below _ hgrid
  have hge : M ≤ |W| → Y ≤ |W| := h.above _ hgrid
  have hsame : mode = 0 ∨ mode = 4 → |W - M| = |Y - M| → |(|W|) - M| = |Y - M| := fun hm heq =>
    le_antisymm (heq ▸ hfar) (h.nearest hm _ hgrid)
  have hother : |W - M| = |Y - M| → W ≠ Y → |W| ≠ Y := by
    intro heq hne habsY
    rcases abs_cases W with ⟨h1, -⟩ | ⟨h1, hneg⟩
    · exact hne (h1.symm.trans habsY)
    · rw [abs_of_neg (by linarith)] at heq
      rcases abs_cases (Y - M) with ⟨h2, -⟩ | ⟨h2, -⟩ <;> linarith
  simp only [← Rat.cast_le (K := ℝ), Rat.cast_abs]
  rw [hz, hy, hW, hdist, hdist, habs, habs, habs, abs_of_pos hM, abs_of_nonneg hY]
  refine ⟨fun hm => ?_, fun hm hne heq => ?_, fun hm heq => ?_, fun hm => ?_, fun hm => ?_, fun hm => ?_, fun _ => ?_⟩
  · exact (h.nearest hm _ hgrid).trans hfar
  · have hWY : W ≠ Y := fun hWY => hne (Rat.cast_injective (α := ℝ) (by rw [hW, hy, hWY]))
    exact h.tie hm _ hgrid (hother heq hWY) (hsame (.inl hm) heq)
  · exact h.away hm _ hgrid (hsame (.inr hm) heq)
  · exact ⟨h.toward (.inl hm), hle⟩
  · cases neg with
    | false =>
      simp only [signum_false, Rat.cast_one, one_mul]
      refine ⟨h.toward (.inr (.inl ⟨hm, rfl⟩)), fun hWM => ?_⟩
      rcases abs_cases W with ⟨h1, -⟩ | ⟨-, h1⟩
      · exact h1 ▸ hle (h1.le.trans hWM)
      · linarith
    | true =>
      simp only [signum_true, Rat.cast_neg, Rat.cast_one, neg_one_mul, neg_le_neg_iff]
      exact ⟨h.outward (.inl ⟨hm, rfl⟩), fun hWM => by rw [abs_of_pos (by linarith)] at hge; exact hge hWM⟩
  · cases neg with
    | false =>
      simp only [signum_false, Rat.cast_one, one_mul]
      exact ⟨h.outward (.inr ⟨hm, rfl⟩), fun hWM => by rw [abs_of_pos (by linarith)] at hge; exact hge hWM⟩
    | true =>
      simp only [signum_true, Rat.cast_neg, Rat.cast_one, neg_one_mul, neg_le_neg_iff]
      refine ⟨h.toward (.inr (.inr ⟨hm, rfl⟩)), fun hWM => ?_⟩
      rcases abs_cases W with ⟨h1, -⟩ | ⟨-, h1⟩
      · exact h1 ▸ hle (h1.le.trans hWM)
      · linarith
  · have hbetween : ¬ (min Y M < W ∧ W < max Y M) := by
      rintro ⟨h1, h2⟩
      have hpos : 0 < W := lt_of_le_of_lt (le_min hY hM.le) h1
      rw [abs_of_pos hpos] at hle hge
      rcases le_total W M with hWM | hWM
      · have := hle hWM
        rcases lt_max_iff.mp h2 with h3 | h3 <;> rcases min_lt_iff.mp h1 with h4 | h4 <;> linarith
      · have := hge hWM
        rcases lt_max_iff.mp h2 with h3 | h3 <;> rcases min_lt_iff.mp h1 with h4 | h4 <;> linarith
    cases neg with
    | false => simpa using hbetween
    | true =>
      simp only [signum_true, Rat.cast_neg, Rat.cast_one, neg_one_mul, min_neg_neg, max_neg_neg, neg_lt_neg_iff]
      exact fun ⟨h1, h2⟩ => hbetween ⟨h2, h1⟩

/-- The overflow row of R68. -/
theorem overflowTo_eq (t : FpFmt) (mode : BitVec 3) (sat neg : Bool) : overflowTo t mode sat neg =
    if sat = true ∨ mode = 1 ∨ (mode = 2 ∧ neg = false) ∨ (mode = 3 ∧ neg = true) then fmax t neg
    else if t.inf then finf t neg else canonNaN t := by
  cases sat with
  | true => simp [overflowTo]
  | false => rcases mode_cases mode with rfl | rfl | rfl | rfl | rfl | rfl | rfl | rfl <;> cases neg <;> simp [overflowTo]

theorem fmax_machineFmt (F : Fmt) (neg : Bool) : fmax (machineFmt F) neg =
    (if neg = true then 2 ^ (F.x + F.f) else 0) + (if F.inf then (2 ^ F.x - 1) * 2 ^ F.f - 1 else 2 ^ (F.x + F.f) - 2) := rfl

theorem infinite_machineFmt (F : Fmt) (neg : Bool) : (if F.inf then finf (machineFmt F) neg else canonNaN (machineFmt F)) =
    if F.inf then (if neg = true then 2 ^ (F.x + F.f) else 0) + (2 ^ F.x - 1) * 2 ^ F.f else 2 ^ (F.x + F.f) - 1 := by
  cases hi : F.inf <;> simp [finf, canonNaN, fsign, hi]

/-- Results that do not overflow set NX, UF and NX, or nothing. -/
theorem flags_cases (inexact : Bool) (tiny : Prop) [Decidable tiny] :
    let w : BitVec 6 := if inexact then (if tiny then fUF ||| fNX else fNX) else 0
    w.getLsbD 2 = false ∧ w &&& 0x38 = 0 ∧ (w.getLsbD 0 = true ↔ inexact = true) ∧ (w.getLsbD 1 = true ↔ inexact = true ∧ tiny) := by
  cases inexact <;> by_cases h : tiny <;> simp [h, fUF, fNX]

/-- Zero is given as it is. -/
theorem rounds_zero {F : Fmt} (hF : Proper F) (sat neg : Bool) (mode : BitVec 3) : Rounds F sat mode 0 (fsign (machineFmt F) neg, 0) := by
  have hx : 4 ≤ 2 ^ F.x := Nat.pow_le_pow_right two_pos hF.exponent
  obtain ⟨hvalue, hbits, -, hparity⟩ := value_of_encoding hF (neg := neg) (k := 0) (be := 0) (by positivity) le_rfl (fun _ => rfl) (by simp)
    (.inl (by rw [two_pow_x hF]; have := bias_pos hF; omega))
  simp only [Int.toNat_zero, zero_mul, add_zero, Nat.cast_zero, mul_zero] at hvalue hbits hparity
  have hpos : 0 < 2 ^ F.f := by positivity
  rw [if_pos hpos, add_zero] at hvalue hbits hparity
  refine ⟨fun h => by simp at h, fun _ => ⟨?_, 0, hvalue, hbits, ?_, fun h => absurd rfl h, by simp, by simp, by simp⟩⟩
  · rw [abs_zero]
    exact_mod_cast next_pos F
  · intro u _
    simp only [Rat.cast_zero, sub_self, abs_zero, abs_nonneg, hparity]
    simpa using fun _ (h : 0 < u) => h.le

/-- A magnitude rounded for the sign of a number is that number rounded. -/
theorem RoundsMag.rounds {F : Fmt} (hF : Proper F) {mode : BitVec 3} {sat neg inexact : Bool} {u : ℤ} {k : ℕ} {o : ℕ × BitVec 6} {z : ℝ}
    (hz : z ≠ 0) (hneg : neg = decide (z < 0)) (ho : RoundsMag F mode sat neg u |z| k inexact o) : Rounds F sat mode z o := by
  obtain ⟨hmag, hexact, hcases⟩ := ho
  have hpos : 0 < |z| := abs_pos.mpr hz
  have hsign : z = signum neg * |z| := by
    rw [hneg]
    rcases lt_or_ge z 0 with h | h
    · simp [h, abs_of_neg h]
    · simp [h.not_gt, abs_of_nonneg h]
  have hYcast : ((k * 2 ^ u : ℚ) : ℝ) = k * 2 ^ u := by push_cast; rfl
  have hY0 : (0 : ℝ) ≤ k * 2 ^ u := by positivity
  have hneg' : neg = true ↔ z < 0 := by simp [hneg]
  have hpos' : neg = false ↔ 0 < z := by rw [hneg, decide_eq_false_iff_not, not_lt, hz.symm.le_iff_lt]
  refine ⟨fun hof => ?overflow, fun hof => ?inRange⟩
  case overflow =>
    obtain h | h := hcases
    · have hnext : (F.next : ℝ) ≤ k * 2 ^ u := by rw [← hYcast]; exact_mod_cast h.large
      refine ⟨by rw [h.result]; rfl, ?_, ?_⟩
      · rcases le_or_gt (F.next : ℝ) |z| with hle | hgt
        · exact .inl hle
        · have heq : (k : ℝ) * 2 ^ u = F.next := le_antisymm (hmag.above _ (onGrid_next hF) hgt.le) hnext
          have heq' : (k : ℚ) * 2 ^ u = F.next := by rw [← hYcast] at heq; exact_mod_cast heq
          rw [heq] at hmag
          have hmag' : RoundedMag F mode neg |z| F.next (F.inf = true) :=
            { hmag with tie := fun hm V hV hne hd => h.odd heq' (hmag.tie hm V hV hne hd) }
          refine .inr (hmag'.nearest_of_sign hF hpos (by exact_mod_cast (next_pos F).le) hsign ?_)
          rw [hneg]
          by_cases hlt : z < 0 <;> simp [hlt]
      · rw [h.result, overflowTo_eq, machineFmt_inf, infinite_machineFmt, fmax_machineFmt]
        simp only [hneg', hpos']
    · rw [h.flags, (flags_cases _ _).1] at hof
      cases hof
  case inRange =>
    obtain h | h := hcases
    · simp [h.result, fOF, fNX] at hof
    · have hsmall : (k : ℝ) * 2 ^ u < F.next := by rw [← hYcast]; exact_mod_cast h.small
      have hy : ((signum neg * (k * 2 ^ u) : ℚ) : ℝ) = signum neg * (k * 2 ^ u) := by push_cast; rfl
      have hinexact : inexact = true ↔ ((signum neg * (k * 2 ^ u) : ℚ) : ℝ) ≠ z := by
        rw [hy, ← Bool.not_eq_false, not_iff_not, hexact]
        conv_rhs => rw [hsign]
        rw [mul_right_inj' (by cases neg <;> simp)]
      obtain ⟨-, hinvalid, hnx, huf⟩ := flags_cases inexact ((k : ℚ) * 2 ^ u < 2 ^ (1 - F.bias) ∧ k ≠ 0)
      rw [← h.flags] at hinvalid hnx huf
      refine ⟨?_, _, h.value, h.bits, ?_, fun _ => ?_, hinvalid, hnx.trans hinexact, ?_⟩
      · by_contra hge
        exact absurd (hmag.below _ (onGrid_next hF) (not_lt.mp hge)) (not_le.mpr hsmall)
      · rw [h.parity]
        exact hmag.nearest_of_sign hF hpos hY0 hsign hy
      · rw [h.sign, hneg]
        by_cases hlt : z < 0 <;> simp [hlt]
      · have habs : |((signum neg * (k * 2 ^ u) : ℚ) : ℝ)| = k * 2 ^ u := by
          rw [← Rat.cast_abs, abs_mul, abs_signum, one_mul, abs_of_nonneg (by positivity), hYcast]
        have hk : (signum neg * (k * 2 ^ u) : ℚ) ≠ 0 ↔ k ≠ 0 := by
          have : (2 : ℚ) ^ u ≠ 0 := by positivity
          cases neg <;> simp [this]
        have htiny : (k : ℚ) * 2 ^ u < 2 ^ (1 - F.bias) ↔ (k : ℝ) * 2 ^ u < 2 ^ (1 - F.bias) := by
          rw [← Rat.cast_lt (K := ℝ), hYcast]
          push_cast
          rfl
        rw [huf, hinexact, hk, htiny, habs, and_comm (a := _ < _)]

theorem roundFp_rounds {F : Fmt} (hF : Proper F) {mode : BitVec 3} {sat neg sticky : Bool} {m : ℕ} (hm : m ≠ 0) {e : ℤ} {r : BitVec 32}
    {d : Option ℕ} {z : ℝ} (hz : z ≠ 0) (hneg : neg = decide (z < 0)) (hM : StandsFor m e sticky (unitOf F m e) |z|) :
    Rounds F sat mode z (roundFp (machineFmt F) mode sat neg m e sticky r d) := by
  obtain ⟨k, inexact, h, -⟩ := roundFp_roundsMag hF hm hM
  exact h.rounds hF hz hneg

end Sys2Proof.Proofs
end

section
/-! PROOFS. The numbers that the operations hand to `roundFp`: sums, quotients and square roots as mantissas with a sticky bit. -/

namespace Sys2Proof.Proofs

open Sys2Proof.Machine Sys2Proof.Claim

/-! The integer square root. -/

/-- Newton's iteration from x halves the distance to the root from above: enough steps reach it. -/
theorem isqrtFrom_eq_sqrt {n : ℕ} (hn : 0 < n.sqrt) : ∀ fuel x, n.sqrt ≤ x → x < n.sqrt + 2 ^ fuel → isqrtFrom n fuel x = n.sqrt
  | 0, x, hlo, hhi => by
    rw [isqrtFrom]
    omega
  | fuel + 1, x, hlo, hhi => by
    have hx : 0 < x := by omega
    have hsq : n.sqrt * n.sqrt ≤ n := Nat.sqrt_le n
    have hmean : 2 * n.sqrt ≤ x + n / x := by
      have : 2 * n.sqrt - x ≤ n / x := by
        rw [Nat.le_div_iff_mul_le hx]
        rcases le_total x (2 * n.sqrt) with h | h
        · zify [h] at *
          nlinarith [sq_nonneg ((x : ℤ) - n.sqrt)]
        · simp [Nat.sub_eq_zero_of_le h]
      omega
    have hdown : n.sqrt < x → n / x ≤ n.sqrt := fun hlt => by
      have hlt' : n < (n.sqrt + 1) * (n.sqrt + 1) := Nat.lt_succ_sqrt n
      exact Nat.lt_succ_iff.mp (Nat.div_lt_of_lt_mul (lt_of_lt_of_le hlt' (Nat.mul_le_mul_right _ hlt)))
    rw [isqrtFrom]
    split
    · have : n.sqrt < x := by omega
      have := hdown this
      rw [pow_succ] at hhi
      exact isqrtFrom_eq_sqrt hn fuel _ (by omega) (by omega)
    · by_contra hne
      have := hdown (by omega)
      omega

theorem isqrt_eq_sqrt (n : ℕ) : isqrt n = n.sqrt := by
  rw [isqrt]
  split
  case isTrue h => rw [h, Nat.sqrt_zero]
  case isFalse h =>
    have hx : n.sqrt < 2 ^ (n.log2 / 2 + 1) := by
      rw [Nat.sqrt_lt, ← pow_add]
      exact lt_of_lt_of_le Nat.lt_log2_self (Nat.pow_le_pow_right two_pos (by omega))
    have hfuel : 2 ^ (n.log2 / 2 + 1) ≤ 2 ^ (n.log2 + 2) := Nat.pow_le_pow_right two_pos (by omega)
    have hroot : 0 < n.sqrt := Nat.sqrt_pos.mpr (Nat.pos_of_ne_zero h)
    exact isqrtFrom_eq_sqrt hroot _ _ hx.le (by omega)

/-! What the operations hand over. -/

/-- A number between q and q + 1 units, in units finer than those it is rounded to. -/
theorem standsFor_of_floor {q : ℕ} {e u : ℤ} {sticky : Bool} {M : ℝ} (hlo : (q : ℝ) ≤ M / 2 ^ e) (hhi : M / 2 ^ e < q + 1)
    (hs : sticky = false ↔ (q : ℝ) = M / 2 ^ e) (hu : e < u) : StandsFor q e sticky u M := by
  have hp : (0 : ℝ) < 2 ^ e := by positivity
  rw [le_div_iff₀ hp] at hlo
  rw [div_lt_iff₀ hp] at hhi
  rw [eq_div_iff hp.ne'] at hs
  refine ⟨fun h => (hs.mp h).symm, fun h => lt_of_le_of_ne hlo fun heq => ?_, fun _ => ?_⟩
  · rw [hs.mpr heq] at h
    cases h
  · rw [if_pos hu]
    linarith

/-- A mantissa longer than the format's is in units finer than those it is rounded to. -/
theorem lt_unitOf {F : Fmt} {q : ℕ} {e : ℤ} (h : 2 ^ (F.f + 1) ≤ q) : e < unitOf F q e := by
  have : F.f + 1 ≤ q.log2 := (Nat.le_log2 (by have : 0 < 2 ^ (F.f + 1) := by positivity
                                              omega)).mpr h
  unfold unitOf
  omega

/-- The exact number, where there is no sticky bit. -/
theorem standsFor_exact (m : ℕ) (e u : ℤ) : StandsFor m e false u (m * 2 ^ e) := ⟨fun _ => rfl, nofun, nofun⟩

/-- An exact number, rounded. -/
theorem roundFp_rounds_exact {F : Fmt} (hF : Proper F) {mode : BitVec 3} {sat neg : Bool} {m : ℕ} {e : ℤ} {r : BitVec 32} {d : Option ℕ}
    {p : ℚ} (hp : p = signum neg * m * 2 ^ e) : Rounds F sat mode p (roundFp (machineFmt F) mode sat neg m e false r d) := by
  rcases Nat.eq_zero_or_pos m with rfl | hm
  · rw [roundFp_zero, hp, Nat.cast_zero, mul_zero, zero_mul, Rat.cast_zero]
    exact rounds_zero hF ..
  · have hpos : (0 : ℝ) < m * 2 ^ e := by positivity
    have hp' : (p : ℝ) = signum neg * (m * 2 ^ e) := by rw [hp]; push_cast; ring
    have hneg : neg = decide ((p : ℝ) < 0) := by
      rw [hp']
      cases neg <;> simp [hpos, hpos.le]
    refine roundFp_rounds hF hm.ne' ?_ hneg ?_
    · rw [hp']
      cases neg <;> simpa using hpos.ne'
    · have habs : |(p : ℝ)| = m * 2 ^ e := by
        rw [hp', abs_mul, ← Rat.cast_abs, abs_signum, Rat.cast_one, one_mul, abs_of_pos hpos]
      rw [habs]
      exact standsFor_exact ..

theorem pow2_mul_zpow {e e' : ℤ} (h : e ≤ e') : (pow2 (e' - e) : ℚ) * 2 ^ e = 2 ^ e' := by
  rw [pow2, Nat.cast_pow, Nat.cast_ofNat, ← zpow_natCast, Int.toNat_of_nonneg (by omega), ← zpow_add₀ two_ne_zero, sub_add_cancel]

theorem pow2_eq_zpow {e : ℤ} (h : 0 ≤ e) : (pow2 e : ℚ) = 2 ^ e := by
  have := pow2_mul_zpow h
  rwa [sub_zero, zpow_zero, mul_one] at this

/-- An integer as a sign and a magnitude. -/
theorem signum_natAbs (s : ℤ) : signum (decide (s < 0)) * (s.natAbs : ℚ) = s := by
  rcases lt_or_ge s 0 with h | h
  · rw [Nat.cast_natAbs, abs_of_neg h]
    simp [h]
  · rw [Nat.cast_natAbs, abs_of_nonneg h]
    simp [h.not_gt]

/-- The operands of `exactSum` in units of their smaller exponent. -/
def commonSum (n1 : Bool) (m1 : ℕ) (e1 : ℤ) (n2 : Bool) (m2 : ℕ) (e2 : ℤ) : ℤ :=
  (if n1 then -1 else 1) * ((m1 * pow2 (e1 - min e1 e2) : ℕ) : ℤ) + (if n2 then -1 else 1) * ((m2 * pow2 (e2 - min e1 e2) : ℕ) : ℤ)

theorem commonSum_value (n1 : Bool) (m1 : ℕ) (e1 : ℤ) (n2 : Bool) (m2 : ℕ) (e2 : ℤ) :
    (commonSum n1 m1 e1 n2 m2 e2 : ℚ) * 2 ^ min e1 e2 = signum n1 * m1 * 2 ^ e1 + signum n2 * m2 * 2 ^ e2 := by
  have hs : ∀ n : Bool, ((if n then -1 else 1 : ℤ) : ℚ) = signum n := fun n => by cases n <;> rfl
  rw [commonSum, ← pow2_mul_zpow (min_le_left e1 e2), ← pow2_mul_zpow (min_le_right e1 e2)]
  simp only [Int.cast_add, Int.cast_mul, hs, Int.cast_natCast, Nat.cast_mul]
  ring

theorem exactSum_eq (mode : BitVec 3) (n1 : Bool) (m1 : ℕ) (e1 : ℤ) (n2 : Bool) (m2 : ℕ) (e2 : ℤ) :
    exactSum mode n1 m1 e1 n2 m2 e2 =
      if commonSum n1 m1 e1 n2 m2 e2 = 0 then (if n1 = n2 then n1 else decide (mode.toNat = 2), 0, min e1 e2)
      else (decide (commonSum n1 m1 e1 n2 m2 e2 < 0), (commonSum n1 m1 e1 n2 m2 e2).natAbs, min e1 e2) := rfl

/-- The sum that `exactSum` gives is exact. -/
theorem exactSum_value (mode : BitVec 3) (n1 : Bool) (m1 : ℕ) (e1 : ℤ) (n2 : Bool) (m2 : ℕ) (e2 : ℤ) :
    signum n1 * m1 * 2 ^ e1 + signum n2 * m2 * 2 ^ e2 = signum (exactSum mode n1 m1 e1 n2 m2 e2).1 *
      (exactSum mode n1 m1 e1 n2 m2 e2).2.1 * 2 ^ (exactSum mode n1 m1 e1 n2 m2 e2).2.2 := by
  rw [exactSum_eq, ← commonSum_value]
  split
  case isTrue h => rw [h]; simp
  case isFalse h => rw [signum_natAbs]

/-- A zero that numbers of unlike signs add to is negative in mode 2 alone (R72). -/
theorem exactSum_zero (mode : BitVec 3) {n1 n2 : Bool} {m1 m2 : ℕ} {e1 e2 : ℤ} (hne : signum n1 * m1 * 2 ^ e1 ≠ 0)
    (h : signum n1 * m1 * 2 ^ e1 + signum n2 * m2 * 2 ^ e2 = 0) :
    exactSum mode n1 m1 e1 n2 m2 e2 = (decide (mode.toNat = 2), 0, min e1 e2) := by
  have hs : n1 ≠ n2 := by
    rintro rfl
    have hm1 : m1 ≠ 0 := fun h0 => hne (by simp [h0])
    have : (0 : ℚ) < m1 * 2 ^ e1 + m2 * 2 ^ e2 := by positivity
    cases n1 <;> simp only [signum_true, signum_false] at h <;> linarith
  have hz : commonSum n1 m1 e1 n2 m2 e2 = 0 := by
    rw [← commonSum_value, mul_eq_zero_iff_right (by positivity)] at h
    exact_mod_cast h
  rw [exactSum_eq, if_pos hz, if_neg hs]

/-! Quotients and roots. -/

theorem quot_eq (m1 : ℕ) (e1 : ℤ) (m2 : ℕ) (e2 : ℤ) : quot m1 e1 m2 e2 =
    (m1 * 2 ^ (81 + m2.log2) / m2, e1 - e2 - ((81 + m2.log2 : ℕ) : ℤ), decide (m1 * 2 ^ (81 + m2.log2) % m2 ≠ 0)) := rfl

/-- The quotient of two magnitudes has 80 bits or more. -/
theorem quot_large {m1 m2 : ℕ} (h1 : m1 ≠ 0) (h2 : m2 ≠ 0) : 2 ^ 80 ≤ m1 * 2 ^ (81 + m2.log2) / m2 := by
  rw [Nat.le_div_iff_mul_le (Nat.pos_of_ne_zero h2)]
  calc 2 ^ 80 * m2 ≤ 2 ^ 80 * 2 ^ (m2.log2 + 1) := Nat.mul_le_mul_left _ Nat.lt_log2_self.le
    _ = 1 * 2 ^ (81 + m2.log2) := by rw [one_mul, ← pow_add]; congr 1; ring
    _ ≤ m1 * 2 ^ (81 + m2.log2) := Nat.mul_le_mul_right _ (Nat.pos_of_ne_zero h1)

theorem standsFor_quot {F : Fmt} (hf : F.f < 80) {m1 m2 : ℕ} (h1 : m1 ≠ 0) (h2 : m2 ≠ 0) (e1 e2 : ℤ) :
    let q := quot m1 e1 m2 e2
    q.1 ≠ 0 ∧ StandsFor q.1 q.2.1 q.2.2 (unitOf F q.1 q.2.1) (m1 * 2 ^ e1 / (m2 * 2 ^ e2)) := by
  have hlarge := quot_large h1 h2
  have h2' : (0 : ℝ) < m2 := by exact_mod_cast Nat.pos_of_ne_zero h2
  simp only [quot_eq]
  generalize hs : 81 + m2.log2 = s at *
  have hvalue : (m1 : ℝ) * 2 ^ e1 / (m2 * 2 ^ e2) / 2 ^ (e1 - e2 - (s : ℤ)) = ((m1 * 2 ^ s : ℕ) : ℝ) / m2 := by
    rw [zpow_sub₀ two_ne_zero, zpow_sub₀ two_ne_zero, zpow_natCast]
    push_cast
    field_simp
  generalize m1 * 2 ^ s = n at *
  have hsplit : (n : ℝ) / m2 = (n / m2 : ℕ) + (n % m2 : ℕ) / m2 := by
    have : (n : ℝ) = (n / m2 : ℕ) * m2 + (n % m2 : ℕ) := by exact_mod_cast (Nat.div_add_mod' n m2).symm
    rw [eq_comm, add_div' _ _ _ h2'.ne', ← this]
  have hrem : ((n % m2 : ℕ) : ℝ) < m2 := by exact_mod_cast Nat.mod_lt n (Nat.pos_of_ne_zero h2)
  have hfrac : ((n % m2 : ℕ) : ℝ) / m2 < 1 := (div_lt_one h2').mpr hrem
  have hfrac0 : 0 ≤ ((n % m2 : ℕ) : ℝ) / m2 := by positivity
  refine ⟨by have : (0 : ℕ) < 2 ^ 80 := by positivity
             omega, standsFor_of_floor ?_ ?_ ?_ (lt_unitOf (le_trans (Nat.pow_le_pow_right two_pos hf) hlarge))⟩
  · rw [hvalue, hsplit]; linarith
  · rw [hvalue, hsplit]; linarith
  · rw [hvalue, hsplit, left_eq_add, div_eq_zero_iff, or_iff_left h2'.ne']
    simp

/-- The square root of N with its remainder as sticky. -/
theorem standsFor_sqrt {F : Fmt} {N : ℕ} {R M : ℝ} {e : ℤ} {sticky : Bool} (hR : 0 ≤ R) (hM : M / 2 ^ e = √R) (hN : N = ⌊R⌋₊)
    (hs : sticky = false ↔ ((N.sqrt * N.sqrt : ℕ) : ℝ) = R) (hlarge : 2 ^ (2 * (F.f + 1)) ≤ N) :
    StandsFor N.sqrt e sticky (unitOf F N.sqrt e) M := by
  have hfloor : (N : ℝ) ≤ R := hN ▸ Nat.floor_le hR
  have hceil : R < N + 1 := hN ▸ Nat.lt_floor_add_one R
  have hsq : ((N.sqrt * N.sqrt : ℕ) : ℝ) ≤ N := by exact_mod_cast Nat.sqrt_le N
  have hsq' : ((N : ℕ) : ℝ) + 1 ≤ ((N.sqrt + 1) * (N.sqrt + 1) : ℕ) := by exact_mod_cast Nat.lt_succ_sqrt N
  push_cast at hsq hsq' hs
  refine standsFor_of_floor ?_ ?_ ?_ (lt_unitOf ?_)
  · rw [hM]
    exact Real.le_sqrt_of_sq_le (by nlinarith)
  · rw [hM]
    exact (Real.sqrt_lt' (by positivity)).mpr (by nlinarith)
  · rw [hs, hM, eq_comm (b := √R), Real.sqrt_eq_iff_mul_self_eq hR (by positivity)]
    exact eq_comm
  · rw [Nat.le_sqrt, ← pow_add, ← two_mul]
    exact hlarge

end Sys2Proof.Proofs
end

section
/-! PROOFS. The arithmetic of R72, R76 and R177 on numbers, in each format with infinities. -/

namespace Sys2Proof.Proofs

open Sys2Proof.Machine Sys2Proof.Claim

section
variable {F : Fmt} {a b c : ℕ} {n1 n2 n3 : Bool} {m1 m2 m3 : ℕ} {e1 e2 e3 : ℤ}

/-- A signed mantissa is zero with its mantissa alone. -/
theorem signed_eq_zero {n : Bool} {m : ℕ} {e : ℤ} : signum n * m * 2 ^ e = (0 : ℚ) ↔ m = 0 := by
  have : (2 : ℚ) ^ e ≠ 0 := by positivity
  cases n <;> simp [this]

theorem signed_pos {n : Bool} {m : ℕ} {e : ℤ} (h : 0 < signum n * (m : ℚ) * 2 ^ e) : n = false ∧ m ≠ 0 := by
  have hm : m ≠ 0 := fun h0 => by simp [h0] at h
  have hpos : (0 : ℚ) < m * 2 ^ e := by positivity
  cases n with
  | false => exact ⟨rfl, hm⟩
  | true => rw [signum_true] at h; linarith

/-- An encoding in range is its sign and the bits below. -/
theorem Parts.sign_bit (h : Parts F a n1 m1 e1) (ha : a < 2 ^ (1 + F.x + F.f)) : a / 2 ^ (F.x + F.f) = n1.toNat := by
  rw [h.sign]
  have : a / 2 ^ (F.x + F.f) < 2 := by
    rw [Nat.div_lt_iff_lt_mul (by positivity), ← pow_succ']
    convert ha using 2
    ring
  interval_cases a / 2 ^ (F.x + F.f) <;> rfl

/-- An encoding of zero is its sign alone. -/
theorem Parts.zero (h : Parts F a n1 0 e1) (ha : a < 2 ^ (1 + F.x + F.f)) : a = fsign (machineFmt F) n1 := by
  have hs := h.sign_bit ha
  have hns : ¬ Special F a := fun hs => by
    have := h.value
    rw [value_eq_none.mpr hs] at this
    cases this
  have hread := (fdec_number hns).symm.trans h.read
  have hzero : a / 2 ^ F.f % 2 ^ F.x = 0 ∧ a % 2 ^ F.f = 0 := by
    split at hread
    case isTrue he => exact ⟨he, (FVal.fin.inj hread).2.1⟩
    case isFalse he =>
      have := (FVal.fin.inj hread).2.1
      have : 0 < 2 ^ F.f := by positivity
      omega
  have hhigh : a / 2 ^ F.f = 2 ^ F.x * n1.toNat := by
    rw [← Nat.div_add_mod (a / 2 ^ F.f) (2 ^ F.x), hzero.1, Nat.div_div_eq_div_mul, ← pow_add, add_comm F.f, hs, add_zero]
  rw [← Nat.div_add_mod a (2 ^ F.f), hzero.2, hhigh, fsign_eq, pow_add]
  ring

end

/-- A value with its sign flipped; a NaN keeps its kind. -/
def negated : FVal → FVal
  | .nan s => .nan s
  | .inf n => .inf !n
  | .fin n m e => .fin (!n) m e

/-- Flipping the sign bit leaves the bits below. -/
theorem fpNeg_mod (F : Fmt) (b : ℕ) : fpNeg (machineFmt F) b % 2 ^ (F.x + F.f) = b % 2 ^ (F.x + F.f) ∧
    (fpNeg (machineFmt F) b / 2 ^ (F.x + F.f) % 2 = 1 ↔ ¬ b / 2 ^ (F.x + F.f) % 2 = 1) := by
  have hp : 0 < 2 ^ (F.x + F.f) := by positivity
  have hdef : fpNeg (machineFmt F) b = if b / 2 ^ (F.x + F.f) % 2 = 1 then b - 2 ^ (F.x + F.f) else b + 2 ^ (F.x + F.f) := rfl
  rw [hdef]
  generalize 2 ^ (F.x + F.f) = w at *
  split
  case isTrue h =>
    have hle : w ≤ b := by
      by_contra hlt
      rw [Nat.div_eq_of_lt (not_le.mp hlt)] at h
      omega
    rw [Nat.mod_eq_sub_mod hle, Nat.div_eq_sub_div hp hle] at *
    exact ⟨rfl, by omega⟩
  case isFalse h =>
    rw [Nat.add_mod_right, Nat.add_div_right _ hp]
    exact ⟨rfl, by omega⟩

theorem fdec_fpNeg (F : Fmt) (b : ℕ) : fdec (machineFmt F) (fpNeg (machineFmt F) b) = negated (fdec (machineFmt F) b) := by
  obtain ⟨hlow, hsign⟩ := fpNeg_mod F b
  have hfrac : fpNeg (machineFmt F) b % 2 ^ F.f = b % 2 ^ F.f := by
    have hdvd : 2 ^ F.f ∣ 2 ^ (F.x + F.f) := pow_dvd_pow 2 (by omega)
    rw [← Nat.mod_mod_of_dvd _ hdvd, hlow, Nat.mod_mod_of_dvd _ hdvd]
  have hexp : fpNeg (machineFmt F) b / 2 ^ F.f % 2 ^ F.x = b / 2 ^ F.f % 2 ^ F.x := by
    rw [← Nat.mod_mul_right_div_self, ← Nat.mod_mul_right_div_self, ← pow_add, add_comm F.f, hlow]
  have hneg : decide (fpNeg (machineFmt F) b / 2 ^ (F.x + F.f) % 2 = 1) = !decide (b / 2 ^ (F.x + F.f) % 2 = 1) := by
    rw [decide_eq_decide.mpr hsign, decide_not]
  rw [fdec_machineFmt, fdec_machineFmt, hexp, hfrac, hneg]
  split
  · split <;> rfl
  · split
    · rfl
    · split <;> rfl

section
variable {F : Fmt} {mode : BitVec 3} {r : BitVec 32} {a b c : ℕ} {n1 n2 n3 : Bool} {m1 m2 m3 : ℕ} {e1 e2 e3 : ℤ}

/-- A sum of numbers is exact before it is rounded. -/
theorem fpAdd_rounds (hF : Proper F) (ha : fdec (machineFmt F) a = .fin n1 m1 e1) (hb : fdec (machineFmt F) b = .fin n2 m2 e2) :
    Rounds F false mode (signum n1 * m1 * 2 ^ e1 + signum n2 * m2 * 2 ^ e2 : ℚ) (fpAdd (machineFmt F) mode r a b) := by
  simp only [fpAdd, ha, hb]
  exact roundFp_rounds_exact hF (exactSum_value ..)

/-- The zero that numbers of unlike signs add to (R72). -/
theorem fpAdd_zero (ha : fdec (machineFmt F) a = .fin n1 m1 e1) (hb : fdec (machineFmt F) b = .fin n2 m2 e2)
    (hne : signum n1 * m1 * 2 ^ e1 ≠ 0) (hz : signum n1 * m1 * 2 ^ e1 + signum n2 * m2 * 2 ^ e2 = 0) :
    (fpAdd (machineFmt F) mode r a b).1 = if mode = 2 then 2 ^ (F.x + F.f) else 0 := by
  simp only [fpAdd, ha, hb, exactSum_zero mode hne hz, roundFp_zero, fsign, machineFmt_x, machineFmt_f, decide_eq_true_eq]
  rcases mode_cases mode with rfl | rfl | rfl | rfl | rfl | rfl | rfl | rfl <;> simp

theorem signum_xor (n n' : Bool) : signum (n != n') = signum n * signum n' := by
  cases n <;> cases n' <;> simp

theorem mul_value (n1 n2 : Bool) (m1 m2 : ℕ) (e1 e2 : ℤ) :
    signum n1 * m1 * 2 ^ e1 * (signum n2 * m2 * 2 ^ e2) = signum (n1 != n2) * (m1 * m2 : ℕ) * 2 ^ (e1 + e2) := by
  rw [signum_xor, zpow_add₀ two_ne_zero]
  push_cast
  ring

theorem fpMul_rounds (hF : Proper F) (ha : fdec (machineFmt F) a = .fin n1 m1 e1) (hb : fdec (machineFmt F) b = .fin n2 m2 e2) :
    Rounds F false mode (signum n1 * m1 * 2 ^ e1 * (signum n2 * m2 * 2 ^ e2) : ℚ) (fpMul (machineFmt F) mode r a b) := by
  simp only [fpMul, ha, hb]
  exact roundFp_rounds_exact hF (mul_value ..)

/-- A fused product is the exact sum of the exact product and its addend. -/
theorem fpFma_fin (ha : fdec (machineFmt F) a = .fin n1 m1 e1) (hb : fdec (machineFmt F) b = .fin n2 m2 e2)
    (hc : fdec (machineFmt F) c = .fin n3 m3 e3) : fpFma (machineFmt F) mode r a b c =
      let s := exactSum mode (n1 != n2) (m1 * m2) (e1 + e2) n3 m3 e3
      roundFp (machineFmt F) mode false s.1 s.2.1 s.2.2 false r (some 17) := by
  simp only [fpFma, ha, hb, hc, FVal.isNaN, Bool.or_false, Bool.false_eq_true, if_false]

theorem fpFma_rounds (hF : Proper F) (ha : fdec (machineFmt F) a = .fin n1 m1 e1) (hb : fdec (machineFmt F) b = .fin n2 m2 e2)
    (hc : fdec (machineFmt F) c = .fin n3 m3 e3) :
    Rounds F false mode (signum n1 * m1 * 2 ^ e1 * (signum n2 * m2 * 2 ^ e2) + signum n3 * m3 * 2 ^ e3 : ℚ)
      (fpFma (machineFmt F) mode r a b c) := by
  rw [fpFma_fin ha hb hc, mul_value]
  exact roundFp_rounds_exact hF (exactSum_value ..)

theorem fpFma_zero (ha : fdec (machineFmt F) a = .fin n1 m1 e1) (hb : fdec (machineFmt F) b = .fin n2 m2 e2)
    (hc : fdec (machineFmt F) c = .fin n3 m3 e3) (hne : signum n1 * m1 * 2 ^ e1 * (signum n2 * m2 * 2 ^ e2) ≠ 0)
    (hz : signum n1 * m1 * 2 ^ e1 * (signum n2 * m2 * 2 ^ e2) + signum n3 * m3 * 2 ^ e3 = 0) :
    (fpFma (machineFmt F) mode r a b c).1 = if mode = 2 then 2 ^ (F.x + F.f) else 0 := by
  rw [mul_value] at hne hz
  simp only [fpFma_fin ha hb hc, exactSum_zero mode hne hz, roundFp_zero, fsign, machineFmt_x, machineFmt_f, decide_eq_true_eq]
  rcases mode_cases mode with rfl | rfl | rfl | rfl | rfl | rfl | rfl | rfl <;> simp

/-- A quotient of nonzero magnitudes, rounded for a sign. -/
theorem roundFp_quot_rounds (hF : Proper F) (hf : F.f < 80) (neg : Bool) (h1 : m1 ≠ 0) (h2 : m2 ≠ 0) {z : ℝ}
    (hz : z = signum neg * (m1 * 2 ^ e1 / (m2 * 2 ^ e2))) :
    Rounds F false mode z (roundFp (machineFmt F) mode false neg (quot m1 e1 m2 e2).1 (quot m1 e1 m2 e2).2.1 (quot m1 e1 m2 e2).2.2 r
      (some 17)) := by
  obtain ⟨hq, hs⟩ := standsFor_quot hf h1 h2 e1 e2
  have hpos : (0 : ℝ) < m1 * 2 ^ e1 / (m2 * 2 ^ e2) := by positivity
  have habs : |z| = m1 * 2 ^ e1 / (m2 * 2 ^ e2) := by
    rw [hz, abs_mul, ← Rat.cast_abs, abs_signum, Rat.cast_one, one_mul, abs_of_pos hpos]
  refine roundFp_rounds hF hq ?_ ?_ (habs ▸ hs)
  · rw [← abs_pos, habs]
    exact hpos
  · rw [hz]
    cases neg <;> simp only [signum_true, signum_false, Rat.cast_neg, Rat.cast_one, one_mul, neg_one_mul, eq_comm (a := true),
      eq_comm (a := false), decide_eq_true_eq, decide_eq_false_iff_not] <;> linarith

theorem fpDiv_rounds (hF : Proper F) (hf : F.f < 80) (ha : fdec (machineFmt F) a = .fin n1 m1 e1) (hb : fdec (machineFmt F) b = .fin n2 m2 e2)
    (h2 : m2 ≠ 0) : Rounds F false mode (signum n1 * m1 * 2 ^ e1 / (signum n2 * m2 * 2 ^ e2) : ℚ) (fpDiv (machineFmt F) mode r a b) := by
  simp only [fpDiv, ha, hb, if_neg h2]
  split
  case isTrue h1 =>
    rw [h1, Nat.cast_zero, mul_zero, zero_mul, zero_div, Rat.cast_zero]
    exact rounds_zero hF ..
  case isFalse h1 =>
    refine roundFp_quot_rounds hF hf _ h1 h2 ?_
    rw [signum_xor]
    cases n2 <;> push_cast [signum_true, signum_false] <;> field_simp

theorem fpDiv_zero (ha : fdec (machineFmt F) a = .fin n1 m1 e1) (hb : fdec (machineFmt F) b = .fin n2 0 e2) (h1 : m1 ≠ 0) :
    fpDiv (machineFmt F) mode r a b = (finf (machineFmt F) (n1 != n2), fDZ) := by
  simp only [fpDiv, ha, hb, if_true, if_neg h1]

theorem fpRcp_rounds (hF : Proper F) (hf : F.f < 80) (ha : fdec (machineFmt F) a = .fin n1 m1 e1) (h1 : m1 ≠ 0) :
    Rounds F false mode (1 / (signum n1 * m1 * 2 ^ e1) : ℚ) (fpRcp (machineFmt F) mode r a) := by
  simp only [fpRcp, ha, if_neg h1]
  refine roundFp_quot_rounds hF hf _ one_ne_zero h1 ?_
  cases n1 <;> push_cast [signum_true, signum_false] <;> field_simp

/-- Halving an exponent that a shift has made even. -/
theorem two_mul_half {e : ℤ} (h : e % 2 = 0) : 2 * (e / 2) = e := by omega

theorem fpSqrt_rounds (hF : Proper F) (hf : F.f < 80) (ha : fdec (machineFmt F) a = .fin false m1 e1) (h1 : m1 ≠ 0) :
    Rounds F false mode (√((m1 * 2 ^ e1 : ℚ) : ℝ)) (fpSqrt (machineFmt F) mode r a) := by
  simp only [fpSqrt, ha, if_neg h1, Bool.false_eq_true, if_false, isqrt_eq_sqrt]
  generalize hs : 170 + (e1 % 2).toNat = s
  have heven : 2 * ((e1 - (s : ℤ)) / 2) = e1 - s := two_mul_half (by omega)
  have hpos : (0 : ℝ) < √((m1 * 2 ^ e1 : ℚ) : ℝ) := by
    rw [Real.sqrt_pos]
    exact_mod_cast (by positivity : (0 : ℚ) < m1 * 2 ^ e1)
  have hlarge : 2 ^ (2 * (F.f + 1)) ≤ m1 * 2 ^ s :=
    le_trans (Nat.pow_le_pow_right two_pos (by omega)) (Nat.le_mul_of_pos_left _ (Nat.pos_of_ne_zero h1))
  have hM : √((m1 * 2 ^ e1 : ℚ) : ℝ) / 2 ^ ((e1 - (s : ℤ)) / 2) = √((m1 * 2 ^ s : ℕ) : ℝ) := by
    rw [div_eq_iff (by positivity), ← Real.sqrt_sq (by positivity : (0 : ℝ) ≤ 2 ^ ((e1 - (s : ℤ)) / 2)), ← Real.sqrt_mul (by positivity),
      ← zpow_natCast (_ ^ _), ← zpow_mul, mul_comm (_ / 2)]
    push_cast
    rw [heven, zpow_sub₀ two_ne_zero, zpow_natCast]
    field_simp
  refine roundFp_rounds hF ?_ hpos.ne' (decide_eq_false hpos.le.not_gt).symm ?_
  · have : 0 < m1 * 2 ^ s := by positivity
    exact (Nat.sqrt_pos.mpr this).ne'
  · rw [abs_of_pos hpos]
    refine standsFor_sqrt (R := ((m1 * 2 ^ s : ℕ) : ℝ)) (by positivity) hM (Nat.floor_natCast _).symm ?_ hlarge
    simp only [decide_eq_false_iff_not, not_not, Nat.cast_inj]

theorem fpRsqrt_rounds (hF : Proper F) (hf : F.f < 80) (ha : fdec (machineFmt F) a = .fin false m1 e1) (h1 : m1 ≠ 0) :
    Rounds F false mode (1 / √((m1 * 2 ^ e1 : ℚ) : ℝ)) (fpRsqrt (machineFmt F) mode r a) := by
  simp only [fpRsqrt, ha, if_neg h1, Bool.false_eq_true, if_false, isqrt_eq_sqrt]
  generalize hs : 2 * m1.log2 + 200 + (e1 % 2).toNat = s
  have hm1 : (0 : ℝ) < m1 := by exact_mod_cast Nat.pos_of_ne_zero h1
  have heven : 2 * ((-e1 - (s : ℤ)) / 2) = -e1 - s := two_mul_half (by omega)
  have hpos : (0 : ℝ) < 1 / √((m1 * 2 ^ e1 : ℚ) : ℝ) := by
    rw [one_div_pos, Real.sqrt_pos]
    exact_mod_cast (by positivity : (0 : ℚ) < m1 * 2 ^ e1)
  have hlarge : 2 ^ (2 * (F.f + 1)) ≤ 2 ^ s / m1 := by
    rw [Nat.le_div_iff_mul_le (Nat.pos_of_ne_zero h1)]
    calc 2 ^ (2 * (F.f + 1)) * m1 ≤ 2 ^ (2 * (F.f + 1)) * 2 ^ (m1.log2 + 1) := Nat.mul_le_mul_left _ Nat.lt_log2_self.le
      _ = 2 ^ (2 * (F.f + 1) + (m1.log2 + 1)) := (pow_add ..).symm
      _ ≤ 2 ^ s := Nat.pow_le_pow_right two_pos (by omega)
  have hM : 1 / √((m1 * 2 ^ e1 : ℚ) : ℝ) / 2 ^ ((-e1 - (s : ℤ)) / 2) = √((2 ^ s : ℕ) / m1 : ℝ) := by
    rw [div_eq_iff (by positivity), ← Real.sqrt_sq (by positivity : (0 : ℝ) ≤ 2 ^ ((-e1 - (s : ℤ)) / 2)), ← Real.sqrt_mul (by positivity),
      ← zpow_natCast (_ ^ _), ← zpow_mul, mul_comm (_ / 2), ← Real.sqrt_one, ← Real.sqrt_div zero_le_one]
    push_cast
    rw [heven, zpow_sub₀ two_ne_zero, zpow_natCast, zpow_neg]
    congr 1
    field_simp
  refine roundFp_rounds hF ?_ hpos.ne' (decide_eq_false hpos.le.not_gt).symm ?_
  · have : 0 < 2 ^ (2 * (F.f + 1)) := by positivity
    exact (Nat.sqrt_pos.mpr (lt_of_lt_of_le this hlarge)).ne'
  · rw [abs_of_pos hpos]
    refine standsFor_sqrt (R := ((2 ^ s : ℕ) / m1 : ℝ)) (by positivity) hM ?_ ?_ hlarge
    · rw [Nat.floor_div_natCast, Nat.floor_natCast]
    · rw [decide_eq_false_iff_not, not_not, eq_div_iff hm1.ne']
      exact_mod_cast Iff.rfl

/-- The arithmetic of R72, R76 and R177 in a format whose mantissa a quotient of 80 bits exceeds. -/
theorem arithmeticRounds (hF : Proper F) (hf : F.f < 80) (ha : a < 2 ^ (1 + F.x + F.f)) (hb : b < 2 ^ (1 + F.x + F.f)) :
    ArithmeticRounds (machineFmt F) F mode r a b c := by
  intro p q hp hq
  obtain ⟨n1, m1, e1, ha', rfl⟩ := parts_of_value hp
  obtain ⟨n2, m2, e2, hb', rfl⟩ := parts_of_value hq
  have hfinf : ∀ n, finf (machineFmt F) n = (if n then 2 ^ (F.x + F.f) else 0) + (2 ^ F.x - 1) * 2 ^ F.f := fun _ => rfl
  have hneg : fdec (machineFmt F) (fpNeg (machineFmt F) b) = .fin (!n2) m2 e2 := by rw [fdec_fpNeg, hb'.read]; rfl
  have hsub : signum n1 * m1 * 2 ^ e1 - signum n2 * m2 * 2 ^ e2 = signum n1 * m1 * 2 ^ e1 + signum (!n2) * (m2 : ℚ) * 2 ^ e2 := by
    cases n2 <;> simp [sub_eq_add_neg]
  refine ⟨fpAdd_rounds hF ha'.read hb'.read, ?_, fpMul_rounds hF ha'.read hb'.read, fpAdd_zero ha'.read hb'.read, ?_, ?_, ?_, ?_, ?_, ?_, ?_,
    ?_, ?_⟩
  case refine_1 => exact hsub ▸ fpAdd_rounds hF ha'.read hneg
  case refine_2 => exact hsub ▸ fpAdd_zero ha'.read hneg
  case refine_3 =>
    intro z hz
    obtain ⟨n3, m3, e3, hc', rfl⟩ := parts_of_value hz
    exact ⟨fpFma_rounds hF ha'.read hb'.read hc'.read, fpFma_zero ha'.read hb'.read hc'.read⟩
  case refine_4 =>
    intro hne
    exact fpDiv_rounds hF hf ha'.read hb'.read fun h0 => hne (by simp [h0])
  case refine_5 =>
    intro hz hne
    obtain rfl := signed_eq_zero.mp hz
    rw [fpDiv_zero ha'.read hb'.read fun h0 => hne (by simp [h0]), ha'.sign_bit ha, hb'.sign_bit hb, hfinf]
    cases n1 <;> cases n2 <;> rfl
  case refine_6 =>
    intro hpos
    obtain ⟨rfl, hm⟩ := signed_pos hpos
    rw [signum_false, one_mul]
    exact fpSqrt_rounds hF hf ha'.read hm
  case refine_7 =>
    intro hz
    obtain rfl := signed_eq_zero.mp hz
    simp only [fpSqrt, ha'.read, if_true]
    rw [← ha'.zero ha]
  case refine_8 =>
    intro hne
    exact fpRcp_rounds hF hf ha'.read fun h0 => hne (by simp [h0])
  case refine_9 =>
    intro hpos
    obtain ⟨rfl, hm⟩ := signed_pos hpos
    rw [signum_false, one_mul]
    exact fpRsqrt_rounds hF hf ha'.read hm
  case refine_10 =>
    intro hz
    obtain rfl := signed_eq_zero.mp hz
    have ha0 : a = if n1 then 2 ^ (F.x + F.f) else 0 := ha'.zero ha
    simp only [fpRcp, fpRsqrt, ha'.read, if_true, hfinf, ← ha0]
    exact ⟨rfl, rfl⟩

end

theorem proper_floatFmt (d : Bool) : Proper (floatFmt d) := by cases d <;> exact ⟨by decide, by decide⟩
theorem proper_bfloat : Proper bfloat := ⟨by decide, by decide⟩
theorem fp64_eq : fp64 = machineFmt (floatFmt true) := rfl
theorem fp32_eq : fp32 = machineFmt (floatFmt false) := rfl
theorem bf16_eq : bf16 = machineFmt bfloat := rfl

end Sys2Proof.Proofs
end

section
/-! PROOFS. Powers and logarithms (R76; log entry 9): where they are exact they are rounded once, and elsewhere they lie between the
values beside them. -/

namespace Sys2Proof.Proofs

open Sys2Proof.Machine Sys2Proof.Claim

/-- The formats in which powers and logarithms are taken: those of FP64, FP32 and BF16 meet it. -/
structure PowerFmt (F : Fmt) : Prop extends Proper F where
  infinite : F.inf = true
  wide : 7 ≤ F.f
  short : F.f ≤ 52
  biasLo : 127 ≤ F.bias
  biasHi : F.bias ≤ 1023
  range : F.bias + F.f ≤ 2 ^ (F.f + 1)

theorem powerFmt_of_mem {t : FpFmt × Fmt} (ht : t ∈ arithmeticFmts) : t.1 = machineFmt t.2 ∧ PowerFmt t.2 := by
  simp only [arithmeticFmts, List.mem_cons, List.not_mem_nil, or_false] at ht
  rcases ht with rfl | rfl | rfl
  · exact ⟨rfl, proper_floatFmt true, rfl, by decide, by decide, by decide, by decide, by decide⟩
  · exact ⟨rfl, proper_floatFmt false, rfl, by decide, by decide, by decide, by decide, by decide⟩
  · exact ⟨rfl, proper_bfloat, rfl, by decide, by decide, by decide, by decide, by decide⟩

/-! Infinities and zeros as encodings. -/

theorem finf_eq (F : Fmt) (neg : Bool) : finf (machineFmt F) neg = fsign (machineFmt F) neg + (2 ^ F.x - 1) * 2 ^ F.f + 0 := rfl

theorem fdec_finf {F : Fmt} (hinf : F.inf = true) (neg : Bool) : fdec (machineFmt F) (finf (machineFmt F) neg) = .inf neg := by
  have hx : 0 < 2 ^ F.x := by positivity
  obtain ⟨hsign, hexp, hfrac, -⟩ := fields_of_encoding (F := F) (neg := neg) (E := 2 ^ F.x - 1) (c := 0) (by omega) (by positivity)
  rw [finf_eq, fdec_special ⟨hexp, .inl hinf⟩, if_pos ⟨hinf, hfrac⟩, hsign]
  cases neg <;> rfl

theorem fdec_fsign {F : Fmt} (hF : Proper F) (neg : Bool) : fdec (machineFmt F) (fsign (machineFmt F) neg) = .fin neg 0 (least F) := by
  have hx : 4 ≤ 2 ^ F.x := Nat.pow_le_pow_right two_pos hF.exponent
  obtain ⟨hsign, hexp, hfrac, -⟩ := fields_of_encoding (F := F) (neg := neg) (E := 0) (c := 0) (by positivity) (by positivity)
  simp only [zero_mul, add_zero] at hsign hexp hfrac
  rw [fdec_number fun hs => by have := hs.1; omega, if_pos hexp, hsign, hfrac]
  cases neg <;> rfl

theorem value_fsign {F : Fmt} (hF : Proper F) (neg : Bool) : F.value (fsign (machineFmt F) neg) = some 0 := by
  have hns : ¬ Special F (fsign (machineFmt F) neg) := fun hs => by
    have h := fdec_special hs
    rw [fdec_fsign hF] at h
    split at h <;> cases h
  obtain ⟨n, m, e, hp⟩ := parts_of_not_special hns
  have := (fdec_fsign hF neg).symm.trans hp.read
  simp only [FVal.fin.injEq] at this
  obtain ⟨rfl, rfl, rfl⟩ := this
  simpa using hp.value

/-- The special operands of R76. -/
theorem powers_special {F : Fmt} (hF : PowerFmt F) (m : BitVec 3) (r : BitVec 32) :
    let inf : Nat := (2 ^ F.x - 1) * 2 ^ F.f
    let neg : Nat := 2 ^ (F.x + F.f)
    let t := machineFmt F
    fpExp2 t m r inf = (inf, 0) ∧ fpExp2 t m r (neg + inf) = (0, 0) ∧ fpLog2 t m r inf = (inf, 0) ∧
    fpLog2 t m r 0 = (neg + inf, 0x08) ∧ fpLog2 t m r neg = (neg + inf, 0x08) ∧ fpRcp t m r inf = (0, 0) ∧ fpRcp t m r (neg + inf) = (neg, 0) ∧
    fpRsqrt t m r inf = (0, 0) := by
  dsimp only
  have hinf : ∀ n, finf (machineFmt F) n = (if n then 2 ^ (F.x + F.f) else 0) + (2 ^ F.x - 1) * 2 ^ F.f := fun _ => rfl
  have hzero : ∀ n, fsign (machineFmt F) n = if n then 2 ^ (F.x + F.f) else 0 := fun _ => rfl
  have hp := fdec_finf hF.infinite false
  have hn := fdec_finf hF.infinite true
  have hpz := fdec_fsign hF.toProper false
  have hnz := fdec_fsign hF.toProper true
  simp only [hinf, hzero, Bool.false_eq_true, if_false, if_true, zero_add] at hp hn hpz hnz
  simp [fpExp2, fpLog2, fpRcp, fpRsqrt, hp, hn, hpz, hnz, hinf, hzero, fDZ]

/-! Values between two of the format's. -/

/-- A mantissa with a sticky bit between two values of the format is rounded to one between them. -/
theorem roundFp_between {F : Fmt} (hF : Proper F) {mode : BitVec 3} {neg : Bool} {m : ℕ} {e : ℤ} {r : BitVec 32} {d : Option ℕ} {A B : ℚ}
    (hA : OnGrid F A) (hB : OnGrid F B) (hlo : A ≤ m * 2 ^ e) (hhi : (m + 1) * 2 ^ e ≤ B) (hnext : B < F.next) :
    ∃ Y : ℚ, F.value (roundFp (machineFmt F) mode false neg m e true r d).1 = some (signum neg * Y) ∧ A ≤ Y ∧ Y ≤ B ∧
      (m ≠ 0 → 2 ^ (1 - F.bias) ≤ A → (roundFp (machineFmt F) mode false neg m e true r d).2 = 0x01) := by
  have he : (0 : ℚ) < 2 ^ e := by positivity
  rcases Nat.eq_zero_or_pos m with rfl | hm
  · have hA0 : (0 : ℝ) ≤ A := hA.nonneg
    refine ⟨0, by rw [roundFp_zero, value_fsign hF, mul_zero], by simpa using hlo, ?_, fun h => absurd rfl h⟩
    push_cast at hhi
    linarith
  · -- a magnitude just above the mantissa
    have hmin : ((2 : ℝ) ^ min e (unitOf F m e)) ≤ 2 ^ e := zpow_le_zpow_right₀ one_le_two (min_le_left ..)
    have hmin' : ((2 : ℝ) ^ min e (unitOf F m e)) ≤ 2 ^ unitOf F m e := zpow_le_zpow_right₀ one_le_two (min_le_right ..)
    have hpos : (0 : ℝ) < 2 ^ min e (unitOf F m e) := by positivity
    have hM : StandsFor m e true (unitOf F m e) (m * 2 ^ e + 2 ^ min e (unitOf F m e) / 4) := by
      refine ⟨nofun, fun _ => by linarith, fun _ => ?_⟩
      split <;> linarith
    have hloR : (A : ℝ) ≤ m * 2 ^ e := by simpa using (Rat.cast_le (K := ℝ)).mpr hlo
    have hhiR : ((m : ℝ) + 1) * 2 ^ e ≤ B := by simpa using (Rat.cast_le (K := ℝ)).mpr hhi
    obtain ⟨k, inexact, h, hsticky⟩ := roundFp_roundsMag hF (mode := mode) (sat := false) (neg := neg) (r := r) (d := d) hm.ne' hM
    have hAY := h.mag.below _ hA (by linarith)
    have hYB := h.mag.above _ hB (by linarith)
    have hAY' : A ≤ k * 2 ^ unitOf F m e := (Rat.cast_le (K := ℝ)).mp (by simpa using hAY)
    have hYB' : k * 2 ^ unitOf F m e ≤ B := (Rat.cast_le (K := ℝ)).mp (by simpa using hYB)
    obtain hover | henc := h.result
    · linarith [hover.large]
    · refine ⟨k * 2 ^ unitOf F m e, henc.value, hAY', hYB', fun _ hnormal => ?_⟩
      rw [henc.flags, hsticky rfl, if_pos rfl, if_neg fun ht => absurd ht.1 (not_lt.mpr (hnormal.trans hAY'))]
      rfl

/-- A power of two, rounded. -/
theorem roundFp_one {F : Fmt} (hF : Proper F) (mode : BitVec 3) (r : BitVec 32) (d : Option ℕ) (n : ℤ) :
    Rounds F false mode ((2 : ℝ) ^ n) (roundFp (machineFmt F) mode false false 1 n false r d) := by
  have h := roundFp_rounds_exact hF (mode := mode) (sat := false) (neg := false) (m := 1) (e := n) (r := r) (d := d) (p := 2 ^ n) (by simp)
  push_cast at h
  exact h

/-- All numbers from the magnitude after the largest on overflow alike. -/
theorem rounds_of_large {F : Fmt} {sat : Bool} {mode : BitVec 3} {z z' : ℝ} {o : ℕ × BitVec 6} (h : Rounds F sat mode z' o)
    (hz' : F.next ≤ z') (hz : F.next ≤ z) : Rounds F sat mode z o := by
  have hpos : (0 : ℝ) < F.next := by exact_mod_cast next_pos F
  have h0 : 0 < z := by linarith
  have h0' : 0 < z' := by linarith
  obtain ⟨hof, hin⟩ := h
  refine ⟨fun hbit => ?_, fun hbit => ?_⟩
  · obtain ⟨hflags, -, hres⟩ := hof hbit
    refine ⟨hflags, .inl (by rwa [abs_of_pos h0]), ?_⟩
    simpa only [h0, h0', h0.not_gt, h0'.not_gt] using hres
  · have := (hin hbit).1
    rw [abs_of_pos h0'] at this
    linarith

/-- All magnitudes below half a unit are rounded alike. -/
theorem RoundsTo.of_small {mode : BitVec 3} {neg inexact : Bool} {x x' : ℝ} {k : ℕ} (h : RoundsTo mode neg x k inexact) (h0 : 0 < x)
    (h1 : x < 1 / 2) (h0' : 0 < x') (h1' : x' < 1 / 2) : RoundsTo mode neg x' k inexact := by
  have hk : k < 2 := by
    have := (abs_lt.mp h.near).2
    have : (k : ℝ) < 2 := by linarith
    exact_mod_cast this
  have hie : inexact = true := by
    by_contra hne
    have heq := h.exact.mp (by simpa using hne)
    interval_cases k <;> norm_num at heq <;> linarith
  -- where an even or a nearest choice is asked for, the choice is zero
  have hzero : mode = 0 ∨ mode = 4 → k = 0 := fun hm => by
    have := h.nearest hm
    by_contra hne
    obtain rfl : k = 1 := by omega
    rw [Nat.cast_one, abs_of_pos (by linarith)] at this
    linarith
  have hnear : |(k : ℝ) - x'| < 1 := by
    interval_cases k <;> norm_num [abs_lt] <;> constructor <;> linarith
  have hdist : mode = 0 ∨ mode = 4 → |(k : ℝ) - x'| < 1 / 2 := fun hm => by
    rw [hzero hm, Nat.cast_zero, zero_sub, abs_neg, abs_of_pos h0']
    exact h1'
  have hlow : (k : ℝ) ≤ x → (k : ℝ) ≤ x' := fun hle => by
    interval_cases k
    · simpa using h0'.le
    · push_cast at hle; linarith
  have hhigh : x ≤ k → x' ≤ k := fun hle => by
    interval_cases k
    · push_cast at hle; linarith
    · push_cast; linarith
  refine ⟨hnear, ?_, fun hm => (hdist hm).le, fun hm heq => ?_, fun hm heq => ?_, fun hm => hlow (h.toward hm),
    fun hm => hhigh (h.outward hm)⟩
  · rw [hie]
    refine ⟨nofun, fun heq => ?_⟩
    interval_cases k <;> push_cast at heq <;> linarith
  · exact absurd heq (hdist (.inl hm)).ne
  · exact absurd heq (hdist (.inr hm)).ne

/-- Powers beyond the range of the format's exponents are rounded like 2^−5000. -/
theorem roundFp_tiny {F : Fmt} (hF : PowerFmt F) (mode : BitVec 3) (r : BitVec 32) {n : ℤ} (hn : n ≤ -5000) :
    Rounds F false mode ((2 : ℝ) ^ n) (roundFp (machineFmt F) mode false false 1 (-5000) false r (some 17)) := by
  have hbias := hF.biasHi
  have hshort := hF.short
  have hunit : unitOf F 1 (-5000) = 1 - F.bias - F.f := by
    have : Nat.log2 1 = 0 := by decide
    unfold unitOf
    omega
  have hpos : (0 : ℝ) < 2 ^ n := by positivity
  have hscaled : ∀ j : ℤ, j ≤ -5000 → (0 : ℝ) < 2 ^ j / 2 ^ unitOf F 1 (-5000) ∧ (2 : ℝ) ^ j / 2 ^ unitOf F 1 (-5000) < 1 / 2 := by
    intro j hj
    have hhalf : (1 / 2 : ℝ) = 2 ^ (-1 : ℤ) := by norm_num
    rw [← zpow_sub₀ two_ne_zero, hunit, hhalf]
    exact ⟨by positivity, zpow_lt_zpow_right₀ one_lt_two (by omega)⟩
  have hto := roundMag_roundsTo (mode := mode) (neg := false) (r := r) (d := 17) (standsFor_exact 1 (-5000) (unitOf F 1 (-5000)))
  rw [Nat.cast_one, one_mul] at hto
  obtain ⟨hx0, hx1⟩ := hscaled (-5000) le_rfl
  obtain ⟨hn0, hn1⟩ := hscaled n hn
  refine (roundsMag_of_roundsTo hF.toProper one_ne_zero (L := n) ?_ ?_ ?_ ?_).rounds hF.toProper hpos.ne'
    (decide_eq_false hpos.le.not_gt).symm
  · rw [hunit, max_eq_right (by omega)]
  · rw [abs_of_pos hpos]
  · rw [abs_of_pos hpos]
    exact zpow_le_zpow_right₀ one_le_two (by omega)
  · rw [abs_of_pos hpos]
    exact hto.of_small hx0 hx1 hn0 hn1

end Sys2Proof.Proofs
end

section
/-! PROOFS. `fpExp2` (R76): whole powers are exact, and all others lie between the whole powers beside them. -/

namespace Sys2Proof.Proofs

open Sys2Proof.Machine Sys2Proof.Claim

/-- The mantissa of an operand with its sign. -/
def signedMantissa (neg : Bool) (m : ℕ) : ℤ := if neg then -(m : ℤ) else m

theorem signedMantissa_cast (neg : Bool) (m : ℕ) : (signedMantissa neg m : ℚ) = signum neg * m := by
  cases neg <;> simp [signedMantissa]

/-- What `fpExp2` rounds for the fraction frac / 2^(−e) above a whole power. -/
def exp2Mantissa (frac : ℕ) (e : ℤ) : ℕ :=
  exp2Frac (frac * 2 ^ expBits / ((pow2 (-e) : ℤ)).toNat) expBits (isqrt (2 * 2 ^ (2 * expBits))) (2 ^ expBits)

theorem fpExp2_fin {F : Fmt} {mode : BitVec 3} {r : BitVec 32} {a : ℕ} {neg : Bool} {m : ℕ} {e : ℤ}
    (ha : fdec (machineFmt F) a = .fin neg m e) : fpExp2 (machineFmt F) mode r a =
      let round (m : ℕ) (e : ℤ) (sticky : Bool) := roundFp (machineFmt F) mode false false m e sticky r (some 17)
      let v := signedMantissa neg m
      let den : ℤ := (pow2 (-e) : ℤ)
      if m = 0 then round 1 0 false
      else if e + (m.log2 : ℤ) > 12 then round 1 (if neg then -5000 else 5000) false
      else if e ≥ 0 then round 1 (v * (pow2 e : ℤ)) false
      else if (v % den).toNat = 0 then round 1 (v / den) false
      else round (exp2Mantissa (v % den).toNat e / 2 ^ 16) (v / den - (expBits : ℤ) + 16) true := by
  simp only [fpExp2, ha]
  rfl

theorem pow2_neg_mul {e : ℤ} (h : e < 0) : ((pow2 (-e) : ℕ) : ℚ) * 2 ^ e = 1 := by
  have := pow2_mul_zpow (e := e) (e' := 0) h.le
  rwa [zero_sub, zpow_zero] at this

/-- An operand with a magnitude of 2^13 or more. -/
theorem large_operand {m : ℕ} {e : ℤ} (hm : m ≠ 0) (h : e + (m.log2 : ℤ) > 12) : (2 : ℚ) ^ 13 ≤ m * 2 ^ e := by
  have hlog : (2 : ℚ) ^ m.log2 ≤ m := by exact_mod_cast Nat.log2_self_le hm
  calc (2 : ℚ) ^ 13 = 2 ^ (13 : ℤ) := by norm_num
    _ ≤ 2 ^ (e + (m.log2 : ℤ)) := zpow_le_zpow_right₀ one_le_two (by omega)
    _ = 2 ^ m.log2 * 2 ^ e := by rw [zpow_add₀ two_ne_zero, zpow_natCast]; ring
    _ ≤ m * 2 ^ e := by gcongr

/-- Whole powers are exactly rounded. -/
theorem fpExp2_whole {F : Fmt} (hF : PowerFmt F) {mode : BitVec 3} {r : BitVec 32} {a : ℕ} {neg : Bool} {m : ℕ} {e : ℤ}
    (ha : fdec (machineFmt F) a = .fin neg m e) {n : ℤ} (hn : signum neg * m * 2 ^ e = (n : ℚ)) :
    Rounds F false mode ((2 : ℝ) ^ n) (fpExp2 (machineFmt F) mode r a) := by
  rw [fpExp2_fin ha]
  dsimp only
  rw [← signedMantissa_cast] at hn
  split
  case isTrue hm =>
    have hz : n = 0 := by
      rw [signedMantissa_cast, hm] at hn
      simpa [eq_comm] using hn
    rw [hz]
    exact roundFp_one hF.toProper ..
  case isFalse hm =>
  split
  case isTrue hbig =>
    have hlarge := large_operand hm hbig
    rw [signedMantissa_cast] at hn
    cases neg with
    | true =>
      have : (n : ℚ) ≤ -5000 := by
        rw [← hn, signum_true]
        linarith
      exact roundFp_tiny hF mode r (by exact_mod_cast this)
    | false =>
      have : (5000 : ℚ) ≤ n := by
        rw [← hn, signum_false]
        linarith
      have hnext : ∀ j : ℤ, 5000 ≤ j → (F.next : ℝ) ≤ 2 ^ j := fun j hj => by
        have : F.next = 2 ^ (F.bias + 1) := if_pos hF.infinite
        rw [this]
        push_cast
        exact zpow_le_zpow_right₀ one_le_two (by have := hF.biasHi; omega)
      exact rounds_of_large (roundFp_one hF.toProper mode r _ 5000) (hnext _ le_rfl) (hnext _ (by exact_mod_cast this))
  case isFalse =>
  split
  case isTrue he =>
    have hv : signedMantissa neg m * (pow2 e : ℤ) = n := by
      rw [← pow2_eq_zpow he] at hn
      exact_mod_cast hn
    rw [hv]
    exact roundFp_one hF.toProper ..
  case isFalse he =>
    have hden := pow2_neg_mul (not_le.mp he)
    have hpos : 0 < (pow2 (-e) : ℤ) := by unfold pow2; positivity
    have hv : signedMantissa neg m = n * (pow2 (-e) : ℤ) := by
      have : (signedMantissa neg m : ℚ) = n * (pow2 (-e) : ℕ) := by
        rw [← hn, mul_assoc, mul_comm (2 ^ e), hden, mul_one]
      exact_mod_cast this
    rw [hv, Int.mul_emod_left, Int.toNat_zero, if_pos rfl, Int.mul_ediv_cancel _ hpos.ne']
    exact roundFp_one hF.toProper ..

/-! The fraction of a power. -/

/-- The roots of two that `exp2Frac` multiplies do not fall below one, and their product stays below two: what is left of the root at
each bit bounds what the bits below it can add. -/
theorem exp2Frac_bounds (f : ℕ) : ∀ k root acc, 2 ^ expBits ≤ root → 2 ^ expBits ≤ acc → acc * root ^ 2 < 2 ^ (3 * expBits + 1) →
    2 ^ expBits ≤ exp2Frac f k root acc ∧ exp2Frac f k root acc < 2 ^ (expBits + 1)
  | 0, root, acc, hroot, hacc, hprod => by
    rw [exp2Frac]
    refine ⟨hacc, ?_⟩
    by_contra hge
    have : 2 ^ (expBits + 1) * (2 ^ expBits) ^ 2 ≤ acc * root ^ 2 := Nat.mul_le_mul (not_lt.mp hge) (Nat.pow_le_pow_left hroot 2)
    have hpow : 2 ^ (expBits + 1) * (2 ^ expBits) ^ 2 = 2 ^ (3 * expBits + 1) := by ring
    omega
  | k + 1, root, acc, hroot, hacc, hprod => by
    rw [exp2Frac, isqrt_eq_sqrt]
    have hpos : 0 < 2 ^ expBits := by positivity
    have hnext : 2 ^ expBits ≤ (root * 2 ^ expBits).sqrt := by
      rw [Nat.le_sqrt]
      exact Nat.mul_le_mul_right _ hroot
    have hsq : (root * 2 ^ expBits).sqrt ^ 2 ≤ root * 2 ^ expBits := Nat.sqrt_le' _
    have hacc' : 2 ^ expBits ≤ (if f / 2 ^ k % 2 = 1 then acc * root / 2 ^ expBits else acc) ∧
        (if f / 2 ^ k % 2 = 1 then acc * root / 2 ^ expBits else acc) * 2 ^ expBits ≤ acc * root := by
      split
      · refine ⟨?_, Nat.div_mul_le_self _ _⟩
        rw [Nat.le_div_iff_mul_le hpos]
        exact Nat.mul_le_mul hacc hroot
      · exact ⟨hacc, Nat.mul_le_mul_left _ hroot⟩
    generalize (if f / 2 ^ k % 2 = 1 then acc * root / 2 ^ expBits else acc) = acc' at hacc' ⊢
    refine exp2Frac_bounds f k _ acc' hnext hacc'.1 (lt_of_le_of_lt ?_ hprod)
    calc acc' * (root * 2 ^ expBits).sqrt ^ 2 ≤ acc' * (root * 2 ^ expBits) := Nat.mul_le_mul_left _ hsq
      _ = acc' * 2 ^ expBits * root := by ring
      _ ≤ acc * root * root := Nat.mul_le_mul_right _ hacc'.2
      _ = acc * root ^ 2 := by ring

/-- A power of two with an odd exponent is no square. -/
theorem sq_ne_two_pow_odd (s n : ℕ) : s ^ 2 ≠ 2 ^ (2 * n + 1) := fun h => by
  obtain ⟨j, -, rfl⟩ := (Nat.dvd_prime_pow Nat.prime_two).mp (h ▸ dvd_pow_self s two_ne_zero)
  rw [← pow_mul] at h
  have := Nat.pow_right_injective le_rfl h
  omega

/-- The first root of `exp2Frac`, √2 in p bits, lies between 1 and √2. -/
theorem isqrt_two_bounds (p : ℕ) : 2 ^ p ≤ isqrt (2 * 2 ^ (2 * p)) ∧ 2 ^ p * isqrt (2 * 2 ^ (2 * p)) ^ 2 < 2 ^ (3 * p + 1) := by
  have hsq : 2 * 2 ^ (2 * p) = 2 ^ (2 * p + 1) := by ring
  have hpow : 2 ^ (3 * p + 1) = 2 ^ p * 2 ^ (2 * p + 1) := by ring
  rw [isqrt_eq_sqrt, hsq]
  constructor
  · rw [Nat.le_sqrt, ← pow_add]
    exact Nat.pow_le_pow_right two_pos (by omega)
  · rw [hpow]
    exact Nat.mul_lt_mul_of_pos_left (lt_of_le_of_ne (Nat.sqrt_le' _) (sq_ne_two_pow_odd _ _)) (by positivity)

theorem exp2Mantissa_bounds (frac : ℕ) (e : ℤ) : 2 ^ 144 ≤ exp2Mantissa frac e / 2 ^ 16 ∧ exp2Mantissa frac e / 2 ^ 16 + 1 ≤ 2 ^ 145 := by
  obtain ⟨hroot, hprod⟩ := isqrt_two_bounds expBits
  have hbounds : 2 ^ 160 ≤ exp2Mantissa frac e ∧ exp2Mantissa frac e < 2 ^ 161 := exp2Frac_bounds _ _ _ _ hroot le_rfl hprod
  omega

/-- A mantissa with a fraction, split at the binary point. -/
theorem signedMantissa_split {v e n : ℤ} (he : e < 0) (hn : (n : ℚ) < v * 2 ^ e) (hn' : (v : ℚ) * 2 ^ e < n + 1) :
    v / (pow2 (-e) : ℤ) = n ∧ ¬ (v % (pow2 (-e) : ℤ)).toNat = 0 := by
  have hden := pow2_neg_mul he
  have hpos : 0 < (pow2 (-e) : ℤ) := by unfold pow2; positivity
  have hp2 : (0 : ℚ) < 2 ^ e := by positivity
  have habove : n * (pow2 (-e) : ℤ) < v := by
    have : (n : ℚ) * (pow2 (-e) : ℕ) < v := by
      rw [← mul_lt_mul_iff_left₀ hp2, mul_assoc, hden, mul_one]
      exact hn
    exact_mod_cast this
  have hbelow : v < (n + 1) * (pow2 (-e) : ℤ) := by
    have : (v : ℚ) < (n + 1) * (pow2 (-e) : ℕ) := by
      rw [← mul_lt_mul_iff_left₀ hp2, mul_assoc _ _ (2 ^ e), hden, mul_one]
      exact hn'
    exact_mod_cast this
  have hfloor : v / (pow2 (-e) : ℤ) = n :=
    le_antisymm (Int.lt_add_one_iff.mp (Int.ediv_lt_of_lt_mul hpos hbelow)) ((Int.le_ediv_iff_mul_le hpos).mpr habove.le)
  refine ⟨hfloor, fun h0 => ?_⟩
  have hsplit := Int.mul_ediv_add_emod v (pow2 (-e) : ℤ)
  rw [hfloor, mul_comm] at hsplit
  omega

/-- Other powers lie between the whole powers beside them. -/
theorem fpExp2_between {F : Fmt} (hF : PowerFmt F) {mode : BitVec 3} {r : BitVec 32} {a : ℕ} {neg : Bool} {m : ℕ} {e : ℤ}
    (ha : fdec (machineFmt F) a = .fin neg m e) {n : ℤ} (hlow : -126 ≤ n) (hhigh : n < 127) (hn : (n : ℚ) < signum neg * m * 2 ^ e)
    (hn' : signum neg * m * 2 ^ e < (n : ℚ) + 1) :
    ∃ y : ℚ, F.value (fpExp2 (machineFmt F) mode r a).1 = some y ∧ (2 : ℚ) ^ n ≤ y ∧ y ≤ 2 ^ (n + 1) ∧
      (fpExp2 (machineFmt F) mode r a).2 = 0x01 := by
  have hwhole : ∀ j : ℤ, signum neg * m * 2 ^ e ≠ (j : ℚ) := fun j hj => by
    rw [hj] at hn hn'
    have h1 : n < j := by exact_mod_cast hn
    have h2 : j < n + 1 := by exact_mod_cast hn'
    omega
  have hm : m ≠ 0 := fun h0 => hwhole 0 (by simp [h0])
  have hsmall : ¬ e + (m.log2 : ℤ) > 12 := fun hbig => by
    have hlarge := large_operand hm hbig
    have h1 : (-126 : ℚ) ≤ n := by exact_mod_cast hlow
    have h2 : (n : ℚ) < 127 := by exact_mod_cast hhigh
    cases neg
    · rw [signum_false, one_mul] at hn'
      linarith
    · rw [signum_true] at hn
      linarith
  rw [← signedMantissa_cast] at hn hn' hwhole
  have he : e < 0 := by
    by_contra hge
    refine hwhole (signedMantissa neg m * (pow2 e : ℤ)) ?_
    rw [← pow2_eq_zpow (not_lt.mp hge)]
    push_cast
    rfl
  obtain ⟨hfloor, hfrac⟩ := signedMantissa_split he hn hn'
  obtain ⟨hlo, hhi⟩ := exp2Mantissa_bounds (signedMantissa neg m % (pow2 (-e) : ℤ)).toNat e
  rw [fpExp2_fin ha]
  dsimp only
  rw [if_neg hm, if_neg hsmall, if_neg (not_le.mpr he), if_neg hfrac, hfloor]
  generalize exp2Mantissa (signedMantissa neg m % (pow2 (-e) : ℤ)).toNat e / 2 ^ 16 = q at hlo hhi ⊢
  have hexp : n - (expBits : ℤ) + 16 = n - 144 := by
    have : (expBits : ℤ) = 160 := rfl
    omega
  have hbias := hF.biasLo
  have hlow' : least F ≤ n := by unfold least; omega
  have hq : q ≠ 0 := fun h0 => by
    rw [h0] at hlo
    exact absurd hlo (by decide)
  have hqlo : (2 : ℚ) ^ 144 ≤ q := by exact_mod_cast hlo
  have hqhi : (q : ℚ) + 1 ≤ 2 ^ 145 := by exact_mod_cast hhi
  have hunit : ∀ (j : ℕ) (i : ℤ), j + (n - 144) = i → (2 : ℚ) ^ j * 2 ^ (n - 144) = 2 ^ i := fun j i hi => by
    rw [← zpow_natCast, ← zpow_add₀ two_ne_zero, hi]
  have hA := hunit 144 n (by omega)
  have hB := hunit 145 (n + 1) (by omega)
  have hcast : ∀ j : ℤ, (((2 : ℚ) ^ j : ℚ) : ℝ) = 2 ^ j := fun j => by push_cast; rfl
  have hlo' : (2 : ℚ) ^ n ≤ q * 2 ^ (n - 144) := by rw [← hA]; gcongr
  have hhi' : ((q : ℚ) + 1) * 2 ^ (n - 144) ≤ 2 ^ (n + 1) := by rw [← hB]; gcongr
  have hnext : (2 : ℚ) ^ (n + 1) < F.next := by
    rw [Fmt.next, if_pos hF.infinite]
    exact zpow_lt_zpow_right₀ one_lt_two (by omega)
  obtain ⟨y, hy, hAy, hyB, hflags⟩ := roundFp_between hF.toProper (mode := mode) (neg := false) (r := r) (d := some 17)
    (by rw [hcast]; exact onGrid_zpow hF.toProper hlow') (by rw [hcast]; exact onGrid_zpow hF.toProper (by omega)) hlo' hhi' hnext
  rw [signum_false, one_mul] at hy
  rw [hexp]
  exact ⟨y, hy, hAy, hyB, hflags hq (zpow_le_zpow_right₀ one_le_two (by omega))⟩

end Sys2Proof.Proofs
end

section
/-! PROOFS. `fpLog2` (R76): the logarithms of powers of two are exactly rounded, and all others lie between the whole numbers beside
them. -/

namespace Sys2Proof.Proofs

open Sys2Proof.Machine Sys2Proof.Claim

theorem fpLog2_fin {F : Fmt} {mode : BitVec 3} {r : BitVec 32} {a m : ℕ} {e : ℤ} (ha : fdec (machineFmt F) a = .fin false m e) (hm : m ≠ 0) :
    fpLog2 (machineFmt F) mode r a =
      let round (neg : Bool) (m : ℕ) (e : ℤ) (sticky : Bool) := roundFp (machineFmt F) mode false neg m e sticky r (some 17)
      let top : ℤ := e + (m.log2 : ℤ)
      let frac := log2Frac logOut (m * 2 ^ (logBits - m.log2)) 0
      if m = 2 ^ m.log2 then round (decide (top < 0)) top.natAbs 0 false
      else if top ≥ 0 then round false (top.toNat * 2 ^ logOut + frac) (-(logOut : ℤ)) true
      else round true (top.natAbs * 2 ^ logOut - frac - 1) (-(logOut : ℤ)) true := by
  simp only [fpLog2, ha, if_neg hm, Bool.false_eq_true, if_false]

/-- A number lies between the powers of two that the bits of its mantissa give. -/
theorem log2_size {m : ℕ} (hm : m ≠ 0) (e : ℤ) : (2 : ℚ) ^ (e + (m.log2 : ℤ)) ≤ m * 2 ^ e ∧ (m : ℚ) * 2 ^ e < 2 ^ (e + (m.log2 : ℤ) + 1) := by
  have hlo : (2 : ℚ) ^ m.log2 ≤ m := by exact_mod_cast Nat.log2_self_le hm
  have hhi : (m : ℚ) < 2 ^ (m.log2 + 1) := by exact_mod_cast Nat.lt_log2_self
  have hcast : (2 : ℚ) ^ ((m.log2 : ℤ) + 1) = 2 ^ (m.log2 + 1) := by exact_mod_cast zpow_natCast (2 : ℚ) (m.log2 + 1)
  rw [add_assoc, zpow_add₀ two_ne_zero, zpow_add₀ two_ne_zero e, zpow_natCast, hcast, mul_comm ((2 : ℚ) ^ e), mul_comm ((2 : ℚ) ^ e)]
  constructor <;> gcongr

/-- The whole part of a logarithm. -/
theorem log2_whole {m : ℕ} (hm : m ≠ 0) {e n : ℤ} (hlo : (2 : ℚ) ^ n ≤ m * 2 ^ e) (hhi : (m : ℚ) * 2 ^ e < 2 ^ (n + 1)) : e + (m.log2 : ℤ) = n := by
  obtain ⟨h1, h2⟩ := log2_size hm e
  have h3 := (zpow_lt_zpow_iff_right₀ (one_lt_two (α := ℚ))).mp (lt_of_le_of_lt h1 hhi)
  have h4 := (zpow_lt_zpow_iff_right₀ (one_lt_two (α := ℚ))).mp (lt_of_le_of_lt hlo h2)
  omega

theorem two_pow_log2_iff (m : ℕ) (e : ℤ) : m = 2 ^ m.log2 ↔ (m : ℚ) * 2 ^ e = 2 ^ (e + (m.log2 : ℤ)) := by
  rw [zpow_add₀ two_ne_zero, mul_comm ((2 : ℚ) ^ e), mul_left_inj' (by positivity), zpow_natCast]
  exact_mod_cast Iff.rfl

/-- The logarithm of a power of two, exactly rounded. -/
theorem fpLog2_power {F : Fmt} (hF : Proper F) {mode : BitVec 3} {r : BitVec 32} {a m : ℕ} {e n : ℤ}
    (ha : fdec (machineFmt F) a = .fin false m e) (hn : (m : ℚ) * 2 ^ e = 2 ^ n) : Rounds F false mode (n : ℝ) (fpLog2 (machineFmt F) mode r a) := by
  have hm : m ≠ 0 := fun h0 => by
    rw [h0, Nat.cast_zero, zero_mul] at hn
    exact absurd hn.symm (by positivity)
  have htop := log2_whole hm hn.ge (hn ▸ zpow_lt_zpow_right₀ one_lt_two (lt_add_one n))
  rw [fpLog2_fin ha hm]
  dsimp only
  rw [htop, if_pos ((two_pow_log2_iff m e).mpr (by rw [hn, htop]))]
  have := roundFp_rounds_exact hF (mode := mode) (sat := false) (r := r) (d := some 17) (p := n) (neg := decide (n < 0)) (m := n.natAbs) (e := 0)
    (by rw [signum_natAbs, zpow_zero, mul_one])
  rwa [Rat.cast_intCast] at this

/-- Every step of `log2Frac` adds one bit. -/
theorem log2Frac_lt : ∀ k y acc, log2Frac k y acc < (acc + 1) * 2 ^ k
  | 0, y, acc => by simp [log2Frac]
  | k + 1, y, acc => by
    rw [log2Frac]
    split
    · refine lt_of_lt_of_le (log2Frac_lt k _ _) ?_
      rw [pow_succ]
      nlinarith [Nat.zero_le (2 ^ k)]
    · refine lt_of_lt_of_le (log2Frac_lt k _ _) ?_
      rw [pow_succ]
      nlinarith [Nat.zero_le (2 ^ k)]

/-- Numbers of a format with infinities lie below the magnitude after the largest. -/
theorem lt_next_of_value {F : Fmt} (hF : Proper F) (hinf : F.inf = true) {v : ℕ} {p : ℚ} (h : F.value v = some p) : |p| < F.next := by
  have hns : ¬ Special F v := fun hs => by rw [value_eq_none.mpr hs] at h; cases h
  have hx : 4 ≤ 2 ^ F.x := Nat.pow_le_pow_right two_pos hF.exponent
  have htwo := two_pow_x hF
  have hxz : ((2 ^ F.x : ℕ) : ℤ) = 2 ^ F.x := by push_cast; rfl
  have hbias := bias_pos hF
  have hE : v / 2 ^ F.f % 2 ^ F.x < 2 ^ F.x := Nat.mod_lt _ (by positivity)
  have hE' : v / 2 ^ F.f % 2 ^ F.x ≠ 2 ^ F.x - 1 := fun hE => hns ⟨hE, .inl hinf⟩
  have hc : v % 2 ^ F.f < 2 ^ F.f := Nat.mod_lt _ (by positivity)
  have hsucc : 2 ^ (F.f + 1) = 2 ^ F.f + 2 ^ F.f := by ring
  rw [value_number hns] at h
  obtain rfl := Option.some.inj h
  rw [abs_mul, abs_signum, one_mul]
  split
  · rw [abs_of_nonneg (by positivity)]
    exact lt_next_of_unit (by omega) (by unfold least; omega)
  · rw [abs_of_nonneg (by positivity)]
    exact lt_next_of_unit (by omega) (by omega)

/-- Whole numbers up to 2^(f+1) lie within the format's range. -/
theorem natCast_lt_next {F : Fmt} (hF : PowerFmt F) {n : ℕ} (h : n ≤ 2 ^ (F.f + 1)) : (n : ℚ) < F.next := by
  have h' : (n : ℚ) ≤ 2 ^ (F.f + 1) := by exact_mod_cast h
  have hf := hF.short
  have hb := hF.biasLo
  rw [Fmt.next, if_pos hF.infinite]
  calc (n : ℚ) ≤ 2 ^ (F.f + 1) := h'
    _ = 2 ^ ((F.f + 1 : ℕ) : ℤ) := (zpow_natCast ..).symm
    _ < 2 ^ (F.bias + 1) := zpow_lt_zpow_right₀ one_lt_two (by push_cast; omega)

/-- The whole part of a number's logarithm has fewer bits than the format's mantissa holds. -/
theorem log2_whole_short {F : Fmt} (hF : PowerFmt F) {a m : ℕ} {e n : ℤ} (ha : Parts F a false m e) (hlo : (2 : ℚ) ^ n < m * 2 ^ e)
    (hhi : (m : ℚ) * 2 ^ e < 2 ^ (n + 1)) : -(2 ^ (F.f + 1) : ℤ) < n ∧ n + 1 < 2 ^ (F.f + 1) := by
  have hr := hF.range
  have hf := hF.wide
  have hnext := lt_next_of_value hF.toProper hF.infinite ha.value
  rw [signum_false, one_mul, abs_of_nonneg (by positivity), Fmt.next, if_pos hF.infinite] at hnext
  have h1 := (zpow_lt_zpow_iff_right₀ (one_lt_two (α := ℚ))).mp (hlo.trans hnext)
  have h2 : (2 : ℚ) ^ least F ≤ m * 2 ^ e := by
    have hm : 0 < m := Nat.pos_of_ne_zero fun h0 => by
      rw [h0, Nat.cast_zero, zero_mul] at hlo
      exact absurd hlo (not_lt.mpr (by positivity))
    have : (1 : ℚ) ≤ m := by exact_mod_cast hm
    calc (2 : ℚ) ^ least F ≤ 2 ^ e := zpow_le_zpow_right₀ one_le_two ha.low
      _ ≤ m * 2 ^ e := le_mul_of_one_le_left (by positivity) this
  have h3 := (zpow_lt_zpow_iff_right₀ (one_lt_two (α := ℚ))).mp (lt_of_le_of_lt h2 hhi)
  unfold least at h3
  omega

/-- Other logarithms lie between the whole numbers beside them. -/
theorem fpLog2_between {F : Fmt} (hF : PowerFmt F) {mode : BitVec 3} {r : BitVec 32} {a m : ℕ} {e n : ℤ} (ha : Parts F a false m e)
    (hlo : (2 : ℚ) ^ n < m * 2 ^ e) (hhi : (m : ℚ) * 2 ^ e < 2 ^ (n + 1)) :
    ∃ y : ℚ, F.value (fpLog2 (machineFmt F) mode r a).1 = some y ∧ (n : ℚ) ≤ y ∧ y ≤ n + 1 := by
  have hm : m ≠ 0 := fun h0 => by
    rw [h0, Nat.cast_zero, zero_mul] at hlo
    exact absurd hlo (not_lt.mpr (by positivity))
  have htop := log2_whole hm hlo.le hhi
  have hnot : m ≠ 2 ^ m.log2 := fun h => hlo.ne' (by rw [(two_pow_log2_iff m e).mp h, htop])
  obtain ⟨hrange, hrange'⟩ := log2_whole_short hF ha hlo hhi
  have hleast : least F ≤ 0 := by have := hF.biasLo; unfold least; omega
  have hgrid : ∀ j : ℕ, j < 2 ^ (F.f + 1) → OnGrid F ((j : ℚ) : ℝ) := fun j hj => by
    rw [Rat.cast_natCast]
    exact onGrid_natCast hleast hj
  have hfrac : log2Frac logOut (m * 2 ^ (logBits - m.log2)) 0 < 2 ^ logOut := by simpa using log2Frac_lt logOut (m * 2 ^ (logBits - m.log2)) 0
  rw [fpLog2_fin ha.read hm]
  dsimp only
  rw [if_neg hnot, htop]
  generalize log2Frac logOut (m * 2 ^ (logBits - m.log2)) 0 = frac at hfrac ⊢
  generalize logOut = l at hfrac ⊢
  have hl : (2 : ℚ) ^ l * 2 ^ (-(l : ℤ)) = 1 := by rw [zpow_neg, zpow_natCast]; field_simp
  have hscale : ∀ x : ℚ, x * 2 ^ l * 2 ^ (-(l : ℤ)) = x := fun x => by rw [mul_assoc, hl, mul_one]
  have hl0 : (0 : ℚ) < 2 ^ (-(l : ℤ)) := by positivity
  have hpow : ((2 ^ (F.f + 1) : ℕ) : ℤ) = 2 ^ (F.f + 1) := by push_cast; rfl
  split
  case isTrue hpos =>
    obtain ⟨j, rfl⟩ := Int.eq_ofNat_of_zero_le hpos
    have h1 : (j : ℚ) ≤ (j * 2 ^ l + frac : ℕ) * 2 ^ (-(l : ℤ)) := by
      conv_lhs => rw [← hscale j]
      gcongr
      push_cast
      linarith [frac.cast_nonneg (α := ℚ)]
    have h2 : ((j * 2 ^ l + frac : ℕ) + 1 : ℚ) * 2 ^ (-(l : ℤ)) ≤ (j + 1 : ℕ) := by
      conv_rhs => rw [← hscale (j + 1 : ℕ)]
      gcongr
      have : (frac : ℚ) + 1 ≤ 2 ^ l := by exact_mod_cast hfrac
      push_cast
      linarith
    obtain ⟨y, hy, hlow, hhigh, -⟩ := roundFp_between hF.toProper (mode := mode) (neg := false) (r := r) (d := some 17)
      (hgrid j (by omega)) (hgrid (j + 1) (by omega)) h1 h2 (natCast_lt_next hF (by omega))
    rw [signum_false, one_mul] at hy
    exact ⟨y, hy, by exact_mod_cast hlow, by exact_mod_cast hhigh⟩
  case isFalse hneg =>
    obtain ⟨j, hj⟩ : ∃ j : ℕ, n = -((j : ℤ) + 1) := ⟨(-n - 1).toNat, by omega⟩
    have habs : n.natAbs = j + 1 := by omega
    have hmag : n.natAbs * 2 ^ l - frac - 1 = j * 2 ^ l + (2 ^ l - 1 - frac) := by
      rw [habs, add_mul, one_mul]
      omega
    rw [hmag]
    have h1 : (j : ℚ) ≤ (j * 2 ^ l + (2 ^ l - 1 - frac) : ℕ) * 2 ^ (-(l : ℤ)) := by
      conv_lhs => rw [← hscale j]
      gcongr
      push_cast
      linarith [(2 ^ l - 1 - frac).cast_nonneg (α := ℚ)]
    have h2 : ((j * 2 ^ l + (2 ^ l - 1 - frac) : ℕ) + 1 : ℚ) * 2 ^ (-(l : ℤ)) ≤ (j + 1 : ℕ) := by
      conv_rhs => rw [← hscale (j + 1 : ℕ)]
      gcongr
      have : ((2 ^ l - 1 - frac : ℕ) : ℚ) + 1 ≤ 2 ^ l := by exact_mod_cast (by omega : 2 ^ l - 1 - frac + 1 ≤ 2 ^ l)
      push_cast at this ⊢
      linarith
    obtain ⟨y, hy, hlow, hhigh, -⟩ := roundFp_between hF.toProper (mode := mode) (neg := true) (r := r) (d := some 17)
      (hgrid j (by omega)) (hgrid (j + 1) (by omega)) h1 h2 (natCast_lt_next hF (by omega))
    rw [signum_true, neg_one_mul] at hy
    refine ⟨-y, hy, ?_, ?_⟩
    · rw [hj]; push_cast at hhigh ⊢; linarith
    · rw [hj]; push_cast; linarith

/-- Powers and logarithms (R76). -/
theorem powersRound {F : Fmt} (hF : PowerFmt F) (mode : BitVec 3) (r : BitVec 32) (a : ℕ) : PowersRound (machineFmt F) F mode r a := by
  obtain ⟨h1, h2, h3, h4, h5, h6, h7, h8⟩ := powers_special hF mode r
  refine ⟨h1, h2, h3, h4, h5, h6, h7, h8, fun p hp => ?_⟩
  obtain ⟨neg, m, e, ha, rfl⟩ := parts_of_value hp
  refine ⟨fun n hn => fpExp2_whole hF ha.read hn, fun n h1 h2 h3 h4 => fpExp2_between hF ha.read h1 h2 h3 h4, fun n hn => ?_, fun n h1 h2 => ?_⟩
  · obtain ⟨rfl, -⟩ := signed_pos (n := neg) (m := m) (e := e) (by rw [hn]; positivity)
    rw [signum_false, one_mul] at hn
    exact fpLog2_power hF.toProper ha.read hn
  · obtain ⟨rfl, -⟩ := signed_pos (lt_trans (by positivity) h1)
    rw [signum_false, one_mul] at h1 h2
    exact fpLog2_between hF ha h1 h2

end Sys2Proof.Proofs
end

section
/-! PROOFS. NaNs, infinities and numbers of FP64 and FP32 as the statements name them, and R74: what NaN operands and invalid operations
give. -/

namespace Sys2Proof.Proofs

open Sys2Proof.Machine Sys2Proof.Claim

theorem format_eq (d : Bool) : (if d then fp64 else fp32) = machineFmt (floatFmt d) := by cases d <;> rfl

theorem canonNaN_floatFmt (d : Bool) : canonNaN (machineFmt (floatFmt d)) = if d then 0x7FF8_0000_0000_0000 else 0x7FC0_0000 := by
  cases d <;> decide

theorem isNaN_iff (d : Bool) (v : ℕ) : IsNaN d v ↔ Special (floatFmt d) v ∧ v % 2 ^ (floatFmt d).f ≠ 0 := by
  cases d <;> simp [IsNaN, Special, floatFmt]

/-- The number of an encoding over the fields of its format. -/
theorem number_eq (d : Bool) (v : ℕ) : number d v =
    let F := floatFmt d
    let neg := decide (v / 2 ^ (F.x + F.f) % 2 = 1)
    if v / 2 ^ F.f % 2 ^ F.x = 2 ^ F.x - 1 then (if neg then ⊥ else ((⊤ : WithTop ℚ) : WithBot (WithTop ℚ)))
    else if v / 2 ^ F.f % 2 ^ F.x = 0 then ((signum neg * (v % 2 ^ F.f : ℕ) * 2 ^ least F : ℚ) : WithTop ℚ)
    else ((signum neg * (2 ^ F.f + v % 2 ^ F.f : ℕ) * 2 ^ (((v / 2 ^ F.f % 2 ^ F.x : ℕ) : ℤ) - F.bias - F.f) : ℚ) : WithTop ℚ) := by
  have hsign : ∀ p : Prop, [Decidable p] → (if (if p then (-1 : ℚ) else 1) = 1 then ((⊤ : WithTop ℚ) : WithBot (WithTop ℚ)) else ⊥) =
      if p then ⊥ else ((⊤ : WithTop ℚ) : WithBot (WithTop ℚ)) := fun p _ => by
    by_cases h : p
    · rw [if_pos h, if_pos h, if_neg (by norm_num)]
    · rw [if_neg h, if_neg h, if_pos rfl]
  have hbias : ∀ d, (floatFmt d).bias = if d then 1023 else 127 := by decide
  simp only [number, hsign, signum, decide_eq_true_eq, least, hbias]
  cases d <;> simp only [floatFmt, Bool.false_eq_true, if_true, if_false]

theorem number_special {d : Bool} {v : ℕ} (h : Special (floatFmt d) v) : number d v =
    if decide (v / 2 ^ ((floatFmt d).x + (floatFmt d).f) % 2 = 1) then ⊥ else ((⊤ : WithTop ℚ) : WithBot (WithTop ℚ)) := by
  rw [number_eq]
  exact if_pos h.1

theorem floatFmt_inf (d : Bool) : (floatFmt d).inf = true := by cases d <;> rfl

theorem number_of_value {d : Bool} {v : ℕ} {p : ℚ} (h : (floatFmt d).value v = some p) : number d v = (p : WithTop ℚ) := by
  have hns : ¬ Special (floatFmt d) v := fun hs => by rw [value_eq_none.mpr hs] at h; cases h
  have he : v / 2 ^ (floatFmt d).f % 2 ^ (floatFmt d).x ≠ 2 ^ (floatFmt d).x - 1 := fun he => hns ⟨he, .inl (floatFmt_inf d)⟩
  rw [value_number hns] at h
  obtain rfl := Option.some.inj h
  rw [number_eq]
  dsimp only
  rw [if_neg he]
  split <;> rw [mul_assoc]

/-- What `fdec` reads from an encoding of FP64 or FP32, in the words of the statements. -/
inductive Reading (d : Bool) (v : ℕ) : FVal → Prop
  | nan : IsNaN d v → Reading d v (.nan (decide (Signals d v)))
  | inf (neg : Bool) : ¬ IsNaN d v → (floatFmt d).value v = none →
      number d v = (if neg then ⊥ else ((⊤ : WithTop ℚ) : WithBot (WithTop ℚ))) → Reading d v (.inf neg)
  | fin (neg : Bool) (m : ℕ) (e : ℤ) : ¬ IsNaN d v → Parts (floatFmt d) v neg m e →
      number d v = ((signum neg * m * 2 ^ e : ℚ) : WithTop ℚ) → Reading d v (.fin neg m e)

theorem reading (d : Bool) (v : ℕ) : ∃ x, fdec (machineFmt (floatFmt d)) v = x ∧ Reading d v x := by
  refine ⟨_, rfl, ?_⟩
  by_cases hs : Special (floatFmt d) v
  · rw [fdec_special hs, floatFmt_inf]
    by_cases hf : v % 2 ^ (floatFmt d).f = 0
    · rw [if_pos ⟨rfl, hf⟩]
      exact .inf _ (fun h => ((isNaN_iff d v).mp h).2 hf) (value_eq_none.mpr hs) (number_special hs)
    · have hnan : IsNaN d v := (isNaN_iff d v).mpr ⟨hs, hf⟩
      have hsig : (true = true ∧ (floatFmt d).f ≠ 2 ∧ v % 2 ^ (floatFmt d).f < 2 ^ ((floatFmt d).f - 1)) ↔ Signals d v := by
        unfold Signals
        rw [and_iff_right hnan]
        cases d <;> simp [floatFmt]
      rw [if_neg fun h => hf h.2, decide_eq_decide.mpr hsig]
      exact .nan hnan
  · obtain ⟨neg, m, e, hp⟩ := parts_of_not_special hs
    rw [hp.read]
    exact .fin neg m e (fun h => hs ((isNaN_iff d v).mp h).1) hp (number_of_value hp.value)

theorem isNaN_fdec (d : Bool) (v : ℕ) : (fdec (machineFmt (floatFmt d)) v).isNaN = true ↔ IsNaN d v := by
  obtain ⟨x, hx, h⟩ := reading d v
  rw [hx]
  cases h with
  | nan h => exact iff_of_true rfl h
  | inf neg h => exact iff_of_false (by simp [FVal.isNaN]) h
  | fin neg m e h => exact iff_of_false (by simp [FVal.isNaN]) h

theorem signals_fdec (d : Bool) (v : ℕ) : (fdec (machineFmt (floatFmt d)) v).signals = true ↔ Signals d v := by
  obtain ⟨x, hx, h⟩ := reading d v
  rw [hx]
  cases h with
  | nan h => exact decide_eq_true_iff
  | inf neg h => exact iff_of_false (by simp [FVal.signals]) fun hs => h hs.1
  | fin neg m e h => exact iff_of_false (by simp [FVal.signals]) fun hs => h hs.1

/-- What is no NaN and stands for a number is a number of the format. -/
theorem value_of_number {d : Bool} {v : ℕ} {p : ℚ} (hnan : ¬ IsNaN d v) (h : number d v = (p : WithTop ℚ)) :
    (floatFmt d).value v = some p := by
  obtain ⟨x, -, hx⟩ := reading d v
  cases hx with
  | nan h' => exact absurd h' hnan
  | inf neg _ _ hn =>
    rw [hn] at h
    cases neg
    · exact absurd (WithBot.coe_injective h).symm WithTop.coe_ne_top
    · exact absurd h WithBot.bot_ne_coe
  | fin neg m e _ hp hn =>
    rw [hn] at h
    rw [hp.value, WithTop.coe_injective (WithBot.coe_injective h)]

/-- An infinity's number tells its sign. -/
theorem inf_of_number {d : Bool} {v : ℕ} {neg : Bool} (hnan : ¬ IsNaN d v)
    (h : number d v = if neg then ⊥ else ((⊤ : WithTop ℚ) : WithBot (WithTop ℚ))) : fdec (machineFmt (floatFmt d)) v = .inf neg := by
  obtain ⟨x, hx, hr⟩ := reading d v
  rw [hx]
  cases hr with
  | nan h' => exact absurd h' hnan
  | inf neg' _ _ hn =>
    rw [hn] at h
    cases neg <;> cases neg' <;> simp_all
  | fin neg' m e _ hp hn =>
    rw [hn] at h
    cases neg
    · exact absurd (WithBot.coe_injective h) WithTop.coe_ne_top
    · exact absurd h WithBot.coe_ne_bot

/-! NaN operands. -/

theorem isNaN_negated (x : FVal) : (negated x).isNaN = x.isNaN := by cases x <;> rfl
theorem signals_negated (x : FVal) : (negated x).signals = x.signals := by cases x <;> rfl

section
variable {t : FpFmt} {mode : BitVec 3} {r : BitVec 32} {a b c : ℕ}

theorem fpAdd_nan (h : (fdec t a).isNaN || (fdec t b).isNaN) : fpAdd t mode r a b = nanOut t ((fdec t a).signals || (fdec t b).signals) := by
  unfold fpAdd
  generalize fdec t a = x at *
  generalize fdec t b = y at *
  cases x <;> cases y <;> simp_all [FVal.isNaN, FVal.signals]

theorem fpMul_nan (h : (fdec t a).isNaN || (fdec t b).isNaN) : fpMul t mode r a b = nanOut t ((fdec t a).signals || (fdec t b).signals) := by
  unfold fpMul
  generalize fdec t a = x at *
  generalize fdec t b = y at *
  cases x <;> cases y <;> simp_all [FVal.isNaN, FVal.signals]

theorem fpDiv_nan (h : (fdec t a).isNaN || (fdec t b).isNaN) : fpDiv t mode r a b = nanOut t ((fdec t a).signals || (fdec t b).signals) := by
  unfold fpDiv
  generalize fdec t a = x at *
  generalize fdec t b = y at *
  cases x <;> cases y <;> simp_all [FVal.isNaN, FVal.signals]

theorem fpSub_nan {F : Fmt} (h : (fdec (machineFmt F) a).isNaN || (fdec (machineFmt F) b).isNaN) : fpSub (machineFmt F) mode r a b =
    nanOut (machineFmt F) ((fdec (machineFmt F) a).signals || (fdec (machineFmt F) b).signals) := by
  rw [fpSub, fpAdd_nan (by rwa [fdec_fpNeg, isNaN_negated]), fdec_fpNeg, signals_negated]

/-- A fused product of a NaN operand gives the canonical NaN; NV says that an operand signals, or that ∞ × 0 is added to a NaN. -/
theorem fpFma_nan (h : (fdec t a).isNaN || (fdec t b).isNaN || (fdec t c).isNaN) : ∃ nv, fpFma t mode r a b c = nanOut t nv ∧
    ((fdec t a).signals || (fdec t b).signals || (fdec t c).signals → nv = true) := by
  unfold fpFma
  generalize fdec t a = x at *
  generalize fdec t b = y at *
  generalize fdec t c = z at *
  by_cases hxy : x.isNaN || y.isNaN
  · simp only [hxy, if_true]
    exact ⟨_, rfl, id⟩
  · simp only [hxy, Bool.false_eq_true, if_false]
    obtain ⟨s, rfl⟩ : ∃ s, z = .nan s := by
      cases z <;> simp_all [FVal.isNaN]
    have hzero : ∀ m : ℕ, ∃ nv, (if m = 0 then nanOut t true else nanOut t s) = nanOut t nv ∧ (s = true → nv = true) := fun m => by
      split
      · exact ⟨true, rfl, fun _ => rfl⟩
      · exact ⟨s, rfl, id⟩
    cases x with
    | nan => simp [FVal.isNaN] at hxy
    | inf n =>
      cases y with
      | nan => simp [FVal.isNaN] at hxy
      | inf n' => exact ⟨s, rfl, by simp [FVal.signals]⟩
      | fin n' m' e' => simpa [FVal.signals, fpFma.addInf] using hzero m'
    | fin n m e =>
      cases y with
      | nan => simp [FVal.isNaN] at hxy
      | inf n' => simpa [FVal.signals, fpFma.addInf] using hzero m
      | fin n' m' e' => exact ⟨s, rfl, by simp [FVal.signals]⟩

end

/-! Invalid operations. -/

section
variable {d : Bool} {v : ℕ}

/-- What is neither a NaN nor zero has a sign, and lies below zero when it is set. -/
theorem nonzero_reading (hnan : ¬ IsNaN d v) (hz : number d v ≠ ((0 : ℚ) : WithTop ℚ)) :
    ∃ n, (fdec (machineFmt (floatFmt d)) v = .inf n ∨ ∃ m e, m ≠ 0 ∧ fdec (machineFmt (floatFmt d)) v = .fin n m e) ∧
      (number d v < ((0 : ℚ) : WithTop ℚ) ↔ n = true) := by
  obtain ⟨x, hx, hr⟩ := reading d v
  rw [hx]
  cases hr with
  | nan h' => exact absurd h' hnan
  | inf n _ _ hn =>
    refine ⟨n, .inl rfl, ?_⟩
    rw [hn]
    cases n
    · exact iff_of_false (fun h => not_top_lt (WithBot.coe_lt_coe.mp h)) Bool.false_ne_true
    · exact iff_of_true (WithBot.bot_lt_coe _) rfl
  | fin n m e _ hp hn =>
    have hm : m ≠ 0 := fun h0 => hz (by rw [hn, signed_eq_zero.mpr h0])
    have hpos : (0 : ℚ) < m * 2 ^ e := by positivity
    refine ⟨n, .inr ⟨m, e, hm, rfl⟩, ?_⟩
    rw [hn, WithBot.coe_lt_coe, WithTop.coe_lt_coe]
    cases n
    · simp [hpos.le]
    · simpa using hpos

theorem zero_reading (hnan : ¬ IsNaN d v) (hz : number d v = ((0 : ℚ) : WithTop ℚ)) : ∃ n e, fdec (machineFmt (floatFmt d)) v = .fin n 0 e := by
  obtain ⟨n, m, e, hp, hv⟩ := parts_of_value (value_of_number hnan hz)
  obtain rfl := signed_eq_zero.mp hv.symm
  exact ⟨n, e, hp.read⟩

theorem inf_reading (hnan : ¬ IsNaN d v) (h : number d v = ((⊤ : WithTop ℚ) : WithBot (WithTop ℚ)) ∨ number d v = ⊥) :
    ∃ n, fdec (machineFmt (floatFmt d)) v = .inf n ∧ number d v = if n then ⊥ else ((⊤ : WithTop ℚ) : WithBot (WithTop ℚ)) := by
  rcases h with h | h
  · exact ⟨false, inf_of_number hnan (by simpa using h), by simpa using h⟩
  · exact ⟨true, inf_of_number hnan (by simpa using h), by simpa using h⟩

end

section
variable {t : FpFmt} {mode : BitVec 3} {r : BitVec 32} {a b c : ℕ} {n1 n2 n3 : Bool}

/-- ∞ × 0, alone and as the product of FFMA. -/
theorem fpMul_inf_zero (h : (∃ e, fdec t a = .inf n1 ∧ fdec t b = .fin n2 0 e) ∨ ∃ e, fdec t a = .fin n1 0 e ∧ fdec t b = .inf n2) :
    fpMul t mode r a b = nanOut t true ∧ fpFma t mode r a b c = nanOut t true := by
  obtain ⟨e, ha, hb⟩ | ⟨e, ha, hb⟩ := h <;> simp [fpMul, fpFma, ha, hb, FVal.isNaN]

/-- ∞ × y − ∞: an infinite product and an infinite addend of the other sign. -/
theorem fpFma_inf_sub_inf (ha : fdec t a = .inf n1 ∨ ∃ m e, m ≠ 0 ∧ fdec t a = .fin n1 m e)
    (hb : fdec t b = .inf n2 ∨ ∃ m e, m ≠ 0 ∧ fdec t b = .fin n2 m e) (hinf : fdec t a = .inf n1 ∨ fdec t b = .inf n2)
    (hc : fdec t c = .inf n3) (hsign : (n1 != n2) ≠ n3) : fpFma t mode r a b c = nanOut t true := by
  rcases ha with ha | ⟨m, e, hm, ha⟩ <;> rcases hb with hb | ⟨m', e', hm', hb⟩ <;> simp_all [fpFma, FVal.isNaN, fpFma.addInf]

end

/-- An infinite product of nonzero operands and an infinity of the other sign. -/
theorem fpFma_opposite_infinities {d : Bool} {m : BitVec 3} {r : BitVec 32} {a b c : ℕ} (hna : ¬ IsNaN d a) (hnb : ¬ IsNaN d b) (hnc : ¬ IsNaN d c)
    (hc : number d c = ((⊤ : WithTop ℚ) : WithBot (WithTop ℚ)) ∨ number d c = ⊥)
    (h : (number d a = ((⊤ : WithTop ℚ) : WithBot (WithTop ℚ)) ∨ number d a = ⊥) ∧ ¬ number d b = ((0 : ℚ) : WithTop ℚ) ∨
      (number d b = ((⊤ : WithTop ℚ) : WithBot (WithTop ℚ)) ∨ number d b = ⊥) ∧ ¬ number d a = ((0 : ℚ) : WithTop ℚ))
    (hsign : number d c = ((⊤ : WithTop ℚ) : WithBot (WithTop ℚ)) ↔
      ¬ (number d a < ((0 : ℚ) : WithTop ℚ) ↔ number d b < ((0 : ℚ) : WithTop ℚ))) :
    fpFma (machineFmt (floatFmt d)) m r a b c = nanOut (machineFmt (floatFmt d)) true := by
  have hne : ∀ v, number d v = ((⊤ : WithTop ℚ) : WithBot (WithTop ℚ)) ∨ number d v = ⊥ → number d v ≠ ((0 : ℚ) : WithTop ℚ) := by
    rintro v (hv | hv) hz
    · exact WithTop.coe_ne_top (WithBot.coe_injective (hz.symm.trans hv))
    · exact WithBot.coe_ne_bot (hz.symm.trans hv)
  obtain ⟨hza, hzb⟩ : number d a ≠ ((0 : ℚ) : WithTop ℚ) ∧ number d b ≠ ((0 : ℚ) : WithTop ℚ) :=
    h.elim (fun h => ⟨hne a h.1, h.2⟩) fun h => ⟨h.2, hne b h.1⟩
  obtain ⟨n1, hx, hn1⟩ := nonzero_reading hna hza
  obtain ⟨n2, hy, hn2⟩ := nonzero_reading hnb hzb
  obtain ⟨n3, hz, hn3⟩ := inf_reading hnc hc
  have hinf : fdec (machineFmt (floatFmt d)) a = .inf n1 ∨ fdec (machineFmt (floatFmt d)) b = .inf n2 := by
    obtain ⟨h, -⟩ | ⟨h, -⟩ := h
    · obtain ⟨n, hn, -⟩ := inf_reading hna h
      exact .inl (hx.resolve_right (by rw [hn]; rintro ⟨_, _, _, h⟩; cases h))
    · obtain ⟨n, hn, -⟩ := inf_reading hnb h
      exact .inr (hy.resolve_right (by rw [hn]; rintro ⟨_, _, _, h⟩; cases h))
  refine fpFma_inf_sub_inf hx hy hinf hz ?_
  rw [hn1, hn2, hn3] at hsign
  cases n1 <;> cases n2 <;> cases n3 <;> simp at hsign ⊢

/-- Settles O14: NaN operands first, then each invalid operation by what `fdec` reads from its operands. -/
theorem nanResultsAreCanonical : Obligations.NanResultsAreCanonical := by
  intro d m r a b c _ _ _
  simp only [format_eq]
  have hcanon := canonNaN_floatFmt d
  have hquiet : nanOut (machineFmt (floatFmt d)) false = ((if d then 0x7FF8_0000_0000_0000 else 0x7FC0_0000 : ℕ), 0) := by
    rw [← hcanon]; rfl
  have hinvalid : nanOut (machineFmt (floatFmt d)) true = ((if d then 0x7FF8_0000_0000_0000 else 0x7FC0_0000 : ℕ), 0x10) := by
    rw [← hcanon]; rfl
  -- NV as the operands' signals give it
  have hnv : ∀ (s : Bool) (p : Prop), (s = true ↔ p) → ∀ w, w = nanOut (machineFmt (floatFmt d)) s →
      (¬ p → w = ((if d then 0x7FF8_0000_0000_0000 else 0x7FC0_0000 : ℕ), 0)) ∧
      (p → w = ((if d then 0x7FF8_0000_0000_0000 else 0x7FC0_0000 : ℕ), 0x10)) := by
    rintro s p hs w rfl
    rw [← hs, ← hquiet, ← hinvalid]
    cases s <;> simp
  rw [← hinvalid] at *
  refine ⟨fun hnan => ?two, fun hnan _ => ?quietFma, fun hsig => ?signalFma, ?one, fun hnan hneg => ?negative, fun hna hnb => ?pair⟩
  case two =>
    have h : ((fdec (machineFmt (floatFmt d)) a).isNaN || (fdec (machineFmt (floatFmt d)) b).isNaN) = true := by
      rwa [Bool.or_eq_true, isNaN_fdec, isNaN_fdec]
    have hs : ((fdec (machineFmt (floatFmt d)) a).signals || (fdec (machineFmt (floatFmt d)) b).signals) = true ↔ Signals d a ∨ Signals d b := by
      rw [Bool.or_eq_true, signals_fdec, signals_fdec]
    intro v hv
    simp only [List.mem_cons, List.not_mem_nil, or_false] at hv
    refine hnv _ _ hs v ?_
    obtain rfl | rfl | rfl | rfl := hv
    · exact fpAdd_nan h
    · exact fpSub_nan h
    · exact fpMul_nan h
    · exact fpDiv_nan h
  case quietFma =>
    obtain ⟨nv, hv, -⟩ := fpFma_nan (mode := m) (r := r) (t := machineFmt (floatFmt d)) (a := a) (b := b) (c := c)
      (by rwa [Bool.or_eq_true, Bool.or_eq_true, isNaN_fdec, isNaN_fdec, isNaN_fdec, or_assoc])
    rw [hv]
    exact hcanon
  case signalFma =>
    obtain ⟨nv, hv, hs⟩ := fpFma_nan (mode := m) (r := r) (t := machineFmt (floatFmt d)) (a := a) (b := b) (c := c)
      (by rw [Bool.or_eq_true, Bool.or_eq_true, isNaN_fdec, isNaN_fdec, isNaN_fdec, or_assoc]
          exact hsig.imp And.left (Or.imp And.left And.left))
    rw [hv, hs (by rwa [Bool.or_eq_true, Bool.or_eq_true, signals_fdec, signals_fdec, signals_fdec, or_assoc])]
  case one =>
    intro v hv
    simp only [List.mem_cons, List.not_mem_nil, or_false] at hv
    have hunary : IsNaN d a → v = nanOut (machineFmt (floatFmt d)) (decide (Signals d a)) := fun hnan => by
      obtain ⟨x, hx, hr⟩ := reading d a
      cases hr with
      | nan => obtain rfl | rfl | rfl := hv <;> simp only [fpSqrt, fpExp2, fpLog2, hx]
      | inf _ h => exact absurd hnan h
      | fin _ _ _ h => exact absurd hnan h
    exact ⟨fun h1 h2 => (hnv _ _ decide_eq_true_iff v (hunary h1)).1 h2, fun h => (hnv _ _ decide_eq_true_iff v (hunary h.1)).2 h⟩
  case negative =>
    obtain ⟨n, hx, hn⟩ := nonzero_reading hnan hneg.ne
    obtain rfl := hn.mp hneg
    obtain hx | ⟨k, e, hk, hx⟩ := hx <;> simp [fpSqrt, fpLog2, *]
  case pair =>
    refine ⟨fun ha hb hne => ?add, fun ha hb heq => ?sub, fun ha hb => ?infDiv, fun ha hb => ?zeroDiv, fun h => ?mul, fun hnc hc h hsign => ?fma⟩
    case add =>
      obtain ⟨n1, hx, hn1⟩ := inf_reading hna ha
      obtain ⟨n2, hy, hn2⟩ := inf_reading hnb hb
      have : n1 ≠ n2 := fun h => hne (by rw [hn1, hn2, h])
      simp [fpAdd, hx, hy, this]
    case sub =>
      obtain ⟨n1, hx, hn1⟩ := inf_reading hna ha
      have hy := inf_of_number hnb (heq ▸ hn1)
      have : n1 ≠ !n1 := by cases n1 <;> decide
      simp [fpSub, fpAdd, fdec_fpNeg, hx, hy, negated]
    case infDiv =>
      obtain ⟨n1, hx, -⟩ := inf_reading hna ha
      obtain ⟨n2, hy, -⟩ := inf_reading hnb hb
      simp [fpDiv, hx, hy]
    case zeroDiv =>
      obtain ⟨n1, e1, hx⟩ := zero_reading hna ha
      obtain ⟨n2, e2, hy⟩ := zero_reading hnb hb
      simp [fpDiv, hx, hy]
    case mul =>
      obtain ⟨ha, hb⟩ | ⟨ha, hb⟩ := h
      · obtain ⟨n1, hx, -⟩ := inf_reading hna ha
        obtain ⟨n2, e, hy⟩ := zero_reading hnb hb
        have := fpMul_inf_zero (mode := m) (r := r) (c := c) (.inl ⟨e, hx, hy⟩)
        exact ⟨this.1, fun _ => this.2⟩
      · obtain ⟨n1, e, hx⟩ := zero_reading hna ha
        obtain ⟨n2, hy, -⟩ := inf_reading hnb hb
        have := fpMul_inf_zero (mode := m) (r := r) (c := c) (.inr ⟨e, hx, hy⟩)
        exact ⟨this.1, fun _ => this.2⟩
    case fma => exact fpFma_opposite_infinities hna hnb hnc hc h hsign

end Sys2Proof.Proofs
end

section
/-! PROOFS. FMIN, FMAX and FCLASS (R178, R180). -/

namespace Sys2Proof.Proofs

open Sys2Proof.Machine Sys2Proof.Claim

/-- The weight class of a value in `fpCmp`, and its numerator over the smallest weight. -/
def cmpKey (F : Fmt) : FVal → ℤ × ℤ
  | .inf n => (if n then -1 else 1, 0)
  | .fin n m e => (0, (if n then -1 else 1) * ((m * pow2 (e - (1 - F.bias - (F.f : ℤ))) : ℕ) : ℤ))
  | .nan _ => (0, 0)

theorem fpCmp_eq {F : Fmt} {a b : ℕ} (ha : (fdec (machineFmt F) a).isNaN = false) (hb : (fdec (machineFmt F) b).isNaN = false) :
    fpCmp (machineFmt F) a b =
      let p := cmpKey F (fdec (machineFmt F) a)
      let q := cmpKey F (fdec (machineFmt F) b)
      if p.1 < q.1 ∨ (p.1 = q.1 ∧ p.2 < q.2) then some (-1) else if p.1 = q.1 ∧ p.2 = q.2 then some 0 else some 1 := by
  unfold fpCmp
  generalize fdec (machineFmt F) a = x at *
  generalize fdec (machineFmt F) b = y at *
  cases x with
  | nan => simp [FVal.isNaN] at ha
  | inf n =>
    cases y with
    | nan => simp [FVal.isNaN] at hb
    | inf | fin => rfl
  | fin n m e =>
    cases y with
    | nan => simp [FVal.isNaN] at hb
    | inf | fin => rfl

/-- The numerators of two numbers are in the order of the numbers. -/
theorem numerator_value {F : Fmt} {v : ℕ} {n : Bool} {m : ℕ} {e : ℤ} (h : Parts F v n m e) :
    ((cmpKey F (.fin n m e)).2 : ℚ) * 2 ^ least F = signum n * m * 2 ^ e := by
  have hs : ((if n then -1 else 1 : ℤ) : ℚ) = signum n := by cases n <;> rfl
  have := pow2_mul_zpow h.low
  unfold least at this ⊢
  rw [← this, cmpKey, Int.cast_mul, hs]
  push_cast
  ring

/-- The number that a weight class and a numerator stand for. -/
def keyNumber (F : Fmt) (k : ℤ × ℤ) : WithBot (WithTop ℚ) :=
  if k.1 < 0 then ⊥ else if 0 < k.1 then ((⊤ : WithTop ℚ) : WithBot (WithTop ℚ)) else ((k.2 * 2 ^ least F : ℚ) : WithTop ℚ)

/-- A value's key stands for its number, and is −1, 0 or 1 with a numerator for 0 alone. -/
theorem Reading.keyNumber {d : Bool} {v : ℕ} {x : FVal} (h : Reading d v x) (hnan : ¬ IsNaN d v) :
    number d v = keyNumber (floatFmt d) (cmpKey (floatFmt d) x) ∧
      (cmpKey (floatFmt d) x).1 ∈ [(-1 : ℤ), 0, 1] ∧ ((cmpKey (floatFmt d) x).1 ≠ 0 → (cmpKey (floatFmt d) x).2 = 0) := by
  cases h with
  | nan h' => exact absurd h' hnan
  | inf n _ _ hn =>
    rw [hn]
    cases n <;> simp [Proofs.keyNumber, cmpKey]
  | fin n m e _ hp hn =>
    refine ⟨?_, by simp [cmpKey], fun h => absurd rfl h⟩
    rw [hn, ← numerator_value hp]
    rfl

theorem keyNumber_neg (F : Fmt) (k : ℤ) : keyNumber F (-1, k) = ⊥ := rfl
theorem keyNumber_pos (F : Fmt) (k : ℤ) : keyNumber F (1, k) = ⊤ := rfl
theorem bot_lt_keyNumber_zero (F : Fmt) (k : ℤ) : ⊥ < keyNumber F (0, k) := WithBot.bot_lt_coe _
theorem keyNumber_zero_lt_top (F : Fmt) (k : ℤ) : keyNumber F (0, k) < ⊤ := WithBot.coe_lt_coe.mpr (WithTop.coe_lt_top _)

theorem keyNumber_zero_lt (F : Fmt) (k k' : ℤ) : keyNumber F (0, k) < keyNumber F (0, k') ↔ k < k' := by
  have hpos : (0 : ℚ) < 2 ^ least F := by positivity
  change (((k * 2 ^ least F : ℚ) : WithTop ℚ) : WithBot (WithTop ℚ)) < ((k' * 2 ^ least F : ℚ) : WithTop ℚ) ↔ k < k'
  rw [WithBot.coe_lt_coe, WithTop.coe_lt_coe, mul_lt_mul_iff_left₀ hpos, Int.cast_lt]

/-- Keys are in the order of their numbers: by weight class, then by numerator. -/
theorem keyNumber_lt (F : Fmt) {p q : ℤ × ℤ} (hp : p.1 ∈ [(-1 : ℤ), 0, 1]) (hq : q.1 ∈ [(-1 : ℤ), 0, 1]) (hp0 : p.1 ≠ 0 → p.2 = 0)
    (hq0 : q.1 ≠ 0 → q.2 = 0) : keyNumber F p < keyNumber F q ↔ p.1 < q.1 ∨ (p.1 = q.1 ∧ p.2 < q.2) := by
  obtain ⟨c, n⟩ := p
  obtain ⟨c', n'⟩ := q
  simp only [List.mem_cons, List.not_mem_nil, or_false] at hp hq
  rcases hp with rfl | rfl | rfl <;> rcases hq with rfl | rfl | rfl <;>
    simp_all [keyNumber_neg, keyNumber_pos, keyNumber_zero_lt, bot_lt_keyNumber_zero, keyNumber_zero_lt_top]

theorem keyNumber_eq (F : Fmt) {p q : ℤ × ℤ} (hp : p.1 ∈ [(-1 : ℤ), 0, 1]) (hq : q.1 ∈ [(-1 : ℤ), 0, 1]) (hp0 : p.1 ≠ 0 → p.2 = 0)
    (hq0 : q.1 ≠ 0 → q.2 = 0) : keyNumber F p = keyNumber F q ↔ p.1 = q.1 ∧ p.2 = q.2 := by
  refine ⟨fun h => ?_, fun h => by rw [Prod.ext h.1 h.2]⟩
  have h1 := mt (keyNumber_lt F hp hq hp0 hq0).mpr h.not_lt
  have h2 := mt (keyNumber_lt F hq hp hq0 hp0).mpr h.not_gt
  omega

/-- `fpCmp` compares the numbers that its operands stand for. -/
theorem fpCmp_number {d : Bool} {a b : ℕ} (ha : ¬ IsNaN d a) (hb : ¬ IsNaN d b) : fpCmp (machineFmt (floatFmt d)) a b =
    if number d a < number d b then some (-1) else if number d a = number d b then some 0 else some 1 := by
  have hna := mt (isNaN_fdec d a).mp ha
  have hnb := mt (isNaN_fdec d b).mp hb
  rw [fpCmp_eq (by simpa using hna) (by simpa using hnb)]
  obtain ⟨x, hx, hrx⟩ := reading d a
  obtain ⟨y, hy, hry⟩ := reading d b
  obtain ⟨hna, hp, hp0⟩ := hrx.keyNumber ha
  obtain ⟨hnb, hq, hq0⟩ := hry.keyNumber hb
  simp only [hx, hy, hna, hnb, keyNumber_lt _ hp hq hp0 hq0, keyNumber_eq _ hp hq hp0 hq0]

/-- The sign bit of an encoding in range. -/
theorem sign_bit_iff {d : Bool} {a : ℕ} (ha : a < 2 ^ (if d then 64 else 32)) :
    a / 2 ^ ((floatFmt d).x + (floatFmt d).f) % 2 = 1 ↔ (if d then 2 ^ 63 else 2 ^ 31) ≤ a := by
  cases d
  · have : a < 2 ^ 32 := ha
    change a / 2 ^ 31 % 2 = 1 ↔ 2 ^ 31 ≤ a
    omega
  · have : a < 2 ^ 64 := ha
    change a / 2 ^ 63 % 2 = 1 ↔ 2 ^ 63 ≤ a
    omega

/-- Of two operands that are no NaNs, the one that FMIN takes: the smaller, or −0 of two zeros. -/
theorem fpMinMax_number {d : Bool} {a b : ℕ} (isMax : Bool) (hna : ¬ IsNaN d a) (hnb : ¬ IsNaN d b) :
    fpMinMax (machineFmt (floatFmt d)) isMax a b =
      (if decide (number d a < number d b ∨ (number d a = number d b ∧ a / 2 ^ ((floatFmt d).x + (floatFmt d).f) % 2 = 1)) != isMax
        then a else b, 0) := by
  have ha : (fdec (machineFmt (floatFmt d)) a).isNaN = false := by simpa using mt (isNaN_fdec d a).mp hna
  have hb : (fdec (machineFmt (floatFmt d)) b).isNaN = false := by simpa using mt (isNaN_fdec d b).mp hnb
  have hsa : (fdec (machineFmt (floatFmt d)) a).signals = false := by
    simpa using mt (signals_fdec d a).mp fun hs => hna hs.1
  have hsb : (fdec (machineFmt (floatFmt d)) b).signals = false := by
    simpa using mt (signals_fdec d b).mp fun hs => hnb hs.1
  simp only [fpMinMax, ha, hb, hsa, hsb, fpCmp_number hna hnb, Bool.or_false, Bool.and_false, Bool.false_eq_true, if_false, machineFmt_x,
    machineFmt_f]
  by_cases hlt : number d a < number d b
  · simp [hlt]
  · by_cases heq : number d a = number d b
    · by_cases hs : a / 2 ^ ((floatFmt d).x + (floatFmt d).f) % 2 = 1 <;> simp [heq, hs]
    · simp [hlt, heq]

theorem fpMinMax_nan {d : Bool} {a b : ℕ} (isMax : Bool) (h : IsNaN d a ∨ IsNaN d b) : fpMinMax (machineFmt (floatFmt d)) isMax a b =
    (if IsNaN d a ∧ IsNaN d b then canonNaN (machineFmt (floatFmt d)) else if IsNaN d a then b else a,
      if Signals d a ∨ Signals d b then 0x10 else 0) := by
  have hflags : (if (fdec (machineFmt (floatFmt d)) a).signals || (fdec (machineFmt (floatFmt d)) b).signals then fNV else 0 : BitVec 6) =
      if Signals d a ∨ Signals d b then 0x10 else 0 := by
    simp only [Bool.or_eq_true, signals_fdec]
    rfl
  simp only [fpMinMax, hflags, Bool.and_eq_true, isNaN_fdec]
  by_cases ha : IsNaN d a <;> by_cases hb : IsNaN d b <;> simp_all

/-- FMIN, FMAX and FCLASS (R178, R180). -/
theorem choosesAndClasses {d : Bool} {a b : ℕ} (ha : a < 2 ^ (if d then 64 else 32)) : ChoosesAndClasses d a b := by
  unfold ChoosesAndClasses
  simp only [format_eq]
  refine ⟨fun hna hnb => ⟨fun h => ?less, fun h => ?greater⟩, fun top => ⟨fun h h' => ?nanL, fun h h' => ?nanR, fun h h' => ?nans⟩,
    fun h => ?classNaN, fun h hinf => ?classInf, fun p hp => ?classNumber⟩
  case less =>
    rw [fpMinMax_number _ hna hnb, fpMinMax_number _ hna hnb, decide_eq_true (h.imp_right (And.imp_right (sign_bit_iff ha).mpr))]
    exact ⟨rfl, rfl⟩
  case greater =>
    have hnot : ¬ (number d a < number d b ∨ (number d a = number d b ∧ (if d then 2 ^ 63 else 2 ^ 31) ≤ a)) := by
      rintro (hlt | ⟨heq, hle⟩)
      · exact h.elim (fun h => lt_asymm hlt h) fun h => hlt.ne h.1
      · exact h.elim (fun h => h.ne heq.symm) fun h => absurd hle (not_le.mpr h.2)
    rw [← sign_bit_iff ha] at hnot
    rw [fpMinMax_number _ hna hnb, fpMinMax_number _ hna hnb, decide_eq_false hnot]
    exact ⟨rfl, rfl⟩
  case nanL => rw [fpMinMax_nan top (.inl h), if_neg fun hb => h' hb.2, if_pos h]
  case nanR => rw [fpMinMax_nan top (.inr h'), if_neg fun hb => h hb.1, if_neg h]
  case nans => rw [fpMinMax_nan top (.inl h), if_pos ⟨h, h'⟩, canonNaN_floatFmt]
  case classNaN =>
    obtain ⟨x, hx, hr⟩ := reading d a
    cases hr with
    | nan => simp only [fpClass, hx, decide_eq_true_eq]; rfl
    | inf _ hn => exact absurd h hn
    | fin _ _ _ hn => exact absurd h hn
  case classInf =>
    have hs := value_eq_none.mp hinf
    have hfrac : a % 2 ^ (floatFmt d).f = 0 := by
      by_contra hf
      exact h ((isNaN_iff d a).mpr ⟨hs, hf⟩)
    simp only [fpClass, fdec_special hs, floatFmt_inf, hfrac, true_and, if_true, decide_eq_true_eq, sign_bit_iff ha]
    rfl
  case classNumber =>
    obtain ⟨n, m, e, hp', rfl⟩ := parts_of_value hp
    have hsign : n = true ↔ (if d then 2 ^ 63 else 2 ^ 31) ≤ a := by rw [← sign_bit_iff ha, hp'.sign, decide_eq_true_eq]
    have hleast : (if d then 2 ^ (-1022 : ℤ) else 2 ^ (-126 : ℤ) : ℚ) = 2 ^ (1 - (floatFmt d).bias) := by cases d <;> rfl
    have hnormal := subnormal_iff hp'.low hp'.normal
    simp only [fpClass, hp'.read, machineFmt_f, signed_eq_zero, hleast]
    rcases Nat.eq_zero_or_pos m with rfl | hm
    · simp only [if_true, ← hsign]
      rfl
    · have hpos : (0 : ℚ) < m * 2 ^ e := by positivity
      rw [if_neg hm.ne', if_neg hm.ne']
      cases n with
      | true =>
        have hneg : signum true * (m : ℚ) * 2 ^ e < 0 := by rw [signum_true]; linarith
        have hle : signum true * (m : ℚ) * 2 ^ e ≤ -2 ^ (1 - (floatFmt d).bias) ↔ ¬ m < 2 ^ (floatFmt d).f := by
          rw [← hnormal, signum_true, not_lt, neg_one_mul, neg_mul, neg_le_neg_iff]
        simp only [hneg, hle, if_true]
        split <;> simp_all
      | false =>
        have hnonneg : ¬ signum false * (m : ℚ) * 2 ^ e < 0 := by rw [signum_false]; linarith
        have hlt : signum false * (m : ℚ) * 2 ^ e < 2 ^ (1 - (floatFmt d).bias) ↔ m < 2 ^ (floatFmt d).f := by
          rw [← hnormal, signum_false, one_mul]
        simp only [hnonneg, hlt, if_false, Bool.false_eq_true]
        rfl

end Sys2Proof.Proofs
end

section
/-! PROOFS. Conversions between formats and to integers (R77 to R79, R179). -/

namespace Sys2Proof.Proofs

open Sys2Proof.Machine Sys2Proof.Claim

/-- A number that the format holds is given as it is. -/
theorem roundFp_exact {F : Fmt} (hF : Proper F) {mode : BitVec 3} {sat neg : Bool} {m : ℕ} {e : ℤ} {r : BitVec 32} {d : Option ℕ}
    (hgrid : OnGrid F ((m * 2 ^ e : ℚ) : ℝ)) (hnext : (m : ℚ) * 2 ^ e < F.next) :
    F.value (roundFp (machineFmt F) mode sat neg m e false r d).1 = some (signum neg * m * 2 ^ e) ∧
      (roundFp (machineFmt F) mode sat neg m e false r d).2 = 0 := by
  rcases Nat.eq_zero_or_pos m with rfl | hm
  · rw [roundFp_zero, value_fsign hF]
    simp
  · have hcast : ((m * 2 ^ e : ℚ) : ℝ) = m * 2 ^ e := by push_cast; rfl
    obtain ⟨k, inexact, h, -⟩ := roundFp_roundsMag hF (mode := mode) (sat := sat) (neg := neg) (r := r) (d := d) hm.ne'
      (hcast ▸ standsFor_exact m e (unitOf F m e))
    have heq : (k : ℝ) * 2 ^ unitOf F m e = ((m * 2 ^ e : ℚ) : ℝ) := le_antisymm (h.mag.above _ hgrid le_rfl) (h.mag.below _ hgrid le_rfl)
    have heq' : (k : ℚ) * 2 ^ unitOf F m e = m * 2 ^ e := Rat.cast_injective (α := ℝ) (by rw [← heq]; push_cast; rfl)
    obtain hover | henc := h.result
    · have := hover.large
      rw [heq'] at this
      exact absurd hnext (not_lt.mpr this)
    · refine ⟨by rw [henc.value, heq', mul_assoc], ?_⟩
      rw [henc.flags, h.exact.mpr heq]
      rfl

section
variable {F G : Fmt} {mode : BitVec 3} {sat : Bool} {r : BitVec 32} {v m : ℕ} {neg : Bool} {e : ℤ}

theorem fpToFp_fin {t : FpFmt} (h : fdec t v = .fin neg m e) : fpToFp t (machineFmt F) mode sat r v =
    roundFp (machineFmt F) mode (sat && decide ((machineFmt F).width = 8)) neg m e false r none := by
  simp only [fpToFp, h]

/-- A conversion to a format rounds once. -/
theorem fpToFp_rounds (hF : Proper F) {t : FpFmt} (h : fdec t v = .fin neg m e) :
    Rounds F (sat && decide ((machineFmt F).width = 8)) mode (signum neg * m * 2 ^ e : ℚ) (fpToFp t (machineFmt F) mode sat r v) := by
  rw [fpToFp_fin h]
  exact roundFp_rounds_exact hF rfl

/-- A conversion to a format that holds every number of the source's is exact. -/
theorem fpToFp_exact (hF : Proper F) (hG : Proper G) (hinf : G.inf = true) (hf : G.f ≤ F.f) (hl : least F ≤ least G) (hn : G.next ≤ F.next)
    {p : ℚ} (hp : G.value v = some p) :
    F.value (fpToFp (machineFmt G) (machineFmt F) mode sat r v).1 = some p ∧ (fpToFp (machineFmt G) (machineFmt F) mode sat r v).2 = 0 := by
  obtain ⟨neg, m, e, h, rfl⟩ := parts_of_value hp
  have habs : |signum neg * (m : ℚ) * 2 ^ e| = m * 2 ^ e := by
    rw [mul_assoc, abs_mul, abs_signum, one_mul, abs_of_nonneg (by positivity)]
  have hlt := lt_next_of_value hG hinf hp
  rw [habs] at hlt
  rw [fpToFp_fin h.read]
  refine roundFp_exact hF ⟨m, e, ?_, hl.trans h.low, by push_cast; rfl⟩ (lt_of_lt_of_le hlt hn)
  exact lt_of_lt_of_le h.bound (Nat.pow_le_pow_right two_pos (by omega))

theorem fpToFp_inf {t : FpFmt} (h : fdec t v = .inf neg) (hinf : F.inf = true) (hw : (machineFmt F).width ≠ 8) :
    fpToFp t (machineFmt F) mode sat r v = (finf (machineFmt F) neg, 0) := by
  simp [fpToFp, h, hinf, hw]

end

/-! Integers. -/

/-- A magnitude rounded for a sign is an integer rounded. -/
theorem RoundsTo.roundsInt {mode : BitVec 3} {neg inexact : Bool} {q : ℚ} {k : ℕ} (h : RoundsTo mode neg (q : ℝ) k inexact) (hq : 0 ≤ q) :
    RoundsInt mode (signum neg * q) (if neg then -(k : ℤ) else k) ∧
      (inexact = false ↔ ((if neg then -(k : ℤ) else k : ℤ) : ℚ) = signum neg * q) := by
  have hk : ((if neg then -(k : ℤ) else k : ℤ) : ℚ) = signum neg * k := by cases neg <;> simp
  have hcast : ((k : ℚ) : ℝ) = k := Rat.cast_natCast k
  have hdist : |signum neg * q - signum neg * k| = |(k : ℚ) - q| := by
    rw [← mul_sub, abs_mul, abs_signum, one_mul, abs_sub_comm]
  have hdistR : ((|(k : ℚ) - q| : ℚ) : ℝ) = |(k : ℝ) - q| := by push_cast; rfl
  have habs : ∀ x : ℚ, 0 ≤ x → |signum neg * x| = x := fun x hx => by rw [abs_mul, abs_signum, one_mul, abs_of_nonneg hx]
  have hle : ∀ x y : ℚ, (x : ℝ) ≤ y ↔ x ≤ y := fun x y => Rat.cast_le
  have hhalf : |(k : ℚ) - q| = 1 / 2 ↔ |(k : ℝ) - q| = 1 / 2 := by
    rw [← hdistR, ← Rat.cast_inj (α := ℝ)]
    norm_num
  have hhalf' : |(k : ℚ) - q| ≤ 1 / 2 ↔ |(k : ℝ) - q| ≤ 1 / 2 := by
    rw [← hdistR, ← Rat.cast_le (K := ℝ)]
    norm_num
  have hparity : (if neg then -(k : ℤ) else k) % 2 = 0 ↔ k % 2 = 0 := by cases neg <;> simp <;> omega
  have hneg : ∀ x y : ℚ, signum neg * x ≤ signum neg * y ↔ if neg then y ≤ x else x ≤ y := fun x y => by cases neg <;> simp
  rw [RoundsInt, hk, hdist, habs _ hq, habs _ k.cast_nonneg, hparity, hhalf, hhalf', hneg, hneg]
  have hlow := fun hm => (hle k q).mp (by rw [hcast]; exact h.toward hm)
  have hhigh := fun hm => (hle q k).mp (by rw [hcast]; exact h.outward hm)
  refine ⟨⟨?_, fun hm => ⟨h.nearest (.inl hm), h.even hm⟩, fun hm => hlow (.inl hm), fun hm => ?_, fun hm => ?_,
    fun hm => ⟨h.nearest (.inr hm), fun heq => (hle q k).mp (by rw [hcast]; exact h.away hm heq)⟩⟩, ?_⟩
  · rw [← Rat.cast_lt (K := ℝ), hdistR, Rat.cast_one]
    exact h.near
  · cases neg
    · exact hlow (.inr (.inl ⟨hm, rfl⟩))
    · exact hhigh (.inl ⟨hm, rfl⟩)
  · cases neg
    · exact hhigh (.inr ⟨hm, rfl⟩)
    · exact hlow (.inr (.inr ⟨hm, rfl⟩))
  · rw [h.exact, mul_right_inj' (by cases neg <;> simp), ← hcast, Rat.cast_inj]

theorem roundsInt_exact (mode : BitVec 3) (k : ℤ) : RoundsInt mode k k := by simp [RoundsInt]

/-- A number to an integer of w bits (R78). -/
theorem roundToInt_converts {w : ℕ} (hw : w ≤ 64) (mode : BitVec 3) (neg : Bool) {m : ℕ} (hm : m < 2 ^ 64) (e : ℤ) (r : BitVec 32)
    (d : Option ℕ) : ConvertsInt w mode (signum neg * m * 2 ^ e) (roundToInt w mode neg m e false r d) := by
  have hbound : (2 : ℤ) ^ (w - 1) ≤ 2 ^ 63 := pow_le_pow_right₀ one_le_two (by omega)
  have hbpos : (0 : ℤ) < 2 ^ (w - 1) := by positivity
  unfold roundToInt
  split
  case isTrue h =>
    obtain ⟨hm0, hbig⟩ := h
    have he : 0 ≤ e := by
      have := (Nat.log2_lt hm0).mpr hm
      omega
    have hsize := (log2_size hm0 e).1
    have hpow := pow2_eq_zpow he
    have hlarge : (2 : ℤ) ^ 64 ≤ (m * pow2 e : ℕ) := by
      have : (2 : ℚ) ^ (64 : ℤ) ≤ m * 2 ^ e := (zpow_le_zpow_right₀ one_le_two (by omega)).trans hsize
      rw [← hpow] at this
      exact_mod_cast this
    have hz : signum neg * m * 2 ^ e = ((if neg then -((m * pow2 e : ℕ) : ℤ) else ((m * pow2 e : ℕ) : ℤ) : ℤ) : ℚ) := by
      rw [← hpow]
      cases neg <;> simp
    rw [hz]
    refine ⟨_, roundsInt_exact .., fun hk => ?_, fun hk => ?_, fun h1 h2 => ?_⟩
    · cases neg
      · simp at hk; omega
      · rfl
    · cases neg
      · rfl
      · simp at hk; omega
    · cases neg <;> simp at h1 h2 <;> omega
  case isFalse =>
    have hcast : ((m * 2 ^ e : ℚ) : ℝ) = m * 2 ^ e / 2 ^ (0 : ℤ) := by push_cast; rw [zpow_zero, div_one]
    have hto := roundMag_roundsTo (mode := mode) (neg := neg) (r := r) (d := d.getD (-e).toNat) (standsFor_exact m e 0)
    rw [← hcast] at hto
    obtain ⟨hint, hexact⟩ := hto.roundsInt (by positivity)
    rw [← mul_assoc] at hint hexact
    generalize roundMag mode neg m e false 0 r (d.getD (-e).toNat) = q at *
    dsimp only
    generalize (if neg then -(q.1 : ℤ) else q.1) = k at *
    refine ⟨k, hint, fun hk => ?_, fun hk => ?_, fun h1 h2 => ?_⟩
    · rw [clampInt, if_pos hk]; rfl
    · rw [clampInt, if_neg (by omega), if_pos (by omega)]; rfl
    · rw [clampInt, if_neg (by omega), if_neg (by omega)]
      simp only [Bool.false_eq_true, if_false, ← hexact]
      cases q.2 <;> rfl

/-- An integer to a format (R78). -/
theorem intToFp_rounds {F : Fmt} (hF : Proper F) (mode : BitVec 3) (sat : Bool) (r : BitVec 32) (i : ℤ) :
    Rounds F sat mode i (intToFp (machineFmt F) mode sat r i) := by
  have h := roundFp_rounds_exact hF (mode := mode) (sat := sat) (r := r) (d := none) (p := i) (neg := decide (i < 0)) (m := i.natAbs) (e := 0)
    (by rw [signum_natAbs, zpow_zero, mul_one])
  rwa [Rat.cast_intCast] at h

section
variable {t : FpFmt} {w : ℕ} {mode : BitVec 3} {r : BitVec 32} {v : ℕ}

theorem fpToInt_converts (hw : w ≤ 64) {F : Fmt} (hf : F.f ≤ 52) {p : ℚ} (hp : F.value v = some p) :
    ConvertsInt w mode p (fpToInt (machineFmt F) w mode r v) := by
  obtain ⟨neg, m, e, h, rfl⟩ := parts_of_value hp
  simp only [fpToInt, h.read]
  exact roundToInt_converts hw mode neg (lt_of_lt_of_le h.bound (Nat.pow_le_pow_right two_pos (by omega))) e r none

theorem fpToInt_inf {neg : Bool} (h : fdec t v = .inf neg) : fpToInt t w mode r v = (if neg then -2 ^ (w - 1) else 2 ^ (w - 1) - 1, 0x10) := by
  simp only [fpToInt, h]
  rfl

theorem fpToInt_nan {s : Bool} (h : fdec t v = .nan s) : fpToInt t w mode r v = (0, 0x10) := by
  simp only [fpToInt, h]
  rfl

theorem fpToFp_nan {F : Fmt} {sat s : Bool} (h : fdec t v = .nan s) :
    fpToFp t (machineFmt F) mode sat r v = (canonNaN (machineFmt F), if s then 0x10 else 0) := by
  simp only [fpToFp, h]
  rfl

end

theorem nan_reading {d : Bool} {v : ℕ} (h : IsNaN d v) : fdec (machineFmt (floatFmt d)) v = .nan (decide (Signals d v)) := by
  obtain ⟨x, hx, hr⟩ := reading d v
  cases hr with
  | nan => exact hx
  | inf _ hn => exact absurd h hn
  | fin _ _ _ hn => exact absurd h hn

/-- The conversions of FCVT (R77 to R79, R179). -/
theorem convertsByTheTable (m : BitVec 3) (r : BitVec 32) (v : ℕ) : ConvertsByTheTable m r v := by
  have hdouble := proper_floatFmt true
  have hsingle := proper_floatFmt false
  have hnextDouble : (floatFmt false).next ≤ (floatFmt true).next := zpow_le_zpow_right₀ one_le_two (by decide)
  have hnextSingle : bfloat.next ≤ (floatFmt false).next := zpow_le_zpow_right₀ one_le_two (by decide)
  refine ⟨fun p hp => ⟨?_, fpToInt_converts le_rfl (by decide) hp⟩, fun _ p hp => ⟨?_, fpToInt_converts le_rfl (by decide) hp,
    fpToInt_converts (by decide) (by decide) hp, ?_⟩, fun _ p hp => ?_, fun i _ _ => ⟨intToFp_rounds hsingle .., intToFp_rounds hdouble ..⟩,
    fun neg => ⟨fun hv => ?_, fun hv => ?_, fun hv => ?_⟩, fun h => ?_, fun h => ?_⟩
  · obtain ⟨n, k, e, h, rfl⟩ := parts_of_value hp
    exact fpToFp_rounds hsingle h.read
  · obtain ⟨n, k, e, h, rfl⟩ := parts_of_value hp
    exact fpToFp_rounds proper_bfloat h.read
  · exact fpToFp_exact hdouble hsingle rfl (by decide) (by decide) hnextDouble hp
  · exact fpToFp_exact hsingle proper_bfloat rfl (by decide) (by decide) hnextSingle hp
  -- infinities
  · have hinf : fdec fp64 v = .inf neg := by rw [hv]; cases neg <;> rfl
    exact ⟨fpToFp_inf (F := floatFmt false) hinf rfl (by decide), fpToInt_inf hinf⟩
  · have hinf : fdec fp32 v = .inf neg := by rw [hv]; cases neg <;> rfl
    exact ⟨fpToFp_inf (F := floatFmt true) hinf rfl (by decide), fpToFp_inf (F := bfloat) hinf rfl (by decide), fpToInt_inf hinf, fpToInt_inf hinf⟩
  · have hinf : fdec bf16 v = .inf neg := by rw [hv]; cases neg <;> rfl
    exact fpToFp_inf (F := floatFmt false) hinf rfl (by decide)
  -- NaNs
  · have hnan := nan_reading h
    refine ⟨?_, fpToInt_nan hnan⟩
    rw [fp64_eq, fp32_eq, fpToFp_nan hnan]
    simp only [decide_eq_true_eq]
    rfl
  · have hnan := nan_reading h
    refine ⟨?_, ?_, fpToInt_nan hnan, fpToInt_nan hnan⟩
    · rw [fp64_eq, fp32_eq, fpToFp_nan hnan]
      simp only [decide_eq_true_eq]
      rfl
    · rw [bf16_eq, fp32_eq, fpToFp_nan hnan]
      simp only [decide_eq_true_eq]
      rfl

end Sys2Proof.Proofs
end

section
/-! PROOFS. TS8 (R63, R79): the nearest value and its canonical encoding. -/

namespace Sys2Proof.Proofs

open Sys2Proof.Machine Sys2Proof.Claim

/-- TS8 values in units of 2^−6. -/
theorem tsValue_eq (v : ℕ) : tsValue v = ts8Val v / 64 := by
  have hterm : ∀ s e : ℕ, e < 8 → (if e = 7 then 0 else (if s = 1 then -1 else 1) / 2 ^ e : ℚ) =
      ((if e = 7 then 0 else (if s = 1 then -1 else 1) * ((2 ^ (6 - e) : ℕ) : ℤ) : ℤ) : ℚ) / 64 := fun s e he => by
    interval_cases e <;> by_cases hs : s = 1 <;> simp [hs] <;> norm_num
  simp only [tsValue, ts8Val]
  rw [hterm _ _ (Nat.mod_lt _ (by norm_num)), hterm _ _ (Nat.mod_lt _ (by norm_num)), ← add_div, ← Int.cast_add]

/-- The canonical encodings of R79, over values in units of 2^−6. -/
def tsCanonical (v : ℕ) : Bool :=
  let one (u : ℕ) : Bool := decide (u / 16 % 8 < u % 8 ∧ u % 8 < 7)
  let like (u : ℕ) : Bool := decide (u / 128 % 2 = u / 8 % 2)
  if ts8Val v = 0 then decide (v = 0x77) else if ts8Val v = 128 then decide (v = 0x00) else if ts8Val v = -128 then decide (v = 0x88)
  else if (List.range 7).any (fun k => decide ((ts8Val v).natAbs = 2 ^ (6 - k))) then decide (v % 8 = 7) && like v
  else one v && (like v || (List.range 256).all (fun u => !(one u && decide (ts8Val u = ts8Val v) && like u)))

theorem tsCanonical_spec {v : ℕ} (h : tsCanonical v = true) : TsCanonical v := by
  have hval : ∀ k : ℤ, tsValue v = k / 64 ↔ ts8Val v = k := fun k => by
    rw [tsValue_eq, div_left_inj' (by norm_num), Int.cast_inj]
  have h0 : tsValue v = 0 ↔ ts8Val v = 0 := by simpa using hval 0
  have h2 : tsValue v = 2 ↔ ts8Val v = 128 := by rw [← hval]; norm_num
  have hn2 : tsValue v = -2 ↔ ts8Val v = -128 := by rw [← hval]; norm_num
  have hpow : (∃ k < 7, |tsValue v| = 1 / 2 ^ k) ↔ ((List.range 7).any (fun k => decide ((ts8Val v).natAbs = 2 ^ (6 - k)))) = true := by
    simp only [List.any_eq_true, List.mem_range, decide_eq_true_eq]
    refine exists_congr fun k => and_congr_right fun hk => ?_
    have h64 : (1 : ℚ) / 2 ^ k = ((2 ^ (6 - k) : ℕ) : ℚ) / 64 := by interval_cases k <;> norm_num
    rw [tsValue_eq, abs_div, abs_of_pos (by norm_num : (0 : ℚ) < 64), h64, div_left_inj' (by norm_num), ← Int.cast_abs, Int.abs_eq_natAbs,
      Int.cast_natCast, Nat.cast_inj]
  have hsame : ∀ u, tsValue u = tsValue v ↔ ts8Val u = ts8Val v := fun u => by
    rw [tsValue_eq, tsValue_eq, div_left_inj' (by norm_num), Int.cast_inj]
  unfold tsCanonical at h
  unfold TsCanonical
  simp only [h0, h2, hn2, hpow, hsame]
  by_cases c0 : ts8Val v = 0
  · rw [if_pos c0] at h ⊢
    exact of_decide_eq_true h
  rw [if_neg c0] at h ⊢
  by_cases c2 : ts8Val v = 128
  · rw [if_pos c2] at h ⊢
    exact of_decide_eq_true h
  rw [if_neg c2] at h ⊢
  by_cases cn2 : ts8Val v = -128
  · rw [if_pos cn2] at h ⊢
    exact of_decide_eq_true h
  rw [if_neg cn2] at h ⊢
  split at h
  case isTrue c => simpa [c] using h
  case isFalse c =>
    rw [if_neg c]
    simp only [Bool.and_eq_true, Bool.or_eq_true, decide_eq_true_eq, List.all_eq_true, List.mem_range] at h
    obtain ⟨hone, hlike⟩ := h
    refine ⟨hone, hlike.imp_right fun hall u hu h1 h2 h3 => ?_⟩
    simpa [h1, h2, h3] using hall u hu

/-- The encoding of a magnitude and a sign is one byte, canonical, and stands for them. -/
def encodesTs8 (neg : Bool) (b : ℕ) : Bool :=
  (ts8Enc neg b).any fun w => decide (w < 256) && tsCanonical w && decide (ts8Val w = if neg then -(b : ℤ) else b)

theorem ts8Enc_table : (ts8Mags.all fun b => [true, false].all fun neg => encodesTs8 neg b) = true := by decide +kernel

theorem ts8Enc_of_mem (neg : Bool) {b : ℕ} (hb : b ∈ ts8Mags) :
    ∃ w, ts8Enc neg b = some w ∧ w < 256 ∧ TsCanonical w ∧ tsValue w = signum neg * (b / 64) := by
  have h : encodesTs8 neg b = true := by
    have := ts8Enc_table
    simp only [List.all_eq_true] at this
    exact this b hb neg (by cases neg <;> simp)
  unfold encodesTs8 at h
  cases hw : ts8Enc neg b with
  | none => simp [hw] at h
  | some w =>
    simp only [hw, Option.any_some, Bool.and_eq_true, decide_eq_true_eq] at h
    obtain ⟨⟨hlt, hcanon⟩, hval⟩ := h
    refine ⟨w, rfl, hlt, tsCanonical_spec hcanon, ?_⟩
    rw [tsValue_eq, hval]
    cases neg <;> simp [neg_div]

theorem ts8Mags_table : ((List.range 256).all fun u => ts8Mags.contains (ts8Val u).natAbs) = true := by decide +kernel

theorem natAbs_ts8Val_mem {u : ℕ} (hu : u < 256) : (ts8Val u).natAbs ∈ ts8Mags :=
  List.contains_iff_mem.mp (List.all_eq_true.mp ts8Mags_table u (List.mem_range.mpr hu))

theorem ts8Mags_sorted : ts8Mags.Pairwise (· ≤ ·) := by decide +kernel

/-- Choosing the strictly nearer element along an ascending list gives the nearest, and the least of several. -/
theorem foldl_nearest (dist : ℕ → ℕ) : ∀ (l : List ℕ) (b : ℕ), (∀ v ∈ l, b ≤ v) → l.Pairwise (· ≤ ·) →
    let w := l.foldl (fun b v => if dist v < dist b then v else b) b
    w ∈ b :: l ∧ ∀ v ∈ b :: l, dist w ≤ dist v ∧ (dist w = dist v → w ≤ v)
  | [], b, _, _ => by simp
  | x :: xs, b, hb, hl => by
    obtain ⟨hx, hxs⟩ := List.pairwise_cons.mp hl
    have hbx := hb x (List.mem_cons_self ..)
    rw [List.foldl_cons]
    by_cases hlt : dist x < dist b
    · rw [if_pos hlt]
      obtain ⟨hmem, hnear⟩ := foldl_nearest dist xs x hx hxs
      refine ⟨List.mem_cons_of_mem _ hmem, fun v hv => ?_⟩
      rcases List.mem_cons.mp hv with rfl | hv
      · have := (hnear x (List.mem_cons_self ..)).1
        exact ⟨by omega, fun heq => by omega⟩
      · exact hnear v hv
    · rw [if_neg hlt]
      obtain ⟨hmem, hnear⟩ := foldl_nearest dist xs b (fun v hv => hb v (List.mem_cons_of_mem _ hv)) hxs
      obtain ⟨hb1, hb2⟩ := hnear b (List.mem_cons_self ..)
      refine ⟨by rcases List.mem_cons.mp hmem with h | h <;> simp [h], fun v hv => ?_⟩
      rcases List.mem_cons.mp hv with rfl | hv
      · exact ⟨hb1, hb2⟩
      · rcases List.mem_cons.mp hv with rfl | hv
        · exact ⟨by omega, fun heq => (hb2 (by omega)).trans hbx⟩
        · exact hnear v (List.mem_cons_of_mem _ hv)

/-- The distance of num / den from a magnitude, as `toTs8` takes it. -/
def ts8Dist (num den v : ℕ) : ℕ := ((num * 64 : ℤ) - (v * den : ℤ)).natAbs

theorem ts8Dist_cast {num den : ℕ} (hden : 0 < den) (v : ℕ) : (ts8Dist num den v : ℚ) = |(num : ℚ) / den - v / 64| * (64 * den) := by
  have hd : (0 : ℚ) < 64 * den := by positivity
  have hcross : (num : ℚ) * 64 - v * den = ((num : ℚ) / den - v / 64) * (64 * den) := by field_simp
  rw [ts8Dist, Nat.cast_natAbs, Int.cast_abs]
  push_cast
  rw [hcross, abs_mul, abs_of_pos hd]

/-- `toTs8` gives the encoding of the nearest magnitude, the least of several. -/
theorem toTs8_nearest (neg : Bool) (num den : ℕ) : ∃ best w, toTs8 neg num den = (w, if ts8Dist num den best = 0 then 0 else fNX) ∧
    (w < 256 ∧ TsCanonical w ∧ tsValue w = signum neg * (best / 64)) ∧
    ∀ v ∈ ts8Mags, ts8Dist num den best ≤ ts8Dist num den v ∧ (ts8Dist num den best = ts8Dist num den v → best ≤ v) := by
  have hzero : 0 ∈ ts8Mags := by decide +kernel
  obtain ⟨hmem, hnear⟩ := foldl_nearest (ts8Dist num den) ts8Mags 0 (fun v _ => v.zero_le) ts8Mags_sorted
  have hbest : toTs8 neg num den = ((ts8Enc neg (ts8Mags.foldl (fun b v => if ts8Dist num den v < ts8Dist num den b then v else b) 0)).getD 0x77,
      if ts8Dist num den (ts8Mags.foldl (fun b v => if ts8Dist num den v < ts8Dist num den b then v else b) 0) = 0 then 0 else fNX) := rfl
  rw [hbest]
  generalize ts8Mags.foldl (fun b v => if ts8Dist num den v < ts8Dist num den b then v else b) 0 = best at *
  have hin : best ∈ ts8Mags := (List.mem_cons.mp hmem).elim (fun h => h ▸ hzero) id
  obtain ⟨w, henc, hw⟩ := ts8Enc_of_mem neg hin
  exact ⟨best, w, by rw [henc]; rfl, hw, fun v hv => hnear v (List.mem_cons_of_mem _ hv)⟩

/-- A number is given as the nearest TS8 value, the smaller of two (R79). -/
theorem toTs8_rounds (neg : Bool) (num : ℕ) {den : ℕ} (hden : 0 < den) : RoundsTs (signum neg * (num / den)) (toTs8 neg num den) := by
  have hd : (0 : ℚ) < 64 * den := by positivity
  obtain ⟨best, w, heq, ⟨hw, hcanon, hts⟩, hnear⟩ := toTs8_nearest neg num den
  rw [heq]
  have hdist : |signum neg * (num / den) - tsValue w| = |(num : ℚ) / den - best / 64| := by
    rw [hts, ← mul_sub, abs_mul, abs_signum, one_mul]
  have habs : |tsValue w| = best / 64 := by rw [hts, abs_mul, abs_signum, one_mul, abs_of_nonneg (by positivity)]
  refine ⟨hw, hcanon, ?_, fun u hu => ?_⟩
  · have hexact : ts8Dist num den best = 0 ↔ tsValue w = signum neg * (num / den) := by
      rw [← Nat.cast_eq_zero (R := ℚ), ts8Dist_cast hden, mul_eq_zero_iff_right hd.ne', abs_eq_zero, sub_eq_zero, hts, eq_comm,
        mul_right_inj' (by cases neg <;> simp)]
    simp only [hexact]
    rfl
  · obtain ⟨hle, htie⟩ := hnear _ (natAbs_ts8Val_mem hu)
    have hmag : |tsValue u| = ((ts8Val u).natAbs : ℕ) / 64 := by
      rw [tsValue_eq, abs_div, abs_of_pos (by norm_num : (0 : ℚ) < 64), Nat.cast_natAbs, Int.cast_abs]
    -- the distance to u is at least that to its magnitude
    have hfar : |(num : ℚ) / den - ((ts8Val u).natAbs : ℕ) / 64| ≤ |signum neg * (num / den) - tsValue u| := by
      have h1 : |signum neg * ((num : ℚ) / den)| = num / den := by rw [abs_mul, abs_signum, one_mul, abs_of_nonneg (by positivity)]
      have := abs_abs_sub_abs_le (signum neg * ((num : ℚ) / den)) (tsValue u)
      rwa [h1, hmag] at this
    have hleQ : |(num : ℚ) / den - best / 64| ≤ |(num : ℚ) / den - ((ts8Val u).natAbs : ℕ) / 64| := by
      rw [← mul_le_mul_iff_left₀ hd, ← ts8Dist_cast hden, ← ts8Dist_cast hden]
      exact_mod_cast hle
    rw [hdist, habs, hmag]
    refine ⟨hleQ.trans hfar, fun hsame => ?_⟩
    have hboth := le_antisymm hleQ (hsame ▸ hfar)
    rw [← mul_left_inj' hd.ne', ← ts8Dist_cast hden, ← ts8Dist_cast hden, Nat.cast_inj] at hboth
    have : ((best : ℕ) : ℚ) ≤ ((ts8Val u).natAbs : ℕ) := by exact_mod_cast htie hboth
    gcongr

end Sys2Proof.Proofs
end

section
/-! PROOFS. Elements converted between the formats of R57 (R77 to R79, R245), and the results on ordinary operands as a whole. -/

namespace Sys2Proof.Proofs

open Sys2Proof.Machine Sys2Proof.Claim

/-- The source of `convertElem` as a value. -/
def elemValue (src x : ℕ) : FVal :=
  match fmtFp src with
  | some t => fdec t x
  | none =>
    if src = 3 then .fin (decide (ts8Val x < 0)) (ts8Val x).natAbs (-6)
    else .fin (decide (signedOf (8 * fmtSize src) x < 0)) (signedOf (8 * fmtSize src) x).natAbs 0

/-- What `convertElem` makes of a value in a floating-point format. -/
def convertToFloat (t : FpFmt) (mode : BitVec 3) (sat : Bool) (r : BitVec 32) : FVal → ℕ × BitVec 6
  | .nan s => nanOut t s
  | .inf n => if sat && decide (t.width = 8) then (fmax t n, 0) else if t.inf then (finf t n, 0) else (overflowTo t mode false n, 0)
  | .fin n m e => roundFp t mode (sat && decide (t.width = 8)) n m e false r none

/-- What it makes of a value in TS8. -/
def convertToTs8 : FVal → ℕ × BitVec 6
  | .nan _ => (0x77, fNV)
  | .inf n => (if n then 0x88 else 0x00, fNX)
  | .fin n m e => if e ≥ 0 then toTs8 n (m * pow2 e) 1 else toTs8 n m (pow2 (-e))

/-- What it makes of a value in an integer of w bits, before it is stored. -/
def convertToInt (w : ℕ) (mode : BitVec 3) (r : BitVec 32) : FVal → ℤ × BitVec 6
  | .nan _ => (0, fNV)
  | .inf n => (if n then -(2 ^ (w - 1) : ℤ) else (2 ^ (w - 1) : ℤ) - 1, fNV)
  | .fin n m e => roundToInt w mode n m e false r none

section
variable {src dst : ℕ} {mode : BitVec 3} {sat : Bool} {r : BitVec 32} {v : ℕ}

theorem convertElem_float (hne : src ≠ dst) {t : FpFmt} (h : fmtFp dst = some t) :
    convertElem src dst mode sat r v = convertToFloat t mode sat r (elemValue src v) := by
  rw [convertElem, if_neg hne]
  simp only [h]
  rfl

theorem convertElem_ts8 (hne : src ≠ 3) : convertElem src 3 mode sat r v = convertToTs8 (elemValue src v) := by
  rw [convertElem, if_neg hne]
  rfl

theorem convertElem_int (hne : src ≠ dst) (h : dst = 2 ∨ dst = 6) : convertElem src dst mode sat r v =
    (patternOf (8 * fmtSize dst) (convertToInt (8 * fmtSize dst) mode r (elemValue src v)).1,
      (convertToInt (8 * fmtSize dst) mode r (elemValue src v)).2) := by
  rw [convertElem, if_neg hne]
  obtain rfl | rfl := h <;> rfl

end

/-! The formats of the codes. -/

theorem fmtFp_eq {c : ℕ} (hc : c ≤ 6) : fmtFp c = (codeFmt c).map machineFmt := by interval_cases c <;> rfl

theorem fmtSize_eq {c : ℕ} (hc : c ≤ 6) : fmtSize c = codeSize c := by interval_cases c <;> rfl

theorem codeFmt_cases {c : ℕ} {F : Fmt} (h : codeFmt c = some F) :
    (c = 0 ∧ F = ⟨4, 3, false⟩) ∨ (c = 1 ∧ F = ⟨5, 2, true⟩) ∨ (c = 4 ∧ F = bfloat) ∨ (c = 5 ∧ F = floatFmt false) := by
  unfold codeFmt at h
  split at h <;> simp_all

theorem proper_codeFmt {c : ℕ} {F : Fmt} (h : codeFmt c = some F) : Proper F ∧ F.f ≤ 52 := by
  obtain ⟨-, rfl⟩ | ⟨-, rfl⟩ | ⟨-, rfl⟩ | ⟨-, rfl⟩ := codeFmt_cases h
  · exact ⟨⟨by decide, by decide⟩, by decide⟩
  · exact ⟨⟨by decide, by decide⟩, by decide⟩
  · exact ⟨proper_bfloat, by decide⟩
  · exact ⟨proper_floatFmt false, by decide⟩

theorem width_codeFmt {c : ℕ} {F : Fmt} (h : codeFmt c = some F) : (machineFmt F).width = 8 * codeSize c := by
  obtain ⟨rfl, rfl⟩ | ⟨rfl, rfl⟩ | ⟨rfl, rfl⟩ | ⟨rfl, rfl⟩ := codeFmt_cases h <;> rfl

theorem signedOf_eq (w v : ℕ) (hw : 0 < w) : signedOf w v = (BitVec.ofNat w v).toInt := by
  have hpow : 2 ^ w = 2 * 2 ^ (w - 1) := by rw [← pow_succ', Nat.sub_add_cancel hw]
  have hcond : v % 2 ^ w < 2 ^ (w - 1) ↔ 2 * (v % 2 ^ w) < 2 ^ w := by omega
  rw [signedOf, BitVec.toInt_eq_toNat_cond, BitVec.toNat_ofNat]
  simp only [hcond]
  push_cast
  rfl

theorem natAbs_signedOf_lt (w v : ℕ) : (signedOf w v).natAbs ≤ 2 ^ w := by
  have hlt : v % 2 ^ w < 2 ^ w := Nat.mod_lt _ (by positivity)
  have hpow : (2 : ℤ) ^ w = (2 ^ w : ℕ) := by push_cast; rfl
  unfold signedOf
  rw [hpow]
  split <;> omega

/-- An integer as a value: its sign and its magnitude. -/
theorem signum_natAbs_zpow (i : ℤ) (e : ℤ) : signum (decide (i < 0)) * i.natAbs * 2 ^ e = (i : ℚ) * 2 ^ e := by rw [signum_natAbs]

/-- Every element that stands for a number is read as that number. -/
theorem elemValue_fin {src : ℕ} (hsrc : src ≤ 6) {v : ℕ} (hv : v < 2 ^ (8 * codeSize src)) {p : ℚ} (hp : codeValue src v = some p) :
    ∃ n m e, elemValue src v = .fin n m e ∧ m < 2 ^ 64 ∧ p = signum n * m * 2 ^ e := by
  cases hF : codeFmt src with
  | some F =>
    rw [codeValue, hF] at hp
    obtain ⟨n, m, e, h, hval⟩ := parts_of_value hp
    have hbound : 2 ^ (F.f + 1) ≤ 2 ^ 64 := Nat.pow_le_pow_right two_pos (by have := (proper_codeFmt hF).2; omega)
    refine ⟨n, m, e, ?_, lt_of_lt_of_le h.bound hbound, hval⟩
    rw [elemValue, fmtFp_eq hsrc, hF]
    exact h.read
  | none =>
    have hread : fmtFp src = none := by rw [fmtFp_eq hsrc, hF]; rfl
    simp only [codeValue, hF, Option.some.injEq] at hp
    simp only [elemValue, hread]
    split at hp
    case isTrue h3 =>
      subst h3
      have hsmall : (ts8Val v).natAbs < 129 := List.mem_range.mp (List.mem_of_mem_filter (natAbs_ts8Val_mem hv))
      refine ⟨_, _, _, if_pos rfl, by omega, ?_⟩
      have h64 : (2 : ℚ) ^ (-6 : ℤ) = 1 / 64 := by norm_num
      rw [signum_natAbs_zpow, ← hp, tsValue_eq, h64, mul_one_div]
    case isFalse h3 =>
      have hw : 0 < 8 * codeSize src ∧ 8 * codeSize src ≤ 32 := by interval_cases src <;> decide
      have hsmall : 2 ^ (8 * codeSize src) < 2 ^ 64 := Nat.pow_lt_pow_right one_lt_two (by omega)
      refine ⟨_, _, _, if_neg h3, lt_of_le_of_lt (natAbs_signedOf_lt _ _) (fmtSize_eq hsrc ▸ hsmall), ?_⟩
      rw [signum_natAbs_zpow, ← hp, fmtSize_eq hsrc, signedOf_eq _ _ hw.1, zpow_zero, mul_one]

/-- An element that stands for no number is an infinity or a NaN, by its fraction. -/
theorem elemValue_special {src : ℕ} (hsrc : src ≤ 6) {v : ℕ} {F : Fmt} (hF : codeFmt src = some F) (hv : F.value v = none) : elemValue src v =
    if F.inf = false ∨ v % 2 ^ F.f ≠ 0 then .nan (decide ((src = 4 ∨ src = 5) ∧ v % 2 ^ F.f < 2 ^ (F.f - 1)))
    else .inf (decide (v / 2 ^ (F.x + F.f) % 2 = 1)) := by
  have hread : elemValue src v = fdec (machineFmt F) v := by rw [elemValue, fmtFp_eq hsrc, hF]; rfl
  rw [hread, fdec_special (value_eq_none.mp hv)]
  by_cases h : F.inf = true ∧ v % 2 ^ F.f = 0
  · rw [if_pos h, if_neg (by simp [h])]
  · rw [if_neg h, if_pos (by by_contra hn; simp at hn; exact h hn)]
    congr 2
    obtain ⟨rfl, rfl⟩ | ⟨rfl, rfl⟩ | ⟨rfl, rfl⟩ | ⟨rfl, rfl⟩ := codeFmt_cases hF <;> simp [bfloat, floatFmt]

/-- An element of any format to a floating-point one: numbers. -/
theorem convertToFloat_rounds {t : FpFmt} {F : Fmt} (hF : Proper F) (ht : t = machineFmt F) (mode : BitVec 3) (sat : Bool) (r : BitVec 32)
    (n : Bool) (m : ℕ) (e : ℤ) : Rounds F (sat && decide (t.width = 8)) mode (signum n * m * 2 ^ e : ℚ) (convertToFloat t mode sat r (.fin n m e)) := by
  subst ht
  exact roundFp_rounds_exact hF rfl

theorem convertToTs8_rounds (n : Bool) (m : ℕ) (e : ℤ) : RoundsTs (signum n * m * 2 ^ e) (convertToTs8 (.fin n m e)) := by
  have hpos : ∀ k : ℤ, 0 < pow2 k := fun k => by unfold pow2; positivity
  unfold convertToTs8
  by_cases he : e ≥ 0
  · have h := toTs8_rounds n (m * pow2 e) one_pos
    rw [Nat.cast_mul, pow2_eq_zpow he, Nat.cast_one, div_one, ← mul_assoc] at h
    simpa only [if_pos he] using h
  · have h := toTs8_rounds n m (hpos (-e))
    have hpow := pow2_neg_mul (not_le.mp he)
    have hne : ((pow2 (-e) : ℕ) : ℚ) ≠ 0 := by exact_mod_cast (hpos _).ne'
    rw [div_eq_mul_inv, inv_eq_of_mul_eq_one_right hpow, ← mul_assoc] at h
    simpa only [if_neg he] using h

/-- An infinity in a format of one byte or more, saturated or not, and in one without infinities (R68, R77). -/
theorem convertToFloat_inf {dst : ℕ} {G : Fmt} (hG : codeFmt dst = some G) (mode : BitVec 3) (sat : Bool) (r : BitVec 32) (neg : Bool) :
    convertToFloat (machineFmt G) mode sat r (.inf neg) =
      ((if G.inf then (if sat = true ∧ 8 * codeSize dst = 8 then (if neg = true then 2 ^ (G.x + G.f) else 0) + (2 ^ G.x - 1) * 2 ^ G.f - 1
          else (if neg = true then 2 ^ (G.x + G.f) else 0) + (2 ^ G.x - 1) * 2 ^ G.f)
        else if sat = true ∨ mode = 1 ∨ (mode = 2 ∧ ¬ neg = true) ∨ (mode = 3 ∧ neg = true) then (if neg = true then 2 ^ (G.x + G.f) else 0) + 0x7E
        else 0x7F), 0) := by
  have hwidth := width_codeFmt hG
  have hone : ∀ sat', convertToFloat (machineFmt G) mode sat' r (.inf neg) = if sat' = true ∧ 8 * codeSize dst = 8 then (fmax (machineFmt G) neg, 0)
      else if G.inf then (finf (machineFmt G) neg, 0) else (overflowTo (machineFmt G) mode false neg, 0) := fun sat' => by
    simp only [convertToFloat, hwidth, Bool.and_eq_true, decide_eq_true_eq]
    rfl
  rw [hone]
  obtain ⟨rfl, rfl⟩ | ⟨rfl, rfl⟩ | ⟨rfl, rfl⟩ | ⟨rfl, rfl⟩ := codeFmt_cases hG
  · cases sat <;> cases neg <;> simp [codeSize, overflowTo_eq, fmax, fsign, canonNaN]
  · cases sat <;> cases neg <;> rfl
  · cases sat <;> cases neg <;> rfl
  · cases sat <;> cases neg <;> rfl

theorem canonNaN_codeFmt {c : ℕ} {G : Fmt} (hG : codeFmt c = some G) :
    canonNaN (machineFmt G) = if G.inf then (2 ^ G.x - 1) * 2 ^ G.f + 2 ^ (G.f - 1) else 0x7F := by
  obtain ⟨rfl, rfl⟩ | ⟨rfl, rfl⟩ | ⟨rfl, rfl⟩ | ⟨rfl, rfl⟩ := codeFmt_cases hG <;> rfl

/-- An element converts between any two formats (R77 to R79, R245). -/
theorem convertsElement {src dst : ℕ} (hsrc : src ≤ 6) (hdst : dst ≤ 6) (m : BitVec 3) (sat : Bool) (r : BitVec 32) {v : ℕ}
    (hv : v < 2 ^ (8 * codeSize src)) : ConvertsElement src dst m sat r v := by
  have hfloat : ∀ G, codeFmt dst = some G → src ≠ dst →
      convertElem src dst m sat r v = convertToFloat (machineFmt G) m sat r (elemValue src v) := fun G hG hne =>
    convertElem_float hne (by rw [fmtFp_eq hdst, hG]; rfl)
  have hint : dst = 2 ∨ dst = 6 → src ≠ dst → convertElem src dst m sat r v =
      (patternOf (8 * codeSize dst) (convertToInt (8 * codeSize dst) m r (elemValue src v)).1,
        (convertToInt (8 * codeSize dst) m r (elemValue src v)).2) := fun hd hne => by
    rw [← fmtSize_eq hdst]
    exact convertElem_int hne hd
  have hbits : 8 * codeSize dst ≤ 64 := by interval_cases dst <;> decide
  refine ⟨fun h => by rw [h, convertElem, if_pos rfl], fun hne => ⟨fun p hp => ?number, fun F hF hspecial => ⟨fun hnan => ?nan, fun hinf => ?inf⟩⟩⟩
  case number =>
    obtain ⟨n, k, e, hread, hk, rfl⟩ := elemValue_fin hsrc hv hp
    rw [hread] at hfloat hint
    refine ⟨fun G hG => ?_, fun hd => ?_, fun hd => ?_⟩
    · rw [hfloat G hG hne, ← width_codeFmt hG]
      exact convertToFloat_rounds (proper_codeFmt hG).1 rfl ..
    · rw [hint hd hne]
      exact ⟨_, roundToInt_converts hbits m n hk e r none, rfl⟩
    · subst hd
      rw [convertElem_ts8 hne, hread]
      exact convertToTs8_rounds n k e
  case nan =>
    have hread := (elemValue_special hsrc hF hspecial).trans (if_pos hnan)
    rw [hread] at hfloat hint
    refine ⟨fun G hG => ?_, fun hd => hint hd hne, fun hd => ?_⟩
    · rw [hfloat G hG hne, ← canonNaN_codeFmt hG]
      simp only [convertToFloat, nanOut, decide_eq_true_eq]
      rfl
    · subst hd
      rw [convertElem_ts8 hne, hread]
      rfl
  case inf =>
    have hread := (elemValue_special hsrc hF hspecial).trans (if_neg hinf)
    rw [hread] at hfloat hint
    refine ⟨fun G hG => ⟨_, ?_, rfl⟩, fun hd => ?_, fun hd => ?_⟩
    · rw [hfloat G hG hne, convertToFloat_inf hG]
      simp only [decide_eq_true_eq]
    · rw [hint hd hne]
      simp only [convertToInt, decide_eq_true_eq]
      rfl
    · subst hd
      rw [convertElem_ts8 hne, hread]
      simp only [convertToTs8, decide_eq_true_eq]
      rfl

/-! The results as a whole. -/

theorem flags_zero_exact {F : Fmt} {mode : BitVec 3} {sat : Bool} {z : ℚ} {w : ℕ × BitVec 6} (h : Rounds F sat mode (z : ℝ) w) (hw : w.2 = 0) :
    F.value w.1 = some z := by
  obtain ⟨-, y, hy, -, -, -, -, hnx, -⟩ := h.2 (by rw [hw]; rfl)
  have : (y : ℝ) = z := by
    by_contra hne
    have := hnx.mpr hne
    rw [hw] at this
    cases this
  rw [hy, Rat.cast_inj.mp this]

/-- Settles O15: sums, differences and products without a flag are exact because they are rounded once; the rest is the rounding of each
operation, in the order of the statement. -/
theorem unflaggedResultsAreExact : Obligations.UnflaggedResultsAreExact := by
  constructor
  · intro d m r a b p q ha hb hna hnb hp hq
    have ha' : a < 2 ^ (1 + (floatFmt d).x + (floatFmt d).f) := by cases d <;> exact ha
    have hb' : b < 2 ^ (1 + (floatFmt d).x + (floatFmt d).f) := by cases d <;> exact hb
    obtain ⟨hadd, hsub, hmul, -⟩ := arithmeticRounds (proper_floatFmt d) (by cases d <;> decide) (mode := m) (r := r) (c := 0) ha' hb' p q
      (value_of_number hna hp) (value_of_number hnb hq)
    simp only [format_eq]
    exact ⟨fun h => number_of_value (flags_zero_exact hadd h), fun h => number_of_value (flags_zero_exact hsub h),
      fun h => number_of_value (flags_zero_exact hmul h)⟩
  · intro d m r a b c _
    refine ⟨fun ha _ => choosesAndClasses ha, fun v _ => convertsByTheTable m r v, fun t ht ha hb _ => ?_,
      fun src dst sat hsrc hdst v hv => convertsElement hsrc hdst m sat r hv⟩
    obtain ⟨heq, hF⟩ := powerFmt_of_mem ht
    rw [heq]
    exact ⟨arithmeticRounds hF.toProper (lt_of_le_of_lt hF.short (by norm_num)) ha hb, powersRound hF m r a⟩

end Sys2Proof.Proofs
end
